-- ==== Sys2Proof/Word.lean ====
section
/-! DEFINITION. The machine's words and the small plain data types that instructions and events carry. -/

namespace Sys2Proof

/-- A 64-bit scalar register, address or doubleword. -/
abbrev Word := BitVec 64

/-- One byte of memory. -/
abbrev Byte := BitVec 8

/-- The five slot classes of a full bundle (R43, R52): each has its own opcode space. -/
inductive SlotClass
  | scalar | control | vector | matrix | copy
  deriving DecidableEq, Repr

/-- The ordered streams of a cluster's copy engine: a core's channel (R277), a copy queue of a
cluster (R278), and the trigger copy stream of a die (R381). -/
inductive CopyStream
  | channel (core ch : Nat)
  | queue (cluster q : Nat)
  | trigger (die : Nat)
  deriving DecidableEq, Repr

/-- The links of a compute die (R339): row neighbour, column neighbour, I/O die. -/
inductive DieLink
  | row | column | io
  deriving DecidableEq, Repr

/-- The PCIe AtomicOps of the host (R354). -/
inductive HostAtomicKind
  | fetchAdd | swap | cas
  deriving DecidableEq, Repr

/-- What a request of another module asks of the owner die (R364, R368). `memberWrite`: a member's copy of a multicast (R374);
`release`: its windows hold a line no more (R228, R233). -/
inductive RemoteKind
  | read (len : Nat)
  | write (data : List Byte)
  | atomic (op : Nat) (narrow : Bool) (operand : Word)
  | cas (narrow : Bool) (expected new : Word)
  | cas128 (expLo expHi newLo newHi : Word)
  | pageOp (op : Nat)
  | fill (exclusive : Bool)
  | combine (rop : Nat) (data : List Byte)
  | counterAdd (amount : Word)
  | counterRead
  | writeBack (data : List Byte)
  | sectorWrite (mask : BitVec 32) (data : List Byte)
  | memberWrite (data : List Byte)
  | release
  deriving DecidableEq, Repr

/-- What a boot fixes beside the module id: the channels of each die (R342), the clusters whose control cores run in split mode (R269)
and log2 of the size of BAR2 (R354). -/
structure BootSettings where
  channels : List (BitVec 16)
  split : BitVec 16
  bar2 : Nat
  deriving DecidableEq, Repr

/-- A request sent on an ordering stream of a frame, by the id that its answer carries (R361, R367). -/
structure StreamRequest where
  stream : Nat
  id : Nat
  deriving DecidableEq, Repr

/-- A multicast group, and the stream of another module on which its root receives a write (R374). -/
structure GroupWrite where
  source : BitVec 8
  core : Nat
  frame : Nat
  stream : Nat
  group : Nat
  deriving DecidableEq, Repr

/-- How the other side answered an interlocked operation that left the module (R364, R367, R369):
data, or an error reply with a cause code and the DETAIL it carries. -/
inductive Reply
  | data (bytes : List Byte)
  | error (cause : BitVec 8) (detail : BitVec 16)
  | nack (cause : BitVec 8)
  deriving DecidableEq, Repr

end Sys2Proof
end

