-- ==== Sys2Proof/Syntax.lean ====
section
/-! DEFINITION. The instruction set: one constructor for each row of the opcode table. A syllable (a row with an
encoding) carries its guard `g` (R52, R53) and its operand fields; an event (a row without an encoding, a step of the
sequencer, an engine, the host or the fabric) carries the plain data that names what happens. -/

namespace Sys2Proof

/-- The operations and events of the NA-1160. -/
inductive Instr
  /-- FULL_BUNDLE. The sequencer issues a 32-byte full bundle of up to seven syllables at one bundle time, after decoding it whole (R43) -/
  | fullBundle
  /-- REFERENCE. A reference of a reference block issues bundle-table entry IDX once, decrements REPLEFT and advances when REPLEFT reaches 0 (R47) -/
  | reference
  /-- SKIP. One empty bundle time owed by the SKIP field of the last bundle is issued (R45) -/
  | skip
  /-- EXPOSED_RESULT_LANDS. An exposed result issued at t with latency L lands on its destination at task bundle time t + L and raises its flags (R94) -/
  | exposedResultLands
  /-- INTERLOCKED_COMPLETION. An interlocked operation produces its result, and a bundle frozen on it may then proceed (R96) -/
  | interlockedCompletion (id : Nat) (reply : Reply)
  /-- STASH_FILL. The fill of an invalid window line on first touch ends, and the frozen core resumes (R231) -/
  | stashFill (core : Nat) (reply : Reply)
  /-- TRAP_ENTRY. At a bundle boundary the core freezes, completes interlocked work, latches in-flight exposed results, writes the trap registers and enters TVEC at S (R108) -/
  | trapEntry
  /-- RIM_WAIT_PARK. A rim wait of tres, tres.part, kwait, a forced resolve or a scale test that has waited 256 package ticks at a pre-read safe point parks the frame (R101) -/
  | rimWaitPark
  /-- WAIT_TIMEOUT. A wait or tcwait whose timeout in package ticks expires ends with p1 := 0 (R141) -/
  | waitTimeout (core pos : Nat)
  /-- WAIT_WAKEUP. A write signalled by the home or owning scratchpad wakes a waiting task, which re-reads the word and ends its wait if the condition holds (R141) -/
  | waitWakeup (core pos : Nat)
  /-- QUANTUM_EXPIRY. A running frame that has used its quantum of 2^12 bundle times yields the core at its next effective safe point (R261) -/
  | quantumExpiry
  /-- PREEMPTION. A frame is pre-empted at an effective safe point after its interlocked operations complete, and is saved to a context record (R105) -/
  | preemption (core pos : Nat)
  /-- CONTEXT_RESTORE. A pre-empted task is restored to the core it left, its region rewritten, its bundle table revalidated and its windows remapped (R265) -/
  | contextRestore (cluster index : Nat)
  /-- PHASE_CANCEL. An uncorrectable error consumed inside a phase restores the checkpoint, counts a cancel and reruns the declared inputs' packets, or traps PHASE_REPEAT on the fourth (R241) -/
  | phaseCancel
  /-- PACKET_TAKE. The queue engine takes the published packet at READ, copies it, advances READ as a release and accepts or rejects it (R246) -/
  | packetTake (cluster : Nat)
  /-- INSTANCE_CREATION. A launch in ISSUING creates its next instance with a weight drawn from its share and reserve (R257) -/
  | instanceCreation (cluster entry : Nat)
  /-- TASK_PLACEMENT. The scheduler places a READY task on the hinted core or on the fitting core with the fewest resident frames (R259) -/
  | taskPlacement (cluster : Nat)
  /-- CLASS_AGING. Every 2^16 ticks a task spends READY or PLACED without running, its effective class drops by one, down to 0 (R260) -/
  | classAging (cluster : Nat)
  /-- FRAME_DISPLACEMENT. A READY task that fits no core displaces a lower-class frame, or after 2^16 ticks a parked frame owed no reply (R262) -/
  | frameDisplacement (cluster : Nat)
  /-- LAUNCH_COMPLETE. When a launch's weight is whole again, its windows are unmapped, its status is finalised, DONEVAL is stored, TRIG is raised and its successors and hoops are released (R255) -/
  | launchComplete (cluster entry : Nat)
  /-- HOOP_PHASE_COMPLETE. In the package tick after the last arrival, the hoop network completes the phase and makes every waiting member ready (R266) -/
  | hoopPhaseComplete (cluster hoop : Nat)
  /-- FIRMWARE_CHECKPOINT. Every 2^16 cycles the control-core pair takes a checkpoint and releases the firmware outputs it held back (R270) -/
  | firmwareCheckpoint (cluster : Nat)
  /-- LOCKSTEP_MISMATCH. A mismatch in lockstep mode suppresses the outputs and restarts the firmware from its checkpoint; the third within one interval halts the pair (R270) -/
  | lockstepMismatch (cluster : Nat)
  /-- COPY_START. A copy channel starts its next copy once its predecessor has completed, checking the packet before moving any byte (R277) -/
  | copyStart (stream : CopyStream)
  /-- COPY_COMPLETE. After its last payload byte, a copy writes its status word and completion word as a release and raises TRIG (R280) -/
  | copyComplete (stream : CopyStream)
  /-- COPY_QUEUE_TAKE. The copy engine takes the next published packet of a copy queue and runs it as an ordered stream (R278) -/
  | copyQueueTake (cluster : Nat)
  /-- SC_PERFORM. An SC operation performs within the tick at which the slot wheel stands at its core's position and its earlier accesses are visible (R336) -/
  | scPerform
  /-- FRAME_RECLAIM. After pfree, once accesses through the old entry have performed, the die zeroes the frame and returns it to the free-frame pool (R312) -/
  | frameReclaim (die : Nat)
  /-- MIGRATE_PAGE. MIGCMD 1 moves a committed 64 KiB page to another frame of the die, with requests held and replayed (R313) -/
  | migratePage (die : Nat)
  /-- EVICT_PAGE. MIGCMD 2 evicts a page to a pool page taken from the pool page list (R409) -/
  | evictPage (die : Nat)
  /-- FETCH_IN_PAGE. MIGCMD 3 fetches a pool-resident page into a frame of the free-frame pool (R409) -/
  | fetchInPage (die : Nat)
  /-- EVICTION_POLICY. When the free-frame pool falls below the low watermark, the die sweeps its evictable ranges and evicts pages with A = 0 until the high watermark is reached (R411) -/
  | evictionPolicy (die : Nat)
  /-- DIE_WARM_RESET. A write of DRESET bit 0 freezes the die, recalls and writes back its lines, ends its launches and copies, resets it and retrains its links (R344) -/
  | dieWarmReset (die : Nat)
  /-- DIE_RESET_CLEAR. A warm reset with CLEAR also zeroes the die's whole GDDR 7, page tables and free-frame pool before readmission (R349) -/
  | dieResetClear (die : Nat)
  /-- DIE_READMISSION. After link retraining, the die is readmitted with an empty directory and MTLBs, and its firmware restarts (R344) -/
  | dieReadmission (die : Nat)
  /-- DIE_FAILURE. A die that stops answering or reports a fatal error is taken offline at once, and the lines only it held are poisoned (R349) -/
  | dieFailure (die : Nat)
  /-- DIE_LINK_FAILURE. A die-to-die link that fails retraining stays down, and traffic is rerouted or the die becomes offline (R341) -/
  | dieLinkFailure (die : Nat) (link : DieLink)
  /-- FREE_FRAME_PUSH. A write of FFPUSH zeroes a 64 KiB frame and adds it to the die's free-frame pool (R310) -/
  | freeFramePush (die : Nat) (frame : Word)
  /-- POOL_PAGE_PUSH. A write of PPPUSH adds a pool page to the die's pool page list (R409) -/
  | poolPagePush (die : Nat) (page : Word)
  /-- FAULT_RESUME. Writing a fault record's TOKEN to FRESUME performs the held request again, then the requests held behind it, and releases the stream (R367) -/
  | faultResume (die : Nat) (token : Word)
  /-- FAULT_REFUSE. Writing a TOKEN to FREFUSE returns the stream's held requests unperformed, and the issuing task traps with the record's cause (R368) -/
  | faultRefuse (die : Nat) (token : Word)
  /-- REGION_TABLE_WRITE. A driver write of a pool region entry makes an allowed state transition, or is ignored and sets the refused-write flag (R406) -/
  | regionTableWrite (region : Nat) (value : Word)
  /-- REGISTER_WRITE. An aligned 8-byte write to a BAR0 register that has no behaviour of its own stores the value (R355) -/
  | registerWrite (offset : Nat) (value : Word)
  /-- BAR0_MALFORMED_ACCESS. A BAR0 access that is not an aligned 8-byte access reads all ones and writes nothing (R355) -/
  | bar0MalformedAccess (offset size : Nat) (isWrite : Bool)
  /-- REGISTER_LAUNCH_QUEUE. Mailbox command 1 registers a launch queue descriptor with the cluster's queue engine (R244) -/
  | registerLaunchQueue (cluster : Nat) (descriptor : Word)
  /-- REGISTER_COPY_QUEUE. Mailbox command 2 registers a copy queue with the cluster's copy engine (R278) -/
  | registerCopyQueue (cluster : Nat) (descriptor : Word)
  /-- UNREGISTER_QUEUE. Mailbox command 3 unregisters a queue, which ends a stall of that queue (R246) -/
  | unregisterQueue (cluster : Nat) (descriptor : Word)
  /-- SET_CONTEXT_POOL. Mailbox command 4 sets the cluster's context-record pool base and record count (R264) -/
  | setContextPool (cluster : Nat) (base count : Word)
  /-- ATTESTATION_REPORT. An attestation request returns a report of the measurements, CAPS and nonce signed with the next LMS leaf, or is refused once the leaves are exhausted (R356) -/
  | attestationReport (nonce : BitVec 256)
  /-- PACKAGE_BOOT. At package boot the firmware is verified, the channels and configuration are fixed, and the package bundle-time counter starts at 0 (R352) -/
  | packageBoot (firmwareGood : Bool) (module : BitVec 8) (settings : BootSettings)
  /-- CLOCK_STEP. Management lowers or raises the package arithmetic clock in 25 MHz steps (R353) -/
  | clockStep (raise : Bool)
  /-- HOST_ACCESS. A host read or write through BAR2 is translated by MTLB 6 of the owner die and performed as a package-scope access (R354) -/
  | hostAccess (isWrite : Bool) (offset : Nat) (size : Nat) (data : List Byte)
  /-- HOST_ATOMIC. A PCIe FetchAdd, Swap or CAS AtomicOp from the host executes at the home slice at package scope (R354) -/
  | hostAtomic (kind : HostAtomicKind) (narrow : Bool) (va operand compare : Word)
  /-- REMOTE_REQUEST. A request from another module arrives at the owner die, is translated and performed, or is answered with an error, held, or given a negative reply (R364) -/
  | remoteRequest (source : BitVec 8) (core frame stream : Nat) (nack : Bool) (va : Word) (kind : RemoteKind)
  /-- HOLD_REPLY. A HOLD reply marks the request's ordering stream frozen at the source (R367) -/
  | holdReply (core frame : Nat) (request : StreamRequest)
  /-- STREAM_FAULT_TIMEOUT. A stream neither resumed nor refused within 2^26 package ticks is refused with REMOTE_DEAD (R368) -/
  | streamFaultTimeout (die : Nat) (token : Word)
  /-- FABRIC_LINK_FAILURE. The failure of a link on a pinned route makes the source hold new requests of the affected streams (R363) -/
  | fabricLinkFailure (a b : BitVec 8)
  /-- STREAM_REPIN. Once a held stream's earlier requests are all answered, it is pinned to a detour, or to its minimal route after recovery, and released (R363) -/
  | streamRepin (core frame stream : Nat)
  /-- MODULE_DEATH. A module silent for 2^20 ticks, or declared failed, is removed, and requests to it end with REMOTE_DEAD (R371) -/
  | moduleDeath (module : BitVec 8)
  /-- REMOTE_BACK_INVALIDATE. A back-invalidation from a remote home makes the proxy invalidate or downgrade its windows' line and reply with the dirty sectors (R366) -/
  | remoteBackInvalidate (va : Word) (invalidate : Bool)
  /-- MCST_SEQ_ROOT. The root module's I/O die replicates an mcst.seq write to every member in the order in which it received them (R374) -/
  | mcstSeqRoot (write : GroupWrite) (offset : Word) (narrow : Bool) (value : Word)
  /-- POSTED_OP_DONE. A finished posted operation raises its arrival counter at the target and then its completion counter, or on failure only the completion counter (R385) -/
  | postedOpDone (die entry : Nat)
  /-- LAUNCH_OP_RETRY. A LAUNCH operation waiting on a full ring retries its claim each time READ changes (R381) -/
  | launchOpRetry (die entry : Nat)
  /-- RIMW_ARRIVAL. A RIMW writes 16 values into the named rim of the resident or saved target task, or is dropped (R383) -/
  | rimwArrival (target : Word) (launch : Word) (values : List Byte)
  /-- BACK_INVALIDATE_SNOOP. An S2M BISnp from a pool device makes the proxy recall the line from every local window and answer with BIRsp (R402) -/
  | backInvalidateSnoop (ppa : Word) (invalidate : Bool)
  /-- POOL_PORT_LOSS. A lost pool port takes back its requests, degrades or loses its regions, reissues or fails the requests and records the lost lines (R408) -/
  | poolPortLoss (port : Nat)
  /-- EXTENT_FORCED_RELEASE. A device that forces release of a region's extent makes the region LOST, handled as a link loss (R406) -/
  | extentForcedRelease (region : Nat)
  /-- ADD. s[D] := s[A] + s[B], wrapping (R116) -/
  | add (g : BitVec 4) (d a b : BitVec 6)
  /-- SUB. s[D] := s[A] - s[B], wrapping (R116) -/
  | sub (g : BitVec 4) (d a b : BitVec 6)
  /-- AND. Bitwise AND (R116) -/
  | and (g : BitVec 4) (d a b : BitVec 6)
  /-- OR. Bitwise OR (R116) -/
  | or (g : BitVec 4) (d a b : BitVec 6)
  /-- XOR. Bitwise XOR (R116) -/
  | xor (g : BitVec 4) (d a b : BitVec 6)
  /-- ANDN. s[A] AND NOT s[B] (R116) -/
  | andn (g : BitVec 4) (d a b : BitVec 6)
  /-- SHL. Shift left by s[B] mod 64 (R116) -/
  | shl (g : BitVec 4) (d a b : BitVec 6)
  /-- SHR_N. Logical shift right (R116) -/
  | shrN (g : BitVec 4) (d a b : BitVec 6)
  /-- SHR_I. Arithmetic shift right (R116) -/
  | shrI (g : BitVec 4) (d a b : BitVec 6)
  /-- ROT. Rotate left (R116) -/
  | rot (g : BitVec 4) (d a b : BitVec 6)
  /-- MIN_I. Signed minimum (R116) -/
  | minI (g : BitVec 4) (d a b : BitVec 6)
  /-- MIN_N. Unsigned minimum (R116) -/
  | minN (g : BitVec 4) (d a b : BitVec 6)
  /-- MAX_I. Signed maximum (R116) -/
  | maxI (g : BitVec 4) (d a b : BitVec 6)
  /-- MAX_N. Unsigned maximum (R116) -/
  | maxN (g : BitVec 4) (d a b : BitVec 6)
  /-- ADDI. s[D] := s[A] + IMM, wrapping (R117) -/
  | addi (g : BitVec 4) (d a : BitVec 6) (imm : BitVec 42)
  /-- ANDI. s[D] := s[A] AND IMM (R117) -/
  | andi (g : BitVec 4) (d a : BitVec 6) (imm : BitVec 42)
  /-- ORI. s[D] := s[A] OR IMM (R117) -/
  | ori (g : BitVec 4) (d a : BitVec 6) (imm : BitVec 42)
  /-- XORI. s[D] := s[A] XOR IMM (R117) -/
  | xori (g : BitVec 4) (d a : BitVec 6) (imm : BitVec 42)
  /-- SHLI. Shift left by IMM[5:0] (R117) -/
  | shli (g : BitVec 4) (d a : BitVec 6) (imm : BitVec 42)
  /-- SHRI_N. Logical shift right by IMM[5:0] (R117) -/
  | shriN (g : BitVec 4) (d a : BitVec 6) (imm : BitVec 42)
  /-- SHRI_I. Arithmetic shift right by IMM[5:0] (R117) -/
  | shriI (g : BitVec 4) (d a : BitVec 6) (imm : BitVec 42)
  /-- LI. s[D] := IMM, sign-extended (R118) -/
  | li (g : BitVec 4) (d : BitVec 6) (imm : BitVec 42)
  /-- LIH. s[D] := IMM[21:0] << 42 OR the low 42 bits of s[A] (R118) -/
  | lih (g : BitVec 4) (d a : BitVec 6) (imm : BitVec 42)
  /-- MUL. Low 64 bits of the product (R119) -/
  | mul (g : BitVec 4) (d a b : BitVec 6)
  /-- MULH_I. High 64 bits of the signed product (R119) -/
  | mulhI (g : BitVec 4) (d a b : BitVec 6)
  /-- MULH_N. High 64 bits of the unsigned product (R119) -/
  | mulhN (g : BitVec 4) (d a b : BitVec 6)
  /-- MULH_IN. High 64 bits of the signed-by-unsigned product (R119) -/
  | mulhIn (g : BitVec 4) (d a b : BitVec 6)
  /-- DIV_I. Signed division truncating toward zero, with fixed results for a zero divisor and overflow (R119) -/
  | divI (g : BitVec 4) (d a b : BitVec 6)
  /-- DIV_N. Unsigned division (R119) -/
  | divN (g : BitVec 4) (d a b : BitVec 6)
  /-- REM_I. Signed remainder (R119) -/
  | remI (g : BitVec 4) (d a b : BitVec 6)
  /-- REM_N. Unsigned remainder (R119) -/
  | remN (g : BitVec 4) (d a b : BitVec 6)
  /-- CLZ. Count leading zeros (R120) -/
  | clz (g : BitVec 4) (d a : BitVec 6)
  /-- CTZ. Count trailing zeros (R120) -/
  | ctz (g : BitVec 4) (d a : BitVec 6)
  /-- POPC. Population count (R120) -/
  | popc (g : BitVec 4) (d a : BitVec 6)
  /-- BREV. Bit reverse (R120) -/
  | brev (g : BitVec 4) (d a : BitVec 6)
  /-- BSWAP. Byte swap (R120) -/
  | bswap (g : BitVec 4) (d a : BitVec 6)
  /-- BFX_I. Extract a sign-extended bit field given by the pair s[B], s[B+1] (R121) -/
  | bfxI (g : BitVec 4) (d a b : BitVec 6)
  /-- BFX_N. Extract a zero-extended bit field (R121) -/
  | bfxN (g : BitVec 4) (d a b : BitVec 6)
  /-- BFI. Insert a bit field into s[D] (R121) -/
  | bfi (g : BitVec 4) (d a b : BitVec 6)
  /-- FSHL. Funnel shift left of the pair s[A+1], s[A] (R121) -/
  | fshl (g : BitVec 4) (d a b : BitVec 6)
  /-- FSHR. Funnel shift right of the pair (R121) -/
  | fshr (g : BitVec 4) (d a b : BitVec 6)
  /-- CMP. p[PD] := compare of s[A] with s[B] under CC (R122) -/
  | cmp (g : BitVec 4) (p : BitVec 4) (a b : BitVec 6) (c : BitVec 4)
  /-- CMPI. p[PD] := compare of s[A] with IMM8 under CC (R122) -/
  | cmpi (g : BitVec 4) (p c : BitVec 4) (a : BitVec 6) (imm : BitVec 8)
  /-- PAND. Predicate AND (R123) -/
  | pand (g : BitVec 4) (d a b : BitVec 4)
  /-- POR. Predicate OR (R123) -/
  | por (g : BitVec 4) (d a b : BitVec 4)
  /-- PXOR. Predicate XOR (R123) -/
  | pxor (g : BitVec 4) (d a b : BitVec 4)
  /-- PANDN. Predicate AND NOT (R123) -/
  | pandn (g : BitVec 4) (d a b : BitVec 4)
  /-- PMOV. Predicate move (R123) -/
  | pmov (g : BitVec 4) (d a : BitVec 4)
  /-- PSET. Set a predicate to 1 (R123) -/
  | pset (g : BitVec 4) (d : BitVec 4)
  /-- PCLR. Set a predicate to 0 (R123) -/
  | pclr (g : BitVec 4) (d : BitVec 4)
  /-- SEL. s[D] := p[N] ? s[A] : s[B] (R124) -/
  | sel (g : BitVec 4) (d a b : BitVec 6) (p : BitVec 4)
  /-- FADD_F64. Binary64 add (R126) -/
  | faddF64 (g : BitVec 4) (d a b : BitVec 6)
  /-- FSUB_F64. Binary64 subtract (R126) -/
  | fsubF64 (g : BitVec 4) (d a b : BitVec 6)
  /-- FMUL_F64. Binary64 multiply (R126) -/
  | fmulF64 (g : BitVec 4) (d a b : BitVec 6)
  /-- FDIV_F64. Binary64 divide (R126) -/
  | fdivF64 (g : BitVec 4) (d a b : BitVec 6)
  /-- FSQRT_F64. Binary64 square root (R126) -/
  | fsqrtF64 (g : BitVec 4) (d a : BitVec 6)
  /-- FMIN_F64. Binary64 minimum (R126) -/
  | fminF64 (g : BitVec 4) (d a b : BitVec 6)
  /-- FMAX_F64. Binary64 maximum (R126) -/
  | fmaxF64 (g : BitVec 4) (d a b : BitVec 6)
  /-- FADD_F32. Binary32 add (R126) -/
  | faddF32 (g : BitVec 4) (d a b : BitVec 6)
  /-- FSUB_F32. Binary32 subtract (R126) -/
  | fsubF32 (g : BitVec 4) (d a b : BitVec 6)
  /-- FMUL_F32. Binary32 multiply (R126) -/
  | fmulF32 (g : BitVec 4) (d a b : BitVec 6)
  /-- FDIV_F32. Binary32 divide (R126) -/
  | fdivF32 (g : BitVec 4) (d a b : BitVec 6)
  /-- FSQRT_F32. Binary32 square root (R126) -/
  | fsqrtF32 (g : BitVec 4) (d a : BitVec 6)
  /-- FMIN_F32. Binary32 minimum (R126) -/
  | fminF32 (g : BitVec 4) (d a b : BitVec 6)
  /-- FMAX_F32. Binary32 maximum (R126) -/
  | fmaxF32 (g : BitVec 4) (d a b : BitVec 6)
  /-- FCVT_F64_I64. Convert i64 to f64 (R127) -/
  | fcvtF64I64 (g : BitVec 4) (d a : BitVec 6)
  /-- FCVT_F64_N64. Convert n64 to f64 (R127) -/
  | fcvtF64N64 (g : BitVec 4) (d a : BitVec 6)
  /-- FCVT_I64_F64. Convert f64 to i64, saturating (R127) -/
  | fcvtI64F64 (g : BitVec 4) (d a : BitVec 6)
  /-- FCVT_N64_F64. Convert f64 to n64, saturating (R127) -/
  | fcvtN64F64 (g : BitVec 4) (d a : BitVec 6)
  /-- FCVT_F32_F64. Convert f64 to f32 (R127) -/
  | fcvtF32F64 (g : BitVec 4) (d a : BitVec 6)
  /-- FCVT_F64_F32. Convert f32 to f64 exactly (R127) -/
  | fcvtF64F32 (g : BitVec 4) (d a : BitVec 6)
  /-- FCVT_F32_I64. Convert i64 to f32 (R127) -/
  | fcvtF32I64 (g : BitVec 4) (d a : BitVec 6)
  /-- FCVT_I64_F32. Convert f32 to i64, saturating (R127) -/
  | fcvtI64F32 (g : BitVec 4) (d a : BitVec 6)
  /-- FCMP_F64. Binary64 compare into p[PD] (R128) -/
  | fcmpF64 (g : BitVec 4) (p : BitVec 4) (a b : BitVec 6) (c : BitVec 2)
  /-- FCMP_F32. Binary32 compare into p[PD] (R128) -/
  | fcmpF32 (g : BitVec 4) (p : BitVec 4) (a b : BitVec 6) (c : BitVec 2)
  /-- MFS. s[D] := system register IMM10 (R129) -/
  | mfs (g : BitVec 4) (d : BitVec 6) (reg : BitVec 10)
  /-- MTS. System register IMM10 := s[A], effective for later bundles (R129) -/
  | mts (g : BitVec 4) (a : BitVec 6) (reg : BitVec 10)
  /-- B. Branch to the target of DISP22 (R133) -/
  | b (g : BitVec 4) (disp : BitVec 22)
  /-- CALL. Branch and write the link into s63 (R133) -/
  | call (g : BitVec 4) (disp : BitVec 22)
  /-- JR. Branch to s[A] (R133) -/
  | jr (g : BitVec 4) (a : BitVec 6)
  /-- CALLR. Branch to s[A] and write the link into s63 (R133) -/
  | callr (g : BitVec 4) (a : BitVec 6)
  /-- RET. Branch to s63 (R133) -/
  | ret (g : BitVec 4)
  /-- LOOP. Decrement s[A] and branch while it is nonzero (R135) -/
  | loop (g : BitVec 4) (a : BitVec 6) (o : BitVec 12) (s : BitVec 4)
  /-- LOOP_ST. Step the software-pipeline counts, shift p8-p15 and branch while a count remains (R136) -/
  | loopSt (g : BitVec 4) (a : BitVec 6) (o : BitVec 12) (s : BitVec 4)
  /-- SPAWN. Create a child task of the same launch in the cluster, moving weight to it (R137) -/
  | spawn (g : BitVec 4) (a b c : BitVec 6)
  /-- SPAWN_SIB. Create a child directly in a free frame of core s[C], or trap SPAWN_BUSY (R138) -/
  | spawnSib (g : BitVec 4) (a b c : BitVec 6)
  /-- EXIT. End the task after its interlocked operations, releasing slots, weight and hoop memberships (R139) -/
  | exit (g : BitVec 4)
  /-- YIELD. At an effective safe point, hand the core to the next ready frame of equal or higher class (R140) -/
  | yield (g : BitVec 4)
  /-- WAIT. Wait until the word at s[A] meets COND against s[B], or until the timeout, and set p1 (R141) -/
  | wait (g : BitVec 4) (a b c : BitVec 6) (n : BitVec 4)
  /-- HALLOC. Allocate the lowest free hoop into s[D], or -1 (R142) -/
  | halloc (g : BitVec 4) (d : BitVec 6)
  /-- HFREE. Deallocate a hoop; its waiting members trap HOOP_BROKEN (R142) -/
  | hfree (g : BitVec 4) (a : BitVec 6)
  /-- HJOIN. Add the task to a hoop (R142) -/
  | hjoin (g : BitVec 4) (a : BitVec 6)
  /-- HLEAVE. Remove the task from a hoop, possibly completing its phase (R142) -/
  | hleave (g : BitVec 4) (a : BitVec 6)
  /-- HBAR. Arrive at the hoop's barrier and wait for its phase to complete (R143) -/
  | hbar (g : BitVec 4) (a : BitVec 6)
  /-- HSIZE. s[D] := the hoop's member count, or -1 (R142) -/
  | hsize (g : BitVec 4) (d a : BitVec 6)
  /-- PHASE_BEGIN. Checkpoint the scalars, predicates, position and REPLEFT, and open a phase (R145) -/
  | phaseBegin (g : BitVec 4)
  /-- PHASE_COMMIT. Release the held copies, swap SEL, and close the phase (R145) -/
  | phaseCommit (g : BitVec 4)
  /-- PHASE_ABORT. Discard the held copies and close the phase (R145) -/
  | phaseAbort (g : BitVec 4)
  /-- SYS. Raise SYSCALL with CODE (R146) -/
  | sys (g : BitVec 4) (c : BitVec 16)
  /-- TRAP. Raise SOFT_TRAP with CODE (R146) -/
  | trap (g : BitVec 4) (c : BitVec 16)
  /-- BRK. Raise BREAK with CODE (R146) -/
  | brk (g : BitVec 4) (c : BitVec 16)
  /-- ERET. Return from a trap, restoring privilege, landing latched results, replaying entries and taking pending traps, or end the task if FATAL (R147) -/
  | eret (g : BitVec 4)
  /-- TCWAIT. Wait until counter s[A] reaches s[B], or until the timeout, and set p1 (R394) -/
  | tcwait (g : BitVec 4) (a b c : BitVec 6)
  /-- TLBI_PAGE. Invalidate the translations of one page in every sharer MTLB (R148) -/
  | tlbiPage (g : BitVec 4) (a : BitVec 6)
  /-- TLBI_RANGE. Invalidate the translations of a range (R148) -/
  | tlbiRange (g : BitVec 4) (a b : BitVec 6)
  /-- TLBI_ALL. Invalidate every translation of the module (R148) -/
  | tlbiAll (g : BitVec 4)
  /-- PATTR. Move a page range to coherence attribute s[C] (R149) -/
  | pattr (g : BitVec 4) (a b c : BitVec 6)
  /-- VADD. Elementwise add of tiles, passing or forcing factors (R173) -/
  | vadd (g : BitVec 4) (d a b : BitVec 5)
  /-- VSUB. Elementwise subtract (R173) -/
  | vsub (g : BitVec 4) (d a b : BitVec 5)
  /-- VMUL. Elementwise multiply (R173) -/
  | vmul (g : BitVec 4) (d a b : BitVec 5)
  /-- VFMA. Elementwise fused multiply-add into td (R173) -/
  | vfma (g : BitVec 4) (d a b : BitVec 5)
  /-- VMIN. Elementwise minimum (R173) -/
  | vmin (g : BitVec 4) (d a b : BitVec 5)
  /-- VMAX. Elementwise maximum (R173) -/
  | vmax (g : BitVec 4) (d a b : BitVec 5)
  /-- VABS. Elementwise absolute value (R173) -/
  | vabs (g : BitVec 4) (d a : BitVec 5)
  /-- VNEG. Elementwise negation (R173) -/
  | vneg (g : BitVec 4) (d a : BitVec 5)
  /-- VMOV. Copy a tile with its tag, slots and OVP (R173) -/
  | vmov (g : BitVec 4) (d a : BitVec 5)
  /-- VAND. Elementwise AND (R173) -/
  | vand (g : BitVec 4) (d a b : BitVec 5)
  /-- VOR. Elementwise OR (R173) -/
  | vor (g : BitVec 4) (d a b : BitVec 5)
  /-- VXOR. Elementwise XOR (R173) -/
  | vxor (g : BitVec 4) (d a b : BitVec 5)
  /-- VSHL. Elementwise shift left (R173) -/
  | vshl (g : BitVec 4) (d a b : BitVec 5)
  /-- VSHR. Elementwise shift right (R173) -/
  | vshr (g : BitVec 4) (d a b : BitVec 5)
  /-- VCMPEQ. Mask tile of equality (R174) -/
  | vcmpeq (g : BitVec 4) (d a b : BitVec 5)
  /-- VCMPLT. Mask tile of less-than (R174) -/
  | vcmplt (g : BitVec 4) (d a b : BitVec 5)
  /-- VCMPLE. Mask tile of less-or-equal (R174) -/
  | vcmple (g : BitVec 4) (d a b : BitVec 5)
  /-- VSEL. Select ta or tb per element under the mask td (R174) -/
  | vsel (g : BitVec 4) (d a b : BitVec 5)
  /-- VCVT. Convert each element to the target format (R175) -/
  | vcvt (g : BitVec 4) (d a : BitVec 5) (f : BitVec 4)
  /-- VMAXE. Write the scale latch with each row's largest exponent 3 bundle times later (R176) -/
  | vmaxe (g : BitVec 4) (a : BitVec 5)
  /-- VCVQ_Q3. Quantise each row to a QB3 block and update AMAX (R177) -/
  | vcvqQ3 (g : BitVec 4) (d a : BitVec 5)
  /-- VCVQ_Q5. Quantise each row to a QB5 block (R177) -/
  | vcvqQ5 (g : BitVec 4) (d a : BitVec 5)
  /-- VCVQ_Q8. Quantise each row to a QB8 block (R177) -/
  | vcvqQ8 (g : BitVec 4) (d a : BitVec 5)
  /-- VDQ. Dequantise QB blocks to f32 exactly (R178) -/
  | vdq (g : BitVec 4) (d a : BitVec 5)
  /-- VEXP2. Elementwise 2^x (R179) -/
  | vexp2 (g : BitVec 4) (d a : BitVec 5)
  /-- VLOG2. Elementwise log2 (R179) -/
  | vlog2 (g : BitVec 4) (d a : BitVec 5)
  /-- VRCP. Elementwise reciprocal (R179) -/
  | vrcp (g : BitVec 4) (d a : BitVec 5)
  /-- VRSQRT. Elementwise reciprocal square root (R179) -/
  | vrsqrt (g : BitVec 4) (d a : BitVec 5)
  /-- VSQRT. Elementwise square root (R179) -/
  | vsqrt (g : BitVec 4) (d a : BitVec 5)
  /-- VTANH. Elementwise tanh (R179) -/
  | vtanh (g : BitVec 4) (d a : BitVec 5)
  /-- VSIGM. Elementwise sigmoid (R179) -/
  | vsigm (g : BitVec 4) (d a : BitVec 5)
  /-- VSILU. Elementwise SiLU (R179) -/
  | vsilu (g : BitVec 4) (d a : BitVec 5)
  /-- VGELU. Elementwise GELU (R179) -/
  | vgelu (g : BitVec 4) (d a : BitVec 5)
  /-- VERF. Elementwise erf (R179) -/
  | verf (g : BitVec 4) (d a : BitVec 5)
  /-- VGACT_SILU. Gated activation SiLU(a) times b (R180) -/
  | vgactSilu (g : BitVec 4) (d a b : BitVec 5)
  /-- VGACT_GELU. Gated activation GELU(a) times b (R180) -/
  | vgactGelu (g : BitVec 4) (d a b : BitVec 5)
  /-- VGACT_SIGM. Gated activation sigmoid(a) times b (R180) -/
  | vgactSigm (g : BitVec 4) (d a b : BitVec 5)
  /-- VGACT_RELU. Gated activation ReLU(a) times b (R180) -/
  | vgactRelu (g : BitVec 4) (d a b : BitVec 5)
  /-- VBAS. Apply a bias, no activation and a column scale from a rim pair, on gate cores only (R181) -/
  | vbas (g : BitVec 4) (d a : BitVec 5) (k : BitVec 6)
  /-- VBAS_SILU. Apply a bias, SiLU and a column scale (R181) -/
  | vbasSilu (g : BitVec 4) (d a : BitVec 5) (k : BitVec 6)
  /-- VBAS_GELU. Apply a bias, GELU and a column scale (R181) -/
  | vbasGelu (g : BitVec 4) (d a : BitVec 5) (k : BitVec 6)
  /-- VBAS_SIGM. Apply a bias, sigmoid and a column scale (R181) -/
  | vbasSigm (g : BitVec 4) (d a : BitVec 5) (k : BitVec 6)
  /-- VBAS_RELU. Apply a bias, ReLU and a column scale (R181) -/
  | vbasRelu (g : BitVec 4) (d a : BitVec 5) (k : BitVec 6)
  /-- VRSUM. Exact row sums into a rim, which is PENDING until they land (R182) -/
  | vrsum (g : BitVec 4) (t : BitVec 5) (k : BitVec 6)
  /-- VRMAX. Row maxima into a rim (R182) -/
  | vrmax (g : BitVec 4) (t : BitVec 5) (k : BitVec 6)
  /-- VRMIN. Row minima into a rim (R182) -/
  | vrmin (g : BitVec 4) (t : BitVec 5) (k : BitVec 6)
  /-- VRSUMSQ. Exact row sums of squares into a rim (R182) -/
  | vrsumsq (g : BitVec 4) (t : BitVec 5) (k : BitVec 6)
  /-- VCSUM. Exact column sums into a rim (R182) -/
  | vcsum (g : BitVec 4) (t : BitVec 5) (k : BitVec 6)
  /-- VCMAX. Column maxima into a rim (R182) -/
  | vcmax (g : BitVec 4) (t : BitVec 5) (k : BitVec 6)
  /-- VXPOSE. Transpose a tile (R183) -/
  | vxpose (g : BitVec 4) (d a : BitVec 5)
  /-- VXROT. Rotate the rows of a tile by n (R183) -/
  | vxrot (g : BitVec 4) (d a : BitVec 5) (n : BitVec 4)
  /-- VXBROW. Broadcast row r to every row (R183) -/
  | vxbrow (g : BitVec 4) (d a : BitVec 5) (n : BitVec 4)
  /-- VPERM. Gather elements by an index tile (R183) -/
  | vperm (g : BitVec 4) (d a b : BitVec 5)
  /-- VBCAST. Broadcast a scalar's bits to every element (R184) -/
  | vbcast (g : BitVec 4) (s : BitVec 6) (t : BitVec 5)
  /-- VBROW. T[i][j] := rim[j] (R184) -/
  | vbrow (g : BitVec 4) (t : BitVec 5) (k : BitVec 6)
  /-- VBCOL. T[i][j] := rim[i] (R184) -/
  | vbcol (g : BitVec 4) (t : BitVec 5) (k : BitVec 6)
  /-- KADD. Rim add (R185) -/
  | kadd (g : BitVec 4) (d a b : BitVec 6)
  /-- KMUL. Rim multiply (R185) -/
  | kmul (g : BitVec 4) (d a b : BitVec 6)
  /-- KMAX. Rim maximum (R185) -/
  | kmax (g : BitVec 4) (d a b : BitVec 6)
  /-- KRCP. Rim reciprocal (R185) -/
  | krcp (g : BitVec 4) (d a : BitVec 6)
  /-- KRSQRT. Rim reciprocal square root (R185) -/
  | krsqrt (g : BitVec 4) (d a : BitVec 6)
  /-- KNEG. Rim negation (R185) -/
  | kneg (g : BitVec 4) (d a : BitVec 6)
  /-- KMOV. Rim copy (R185) -/
  | kmov (g : BitVec 4) (d a : BitVec 6)
  /-- KLSE. Merge log-sum-exp rim pairs (R186) -/
  | klse (g : BitVec 4) (d a b : BitVec 6)
  /-- KBIND. Set a factor slot of a tile to a rim (R187) -/
  | kbind (g : BitVec 4) (t : BitVec 5) (k : BitVec 6) (s : BitVec 4)
  /-- KUNBIND. Set a factor slot to identity without applying it (R187) -/
  | kunbind (g : BitVec 4) (t : BitVec 5) (s : BitVec 4)
  /-- KSET_ROW. Write rim K with row n of a tile (R188) -/
  | ksetRow (g : BitVec 4) (t : BitVec 5) (k : BitVec 6) (n : BitVec 4)
  /-- KSET_COL. Write rim K with column n of a tile (R188) -/
  | ksetCol (g : BitVec 4) (t : BitVec 5) (k : BitVec 6) (n : BitVec 4)
  /-- TRES. Resolve every factor of a tile (R189) -/
  | tres (g : BitVec 4) (d : BitVec 5)
  /-- TRES_PART. Resolve a tile through a given slot (R189) -/
  | tresPart (g : BitVec 4) (d : BitVec 5) (s : BitVec 2)
  /-- TSTAT. s[SD] := the tile state word (R190) -/
  | tstat (g : BitVec 4) (d : BitVec 6) (t : BitVec 5)
  /-- KPEND. Mark a rim PENDING on an external producer (R191) -/
  | kpend (g : BitVec 4) (k : BitVec 6)
  /-- KWAIT. Wait until a rim is READY (R191) -/
  | kwait (g : BitVec 4) (k : BitVec 6)
  /-- VTAG. Copy containers with a new tag, passing or resolving factors (R192) -/
  | vtag (g : BitVec 4) (d a : BitVec 5) (f : BitVec 4)
  /-- VZERO. Zero every container, keeping the tag (R193) -/
  | vzero (g : BitVec 4) (d : BitVec 5)
  /-- MMA. Accumulate A times B into an accumulator in binary128 (R205) -/
  | mma (g : BitVec 4) (d : BitVec 3) (a b : BitVec 6)
  /-- MMZ. Zero-first matrix product into an accumulator (R205) -/
  | mmz (g : BitVec 4) (d : BitVec 3) (a b : BitVec 6)
  /-- MMA_TAP. Accumulate with A taken as a tap window, then step the offsets (R212) -/
  | mmaTap (g : BitVec 4) (d : BitVec 3) (a b : BitVec 6)
  /-- MMZ_TAP. Zero-first tap-mode product (R212) -/
  | mmzTap (g : BitVec 4) (d : BitVec 3) (a b : BitVec 6)
  /-- MMA_BT. Accumulate with B transposed in row layout (R205) -/
  | mmaBt (g : BitVec 4) (d : BitVec 3) (a b : BitVec 6)
  /-- MMZ_BT. Zero-first product with B transposed (R205) -/
  | mmzBt (g : BitVec 4) (d : BitVec 3) (a b : BitVec 6)
  /-- MMA_TAP_BT. Tap-mode accumulate with B transposed (R212) -/
  | mmaTapBt (g : BitVec 4) (d : BitVec 3) (a b : BitVec 6)
  /-- MMZ_TAP_BT. Zero-first tap-mode product with B transposed (R212) -/
  | mmzTapBt (g : BitVec 4) (d : BitVec 3) (a b : BitVec 6)
  /-- MRES. Resolve an accumulator's factor codes (R208) -/
  | mres (g : BitVec 4) (d : BitVec 3)
  /-- MSACC. Add diag(rim) times aS into aD (R208) -/
  | msacc (g : BitVec 4) (d s : BitVec 3) (k : BitVec 6)
  /-- MRD. Round an accumulator into a tile (R209) -/
  | mrd (g : BitVec 4) (a : BitVec 3) (t : BitVec 5) (f : BitVec 4)
  /-- MWR. Widen a tile into an accumulator (R210) -/
  | mwr (g : BitVec 4) (a : BitVec 3) (t : BitVec 5) (f : BitVec 4)
  /-- MZERO. Zero an accumulator and set CLR (R207) -/
  | mzero (g : BitVec 4) (d : BitVec 3)
  /-- MDRAIN. Complete when every earlier matrix operation has completed, setting MFMT.DR (R200) -/
  | mdrain (g : BitVec 4)
  /-- MFMT. Set the matrix format pair (R199) -/
  | mfmt (g : BitVec 4) (a b : BitVec 4)
  /-- OCLAIM. Bind the lowest unmapped operand number to a zeroed free slot (R195) -/
  | oclaim (g : BitVec 4) (s : BitVec 6)
  /-- OREL. Unmap an operand number and free its slot (R195) -/
  | orel (g : BitVec 4) (o : BitVec 6)
  /-- MOFS. Write an OFS or OFSTEP register from s[S] (R214) -/
  | mofs (g : BitVec 4) (s o : BitVec 6)
  /-- LD_I8. Load a sign-extended byte (R220) -/
  | ldI8 (g : BitVec 4) (d a : BitVec 6) (imm : BitVec 10)
  /-- LD_N8. Load a zero-extended byte (R220) -/
  | ldN8 (g : BitVec 4) (d a : BitVec 6) (imm : BitVec 10)
  /-- LD_I16. Load a sign-extended halfword (R220) -/
  | ldI16 (g : BitVec 4) (d a : BitVec 6) (imm : BitVec 10)
  /-- LD_N16. Load a zero-extended halfword (R220) -/
  | ldN16 (g : BitVec 4) (d a : BitVec 6) (imm : BitVec 10)
  /-- LD_I32. Load a sign-extended word (R220) -/
  | ldI32 (g : BitVec 4) (d a : BitVec 6) (imm : BitVec 10)
  /-- LD_N32. Load a zero-extended word (R220) -/
  | ldN32 (g : BitVec 4) (d a : BitVec 6) (imm : BitVec 10)
  /-- LD_64. Load a doubleword (R220) -/
  | ld64 (g : BitVec 4) (d a : BitVec 6) (imm : BitVec 10)
  /-- ST_8. Store a byte (R220) -/
  | st8 (g : BitVec 4) (s a : BitVec 6) (imm : BitVec 10)
  /-- ST_16. Store a halfword (R220) -/
  | st16 (g : BitVec 4) (s a : BitVec 6) (imm : BitVec 10)
  /-- ST_32. Store a word (R220) -/
  | st32 (g : BitVec 4) (s a : BitVec 6) (imm : BitVec 10)
  /-- ST_64. Store a doubleword (R220) -/
  | st64 (g : BitVec 4) (s a : BitVec 6) (imm : BitVec 10)
  /-- LD_ACQ_32. Load a word, then acquire at the scope (R289) -/
  | ldAcq32 (g : BitVec 4) (d a : BitVec 6) (s : BitVec 3)
  /-- LD_ACQ_64. Load a doubleword, then acquire at the scope (R289) -/
  | ldAcq64 (g : BitVec 4) (d a : BitVec 6) (s : BitVec 3)
  /-- ST_REL_32. Release at the scope, then store a word (R289) -/
  | stRel32 (g : BitVec 4) (d a : BitVec 6) (s : BitVec 3)
  /-- ST_REL_64. Release at the scope, then store a doubleword (R289) -/
  | stRel64 (g : BitVec 4) (d a : BitVec 6) (s : BitVec 3)
  /-- LD_SC. Sequentially consistent load at the core's wheel position (R337) -/
  | ldSc (g : BitVec 4) (d a : BitVec 6) (w : BitVec 1)
  /-- ST_SC. Sequentially consistent store at the core's wheel position (R337) -/
  | stSc (g : BitVec 4) (d a : BitVec 6) (w : BitVec 1)
  /-- AMO_SC. Sequentially consistent atomic add (R337) -/
  | amoSc (g : BitVec 4) (d a b : BitVec 6) (w : BitVec 1)
  /-- TLD. Load a tile of the given format with a row stride (R221) -/
  | tld (g : BitVec 4) (d : BitVec 5) (a b : BitVec 6) (f : BitVec 4)
  /-- TLD_RAW. Load a tile's raw containers and its state word (R223) -/
  | tldRaw (g : BitVec 4) (d : BitVec 5) (a b : BitVec 6)
  /-- TST. Store the fully resolved tile (R222) -/
  | tst (g : BitVec 4) (d : BitVec 5) (a b : BitVec 6)
  /-- TST_RAW. Store raw containers and the tile state word (R223) -/
  | tstRaw (g : BitVec 4) (d : BitVec 5) (a b : BitVec 6)
  /-- ST_128. Store the pair s[S], s[S+1] as 16 bytes (R220) -/
  | st128 (g : BitVec 4) (s a : BitVec 6) (imm : BitVec 10)
  /-- OLOAD. Fill an operand slot from own scratchpad by descriptor s[B] (R225) -/
  | oload (g : BitVec 4) (d a b : BitVec 6) (f : BitVec 4)
  /-- KLD. Load 64 bytes into a rim (R224) -/
  | kld (g : BitVec 4) (k a : BitVec 6) (imm : BitVec 10)
  /-- KST. Store a READY rim's 64 bytes (R224) -/
  | kst (g : BitVec 4) (k a : BitVec 6) (imm : BitVec 10)
  /-- AMO_ADD. Atomic add returning the old value (R290) -/
  | amoAdd (g : BitVec 4) (d a b : BitVec 6) (w : BitVec 1) (s : BitVec 3)
  /-- AMO_AND. Atomic AND (R290) -/
  | amoAnd (g : BitVec 4) (d a b : BitVec 6) (w : BitVec 1) (s : BitVec 3)
  /-- AMO_OR. Atomic OR (R290) -/
  | amoOr (g : BitVec 4) (d a b : BitVec 6) (w : BitVec 1) (s : BitVec 3)
  /-- AMO_XOR. Atomic XOR (R290) -/
  | amoXor (g : BitVec 4) (d a b : BitVec 6) (w : BitVec 1) (s : BitVec 3)
  /-- AMO_MIN_I. Atomic signed minimum (R290) -/
  | amoMinI (g : BitVec 4) (d a b : BitVec 6) (w : BitVec 1) (s : BitVec 3)
  /-- AMO_MIN_N. Atomic unsigned minimum (R290) -/
  | amoMinN (g : BitVec 4) (d a b : BitVec 6) (w : BitVec 1) (s : BitVec 3)
  /-- AMO_MAX_I. Atomic signed maximum (R290) -/
  | amoMaxI (g : BitVec 4) (d a b : BitVec 6) (w : BitVec 1) (s : BitVec 3)
  /-- AMO_MAX_N. Atomic unsigned maximum (R290) -/
  | amoMaxN (g : BitVec 4) (d a b : BitVec 6) (w : BitVec 1) (s : BitVec 3)
  /-- AMO_SWAP. Atomic swap (R290) -/
  | amoSwap (g : BitVec 4) (d a b : BitVec 6) (w : BitVec 1) (s : BitVec 3)
  /-- AMO_FADD_F32. Atomic binary32 add rounded RNE (R290) -/
  | amoFaddF32 (g : BitVec 4) (d a b : BitVec 6) (s : BitVec 3)
  /-- CAS. Compare memory with s[D] and store s[B] on equality, returning the old value (R292) -/
  | cas (g : BitVec 4) (d a b : BitVec 6) (w : BitVec 1) (s : BitVec 3)
  /-- CAS_128. 16-byte compare-and-swap on register pairs (R293) -/
  | cas128 (g : BitVec 4) (d a b : BitVec 6) (s : BitVec 3)
  /-- CP. Issue the copy packet at s[A] on channel n (R285) -/
  | cp (g : BitVec 4) (a : BitVec 6) (n : BitVec 2)
  /-- CPQ. Append the packet at s[B] to the queue described at s[A] (R286) -/
  | cpq (g : BitVec 4) (a b : BitVec 6)
  /-- DRAIN_CP. Wait until every earlier copy of channel n has completed (R287) -/
  | drainCp (g : BitVec 4) (n : BitVec 2)
  /-- DRAIN_FAR. Wait until every earlier remote and pool write has been acknowledged (R370) -/
  | drainFar (g : BitVec 4)
  /-- DRAIN_ALL. Drain every channel, every far write and every earlier access (R287) -/
  | drainAll (g : BitVec 4)
  /-- FENCE_ACQ. Acquire fence at clu, die, pkg or fab (R288) -/
  | fenceAcq (g : BitVec 4) (s : BitVec 2)
  /-- FENCE_REL. Release fence at clu, die, pkg or fab (R288) -/
  | fenceRel (g : BitVec 4) (s : BitVec 2)
  /-- FENCE_FULL. Full fence at clu, die, pkg or fab (R288) -/
  | fenceFull (g : BitVec 4) (s : BitVec 2)
  /-- FENCE_ACQ_POOL. Acquire fence at pool scope (R288) -/
  | fenceAcqPool (g : BitVec 4)
  /-- FENCE_REL_POOL. Release fence at pool scope (R288) -/
  | fenceRelPool (g : BitVec 4)
  /-- FENCE_FULL_POOL. Full fence at pool scope (R288) -/
  | fenceFullPool (g : BitVec 4)
  /-- SMAP. Set up stash window n over a global or pool range (R227) -/
  | smap (g : BitVec 4) (n : BitVec 4) (a b : BitVec 6)
  /-- SUNMAP. Write back, invalidate and unmap stash window n (R228) -/
  | sunmap (g : BitVec 4) (n : BitVec 4)
  /-- SWB. Write back the dirty window sectors of a range (R233) -/
  | swb (g : BitVec 4) (a b : BitVec 6)
  /-- SINV. Invalidate the window lines of a range (R233) -/
  | sinv (g : BitVec 4) (a b : BitVec 6)
  /-- PF. Start the fill of an invalid window line (R234) -/
  | pf (g : BitVec 4) (a : BitVec 6) (imm : BitVec 10)
  /-- PCOMMIT. Commit a zeroed frame to a sparse page (R311) -/
  | pcommit (g : BitVec 4) (a : BitVec 6)
  /-- PFREE. Uncommit a page and reclaim its frame (R312) -/
  | pfree (g : BitVec 4) (a : BitVec 6)
  /-- PIN. Increment a page's pin count (R311) -/
  | pin (g : BitVec 4) (a : BitVec 6)
  /-- UNPIN. Decrement a page's pin count (R311) -/
  | unpin (g : BitVec 4) (a : BitVec 6)
  /-- ST_TC. Store, then raise counter s[B] by 1 once the store has performed (R392) -/
  | stTc (g : BitVec 4) (d a b : BitVec 6) (w : BitVec 1)
  /-- TCADD. Raise counter s[A] by s[B] as a release, and test its posted operations (R391) -/
  | tcadd (g : BitVec 4) (a b : BitVec 6)
  /-- TPOST. Post the descriptor at s[A] on the die and return its handle or a negative code (R395) -/
  | tpost (g : BitVec 4) (d a : BitVec 6)
  /-- TCSET. Allocate a counter set to s[A] and return its name (R390) -/
  | tcset (g : BitVec 4) (d a : BitVec 6)
  /-- TCREAD. Read a counter's value (R393) -/
  | tcread (g : BitVec 4) (d a : BitVec 6)
  /-- TCANCEL. Disarm a posted operation and free its entry (R396) -/
  | tcancel (g : BitVec 4) (a : BitVec 6)
  /-- MCST. Write s[D] at offset s[A] of multicast group s[B] on every member (R374) -/
  | mcst (g : BitVec 4) (d a b : BitVec 6) (w : BitVec 1)
  /-- MCST_SEQ. Multicast write sequenced through the group's root module (R374) -/
  | mcstSeq (g : BitVec 4) (d a b : BitVec 6) (w : BitVec 1)
  /-- FABRIC_LINK_RECOVERY. A failed fabric link comes back up, so that streams pinned to a detour may return to their minimal route at their next drain (R363) -/
  | fabricLinkRecovery (a b : BitVec 8)
  /-- MODULE_ADMISSION. Management admits a reset module, or configures a fabric position, so that routers treat it as live again (R371) -/
  | moduleAdmission (module : BitVec 8)
  /-- POOL_PORT_LINK_UP. A pool port trains to 256-byte flits and enters the link-up state, so that regions may again name it (R406) -/
  | poolPortLinkUp (port : Nat)
  /-- DEBUGGER_RESUME. A zqdbg cont or step command ends the breakpoint freeze of the selected core (R88) -/
  | debuggerResume (core : Nat) (steps : Option Nat)
  /-- STOP_ALL. A zqdbg stop all command freezes every core of the module (R88) -/
  | stopAll
  /-- INJECT_ECC. In debug mode, a zqdbg inject ecc command marks a scratchpad sector so that its next read reports an uncorrectable error, once (R88) -/
  | injectEcc (core offset : Nat)
  deriving DecidableEq, Repr

end Sys2Proof
end

