-- ==== Sys2Proof/WellFormed.lean ====
section
/-! DEFINITION. Which operand fields an instruction may carry: the pair, code and register rules of R56 to R61, and the
index ranges of the events' operands. The decoder gives only well-formed instructions. -/

namespace Sys2Proof

/-- The registers of R129. -/
def sysRegListed (r : Nat) : Bool :=
  r ≤ 5 || (8 ≤ r && r ≤ 0xD) || (0x10 ≤ r && r ≤ 0x16) || (0x20 ≤ r && r ≤ 0x25) || (0x30 ≤ r && r ≤ 0x43)
    || (0x48 ≤ r && r ≤ 0x4B) || r == 0x50 || r == 0x60 || r == 0x61 || r == 0x70

/-- A format code that `vcvt` and `mrd` may name as a target (R175, R209): a float or an integer code. -/
def cvtFormat (f : Nat) : Bool := (1 ≤ f && f ≤ 7) || f == 0xB || f == 0xC

/-- A format code that `oload` may name (R225). -/
def oloadFormat (f : Nat) : Bool := (1 ≤ f && f ≤ 4) || (8 ≤ f && f ≤ 0xA)

/-- The legal format pairs of `mfmt` (R198). -/
def legalPair (a b : Nat) : Bool :=
  (a == 4 && b == 4) || (a == 1 && b == 1) || ((a == 2 || a == 3) && (b == 2 || b == 3)) || (a == 0xA && b == 3)
    || ((8 ≤ a && a ≤ 0xA) && (8 ≤ b && b ≤ 0xA))

/-- A register that may name a pair. -/
def evenReg {n : Nat} (r : BitVec n) : Bool := r.toNat % 2 == 0

/-- A copy stream of the package (R277, R278, R381). -/
def CopyStream.wf : CopyStream → Bool
  | .channel c ch => c < 768 && ch < 4
  | .queue cl q => cl < 16 && q < 16
  | .trigger d => d < 4

/-- How many GDDR 7 channels a set of them holds. -/
def channelCount (l : BitVec 16) : Nat := ((List.range 16).filter fun i => l.getLsbD i).length

/-- A die of a shipped part has 12 to 16 channels (R342). -/
def channelsOk (l : BitVec 16) : Bool := decide (12 ≤ channelCount l)

/-- The rules an instruction's fields obey. Every instruction not listed has no constraint beyond its fields' widths. -/
def wellFormed : Instr → Bool
  | .bfxI _ _ _ b | .bfxN _ _ _ b | .bfi _ _ _ b => evenReg b
  | .fshl _ _ a _ | .fshr _ _ a _ => evenReg a
  | .cmp _ _ _ _ c => c.toNat < 8
  | .cmpi _ _ c _ _ => c.toNat < 8
  | .mfs _ _ r | .mts _ _ r => sysRegListed r.toNat
  | .loop _ a _ _ => a.toNat != 0
  | .loopSt _ a _ _ => a.toNat != 0 && evenReg a
  | .wait _ _ b _ n => n.toNat < 5 && (n.toNat != 4 || b.toNat == 0)
  | .vcvt _ _ _ f => cvtFormat f.toNat
  | .vbas _ _ _ k | .vbasSilu _ _ _ k | .vbasGelu _ _ _ k | .vbasSigm _ _ _ k | .vbasRelu _ _ _ k => evenReg k
  | .klse _ d a b => evenReg d && evenReg a && evenReg b
  | .kbind _ _ _ s | .kunbind _ _ s => s.toNat < 4
  | .vtag _ _ _ f => f.toNat < 13
  | .mrd _ _ _ f => cvtFormat f.toNat
  | .mwr _ _ _ f => f.toNat != 0 && f.toNat < 13
  | .mfmt _ a b => legalPair a.toNat b.toNat
  | .mofs _ _ o => o.toNat < 8
  | .ldAcq32 _ _ _ s | .ldAcq64 _ _ _ s | .stRel32 _ _ _ s | .stRel64 _ _ _ s => 0 < s.toNat && s.toNat < 6
  | .tld _ _ _ _ f => 0 < f.toNat && f.toNat < 13
  | .st128 _ s _ _ => evenReg s
  | .oload _ _ _ _ f => oloadFormat f.toNat
  | .amoAdd _ _ _ _ _ s | .amoAnd _ _ _ _ _ s | .amoOr _ _ _ _ _ s | .amoXor _ _ _ _ _ s | .amoMinI _ _ _ _ _ s
  | .amoMinN _ _ _ _ _ s | .amoMaxI _ _ _ _ _ s | .amoMaxN _ _ _ _ _ s | .amoSwap _ _ _ _ _ s => s.toNat < 6
  | .amoFaddF32 _ _ _ _ s => s.toNat < 6
  | .cas _ _ _ _ _ s => s.toNat < 6
  | .cas128 _ d _ b s => evenReg d && evenReg b && s.toNat < 6
  | .smap _ _ _ b => evenReg b
  | .waitTimeout c p | .waitWakeup c p | .preemption c p => c < 768 && p < 4
  | .stashFill c _ => c < 768
  | .contextRestore c _ | .packetTake c | .instanceCreation c _ | .taskPlacement c | .classAging c | .frameDisplacement c
  | .launchComplete c _ | .firmwareCheckpoint c | .lockstepMismatch c | .copyQueueTake c | .registerLaunchQueue c _
  | .registerCopyQueue c _ | .unregisterQueue c _ | .setContextPool c _ _ => c < 16
  | .hoopPhaseComplete c h => c < 16 && h < 64
  | .copyStart s | .copyComplete s => s.wf
  | .frameReclaim d | .migratePage d | .evictPage d | .fetchInPage d | .evictionPolicy d | .dieWarmReset d
  | .dieResetClear d | .dieReadmission d | .dieFailure d | .dieLinkFailure d _ | .freeFramePush d _ | .poolPagePush d _
  | .faultResume d _ | .faultRefuse d _ | .streamFaultTimeout d _ => d < 4
  | .postedOpDone d e | .launchOpRetry d e => d < 4 && e < 16384
  | .regionTableWrite r _ | .extentForcedRelease r => r < 262144
  | .poolPortLoss p | .poolPortLinkUp p => p < 8
  | .fabricLinkFailure a b | .fabricLinkRecovery a b => a != b && (a.toNat / 16 == b.toNat / 16 || a.toNat % 16 == b.toNat % 16)
  | .mcstSeqRoot w _ _ _ => w.group < 64
  | .packageBoot _ _ x => x.channels.length == 4 && x.channels.all channelsOk && 30 ≤ x.bar2 && x.bar2 ≤ 38
  | .debuggerResume c _ => c < 768
  | .injectEcc c o => c < 768 && o < 2 ^ 20
  | .remoteRequest _ c f s _ _ _ => c < 768 && f < 4 && s < 17
  | .holdReply c f ⟨s, _⟩ | .streamRepin c f s => c < 768 && f < 4 && s < 16
  | .registerWrite o _ => o < 2 ^ 24 && o % 8 == 0
  | _ => true

end Sys2Proof
end

