-- ==== Sys2Proof/Decode.lean ====
section
/-! DEFINITION. Decoding and encoding of syllables (R52, R56 to R62) and of reference blocks (R46). Decoding is total on any
word; a refusal names which decode trap it is. -/

namespace Sys2Proof

/-- Why a syllable is no instruction (R55, R56): a structure or field error (ILLEGAL_ENCODING), or an unassigned opcode or
code (ILLEGAL_INSTRUCTION). -/
inductive DecodeError
  | encoding | instruction
  deriving DecidableEq, Repr

/-- The `n`-bit field of `w` whose lowest bit is bit `lo`. -/
def fld (w lo n : Nat) : Nat := w / 2 ^ lo % 2 ^ n

/-- A field of `n` bits as an operand. -/
def fv (w lo n : Nat) : BitVec n := BitVec.ofNat n (fld w lo n)

/-- A field that must be zero (R56): nonzero is ILLEGAL_ENCODING. -/
def needZero (x : Nat) (k : Except DecodeError Instr) : Except DecodeError Instr :=
  if x = 0 then k else .error .encoding

/-- A field that must name an even register (R56): odd is ILLEGAL_ENCODING. -/
def needEven (x : Nat) (k : Except DecodeError Instr) : Except DecodeError Instr :=
  if x % 2 = 0 then k else .error .encoding

/-- A code that must be assigned (R56): any other is ILLEGAL_INSTRUCTION. -/
def needCode (p : Bool) (k : Except DecodeError Instr) : Except DecodeError Instr :=
  if p then k else .error .instruction

/-- The immediate of an SI syllable (R56): IMM10 sign-extended, or {S2, IMM10} under LIMM. -/
def immSI (w : Nat) (ext : Option Nat) : BitVec 42 :=
  match ext with
  | none => (fv w 0 10).signExtend 42
  | some e => BitVec.ofNat 42 (e % 2 ^ 32 * 2 ^ 10 + fld w 0 10)

/-- The S1 opcode map (R57). `ext` is the LIMM extension of S2, where the bundle has one. -/
def decodeScalar (w : Nat) (ext : Option Nat) : Except DecodeError Instr :=
  let g := fv w 22 4
  match fld w 26 6 with
  | 0x01 => match fld w 0 4 with
      | 0 => .ok (.add g (fv w 16 6) (fv w 10 6) (fv w 4 6))
      | 1 => .ok (.sub g (fv w 16 6) (fv w 10 6) (fv w 4 6))
      | 2 => .ok (.and g (fv w 16 6) (fv w 10 6) (fv w 4 6))
      | 3 => .ok (.or g (fv w 16 6) (fv w 10 6) (fv w 4 6))
      | 4 => .ok (.xor g (fv w 16 6) (fv w 10 6) (fv w 4 6))
      | 5 => .ok (.andn g (fv w 16 6) (fv w 10 6) (fv w 4 6))
      | 6 => .ok (.shl g (fv w 16 6) (fv w 10 6) (fv w 4 6))
      | 7 => .ok (.shrN g (fv w 16 6) (fv w 10 6) (fv w 4 6))
      | 8 => .ok (.shrI g (fv w 16 6) (fv w 10 6) (fv w 4 6))
      | 9 => .ok (.rot g (fv w 16 6) (fv w 10 6) (fv w 4 6))
      | 10 => .ok (.minI g (fv w 16 6) (fv w 10 6) (fv w 4 6))
      | 11 => .ok (.minN g (fv w 16 6) (fv w 10 6) (fv w 4 6))
      | 12 => .ok (.maxI g (fv w 16 6) (fv w 10 6) (fv w 4 6))
      | 13 => .ok (.maxN g (fv w 16 6) (fv w 10 6) (fv w 4 6))
      | _ => .error .instruction
  | 0x02 => .ok (.addi g (fv w 16 6) (fv w 10 6) (immSI w ext))
  | 0x03 => .ok (.andi g (fv w 16 6) (fv w 10 6) (immSI w ext))
  | 0x04 => .ok (.ori g (fv w 16 6) (fv w 10 6) (immSI w ext))
  | 0x05 => .ok (.xori g (fv w 16 6) (fv w 10 6) (immSI w ext))
  | 0x06 => .ok (.shli g (fv w 16 6) (fv w 10 6) (immSI w ext))
  | 0x07 => .ok (.shriN g (fv w 16 6) (fv w 10 6) (immSI w ext))
  | 0x08 => .ok (.shriI g (fv w 16 6) (fv w 10 6) (immSI w ext))
  | 0x09 => needZero (fld w 10 6) (.ok (.li g (fv w 16 6) (immSI w ext)))
  | 0x0A => .ok (.lih g (fv w 16 6) (fv w 10 6) (immSI w ext))
  | 0x0B => match fld w 0 4 with
      | 0 => .ok (.mul g (fv w 16 6) (fv w 10 6) (fv w 4 6))
      | 1 => .ok (.mulhI g (fv w 16 6) (fv w 10 6) (fv w 4 6))
      | 2 => .ok (.mulhN g (fv w 16 6) (fv w 10 6) (fv w 4 6))
      | 3 => .ok (.mulhIn g (fv w 16 6) (fv w 10 6) (fv w 4 6))
      | 4 => .ok (.divI g (fv w 16 6) (fv w 10 6) (fv w 4 6))
      | 5 => .ok (.divN g (fv w 16 6) (fv w 10 6) (fv w 4 6))
      | 6 => .ok (.remI g (fv w 16 6) (fv w 10 6) (fv w 4 6))
      | 7 => .ok (.remN g (fv w 16 6) (fv w 10 6) (fv w 4 6))
      | _ => .error .instruction
  | 0x0C => match fld w 0 4 with
      | 0 => needZero (fld w 4 6) (.ok (.clz g (fv w 16 6) (fv w 10 6)))
      | 1 => needZero (fld w 4 6) (.ok (.ctz g (fv w 16 6) (fv w 10 6)))
      | 2 => needZero (fld w 4 6) (.ok (.popc g (fv w 16 6) (fv w 10 6)))
      | 3 => needZero (fld w 4 6) (.ok (.brev g (fv w 16 6) (fv w 10 6)))
      | 4 => needZero (fld w 4 6) (.ok (.bswap g (fv w 16 6) (fv w 10 6)))
      | _ => needZero (fld w 4 6) (.error .instruction)
  | 0x0D => match fld w 0 4 with
      | 0 => needEven (fld w 4 6) (.ok (.bfxI g (fv w 16 6) (fv w 10 6) (fv w 4 6)))
      | 1 => needEven (fld w 4 6) (.ok (.bfxN g (fv w 16 6) (fv w 10 6) (fv w 4 6)))
      | 2 => needEven (fld w 4 6) (.ok (.bfi g (fv w 16 6) (fv w 10 6) (fv w 4 6)))
      | 3 => needEven (fld w 10 6) (.ok (.fshl g (fv w 16 6) (fv w 10 6) (fv w 4 6)))
      | 4 => needEven (fld w 10 6) (.ok (.fshr g (fv w 16 6) (fv w 10 6) (fv w 4 6)))
      | _ => .error .instruction
  | 0x0E => needZero (fld w 16 2) (needCode (fld w 0 4 < 8) (.ok (.cmp g (fv w 18 4) (fv w 10 6) (fv w 4 6) (fv w 0 4))))
  | 0x0F => needCode (fld w 14 4 < 8) (.ok (.cmpi g (fv w 18 4) (fv w 14 4) (fv w 8 6) (fv w 0 8)))
  | 0x10 => match fld w 0 4 with
      | 0 => needZero (fld w 4 6) (.ok (.pand g (fv w 18 4) (fv w 14 4) (fv w 10 4)))
      | 1 => needZero (fld w 4 6) (.ok (.por g (fv w 18 4) (fv w 14 4) (fv w 10 4)))
      | 2 => needZero (fld w 4 6) (.ok (.pxor g (fv w 18 4) (fv w 14 4) (fv w 10 4)))
      | 3 => needZero (fld w 4 6) (.ok (.pandn g (fv w 18 4) (fv w 14 4) (fv w 10 4)))
      | 4 => needZero (fld w 4 10) (.ok (.pmov g (fv w 18 4) (fv w 14 4)))
      | 5 => needZero (fld w 4 14) (.ok (.pset g (fv w 18 4)))
      | 6 => needZero (fld w 4 14) (.ok (.pclr g (fv w 18 4)))
      | _ => needZero (fld w 4 6) (.error .instruction)
  | 0x11 => .ok (.sel g (fv w 16 6) (fv w 10 6) (fv w 4 6) (fv w 0 4))
  | 0x12 => match fld w 0 4 with
      | 0 => .ok (.faddF64 g (fv w 16 6) (fv w 10 6) (fv w 4 6))
      | 1 => .ok (.fsubF64 g (fv w 16 6) (fv w 10 6) (fv w 4 6))
      | 2 => .ok (.fmulF64 g (fv w 16 6) (fv w 10 6) (fv w 4 6))
      | 3 => .ok (.fdivF64 g (fv w 16 6) (fv w 10 6) (fv w 4 6))
      | 4 => needZero (fld w 4 6) (.ok (.fsqrtF64 g (fv w 16 6) (fv w 10 6)))
      | 5 => .ok (.fminF64 g (fv w 16 6) (fv w 10 6) (fv w 4 6))
      | 6 => .ok (.fmaxF64 g (fv w 16 6) (fv w 10 6) (fv w 4 6))
      | 8 => .ok (.faddF32 g (fv w 16 6) (fv w 10 6) (fv w 4 6))
      | 9 => .ok (.fsubF32 g (fv w 16 6) (fv w 10 6) (fv w 4 6))
      | 10 => .ok (.fmulF32 g (fv w 16 6) (fv w 10 6) (fv w 4 6))
      | 11 => .ok (.fdivF32 g (fv w 16 6) (fv w 10 6) (fv w 4 6))
      | 12 => needZero (fld w 4 6) (.ok (.fsqrtF32 g (fv w 16 6) (fv w 10 6)))
      | 13 => .ok (.fminF32 g (fv w 16 6) (fv w 10 6) (fv w 4 6))
      | 14 => .ok (.fmaxF32 g (fv w 16 6) (fv w 10 6) (fv w 4 6))
      | _ => .error .instruction
  | 0x13 => match fld w 0 4 with
      | 0 => needZero (fld w 4 6) (.ok (.fcvtF64I64 g (fv w 16 6) (fv w 10 6)))
      | 1 => needZero (fld w 4 6) (.ok (.fcvtF64N64 g (fv w 16 6) (fv w 10 6)))
      | 2 => needZero (fld w 4 6) (.ok (.fcvtI64F64 g (fv w 16 6) (fv w 10 6)))
      | 3 => needZero (fld w 4 6) (.ok (.fcvtN64F64 g (fv w 16 6) (fv w 10 6)))
      | 4 => needZero (fld w 4 6) (.ok (.fcvtF32F64 g (fv w 16 6) (fv w 10 6)))
      | 5 => needZero (fld w 4 6) (.ok (.fcvtF64F32 g (fv w 16 6) (fv w 10 6)))
      | 6 => needZero (fld w 4 6) (.ok (.fcvtF32I64 g (fv w 16 6) (fv w 10 6)))
      | 7 => needZero (fld w 4 6) (.ok (.fcvtI64F32 g (fv w 16 6) (fv w 10 6)))
      | _ => needZero (fld w 4 6) (.error .instruction)
  | 0x14 => needZero (fld w 16 2) (match fld w 2 2 with
      | 0 => .ok (.fcmpF64 g (fv w 18 4) (fv w 10 6) (fv w 4 6) (fv w 0 2))
      | 2 => .ok (.fcmpF32 g (fv w 18 4) (fv w 10 6) (fv w 4 6) (fv w 0 2))
      | _ => .error .instruction)
  | 0x15 => needZero (fld w 10 6) (needCode (sysRegListed (fld w 0 10)) (.ok (.mfs g (fv w 16 6) (fv w 0 10))))
  | 0x16 => needZero (fld w 16 6) (needCode (sysRegListed (fld w 0 10)) (.ok (.mts g (fv w 10 6) (fv w 0 10))))
  | _ => .error .instruction

/-- The S2 opcode map (R58). -/
def decodeControl (w : Nat) : Except DecodeError Instr :=
  let g := fv w 22 4
  match fld w 26 6 with
  | 0x01 => .ok (.b g (fv w 0 22))
  | 0x02 => .ok (.call g (fv w 0 22))
  | 0x03 => match fld w 0 4 with
      | 0 => needZero (fld w 4 12) (.ok (.jr g (fv w 16 6)))
      | 1 => needZero (fld w 4 12) (.ok (.callr g (fv w 16 6)))
      | 2 => needZero (fld w 4 18) (.ok (.ret g))
      | _ => .error .instruction
  | 0x04 => if fld w 16 6 = 0 then .error .encoding else .ok (.loop g (fv w 16 6) (fv w 4 12) (fv w 0 4))
  | 0x05 => if fld w 16 6 = 0 then .error .encoding
      else needEven (fld w 16 6) (.ok (.loopSt g (fv w 16 6) (fv w 4 12) (fv w 0 4)))
  | 0x06 => match fld w 0 4 with
      | 0 => .ok (.spawn g (fv w 16 6) (fv w 10 6) (fv w 4 6))
      | 1 => .ok (.spawnSib g (fv w 16 6) (fv w 10 6) (fv w 4 6))
      | _ => .error .instruction
  | 0x07 => needZero (fld w 0 22) (.ok (.exit g))
  | 0x08 => needZero (fld w 0 22) (.ok (.yield g))
  | 0x09 => needZero (if fld w 0 4 = 4 then fld w 10 6 else 0)
      (needCode (fld w 0 4 < 5) (.ok (.wait g (fv w 16 6) (fv w 10 6) (fv w 4 6) (fv w 0 4))))
  | 0x0A => match fld w 0 4 with
      | 0 => needZero (fld w 4 12) (.ok (.halloc g (fv w 16 6)))
      | 1 => needZero (fld w 4 6 + fld w 16 6) (.ok (.hfree g (fv w 10 6)))
      | 2 => needZero (fld w 4 6 + fld w 16 6) (.ok (.hjoin g (fv w 10 6)))
      | 3 => needZero (fld w 4 6 + fld w 16 6) (.ok (.hleave g (fv w 10 6)))
      | 4 => needZero (fld w 4 6 + fld w 16 6) (.ok (.hbar g (fv w 10 6)))
      | 5 => needZero (fld w 4 6) (.ok (.hsize g (fv w 16 6) (fv w 10 6)))
      | _ => needZero (fld w 4 6) (.error .instruction)
  | 0x0B => match fld w 0 4 with
      | 0 => needZero (fld w 4 18) (.ok (.phaseBegin g))
      | 1 => needZero (fld w 4 18) (.ok (.phaseCommit g))
      | 2 => needZero (fld w 4 18) (.ok (.phaseAbort g))
      | _ => needZero (fld w 4 18) (.error .instruction)
  | 0x0C => needZero (fld w 16 6) (.ok (.sys g (fv w 0 16)))
  | 0x0D => needZero (fld w 16 6) (.ok (.trap g (fv w 0 16)))
  | 0x0E => needZero (fld w 16 6) (.ok (.brk g (fv w 0 16)))
  | 0x0F => needZero (fld w 0 22) (.ok (.eret g))
  | 0x10 => needZero (fld w 0 4) (.ok (.tcwait g (fv w 16 6) (fv w 10 6) (fv w 4 6)))
  | 0x11 => match fld w 0 4 with
      | 0 => needZero (fld w 4 12) (.ok (.tlbiPage g (fv w 16 6)))
      | 1 => needZero (fld w 4 6) (.ok (.tlbiRange g (fv w 16 6) (fv w 10 6)))
      | 2 => needZero (fld w 4 18) (.ok (.tlbiAll g))
      | _ => needZero (fld w 4 6) (.error .instruction)
  | 0x12 => needZero (fld w 0 4) (.ok (.pattr g (fv w 16 6) (fv w 10 6) (fv w 4 6)))
  | _ => .error .instruction

/-- The S3 and S4 opcode map (R59). -/
noncomputable def decodeVector (w : Nat) : Except DecodeError Instr :=
  let g := fv w 22 4
  match fld w 26 6 with
  | 0x01 => match fld w 0 7 with
      | 0 => .ok (.vadd g (fv w 17 5) (fv w 12 5) (fv w 7 5))
      | 1 => .ok (.vsub g (fv w 17 5) (fv w 12 5) (fv w 7 5))
      | 2 => .ok (.vmul g (fv w 17 5) (fv w 12 5) (fv w 7 5))
      | 3 => .ok (.vfma g (fv w 17 5) (fv w 12 5) (fv w 7 5))
      | 4 => .ok (.vmin g (fv w 17 5) (fv w 12 5) (fv w 7 5))
      | 5 => .ok (.vmax g (fv w 17 5) (fv w 12 5) (fv w 7 5))
      | 6 => needZero (fld w 7 5) (.ok (.vabs g (fv w 17 5) (fv w 12 5)))
      | 7 => needZero (fld w 7 5) (.ok (.vneg g (fv w 17 5) (fv w 12 5)))
      | 8 => needZero (fld w 7 5) (.ok (.vmov g (fv w 17 5) (fv w 12 5)))
      | 9 => .ok (.vand g (fv w 17 5) (fv w 12 5) (fv w 7 5))
      | 10 => .ok (.vor g (fv w 17 5) (fv w 12 5) (fv w 7 5))
      | 11 => .ok (.vxor g (fv w 17 5) (fv w 12 5) (fv w 7 5))
      | 12 => .ok (.vshl g (fv w 17 5) (fv w 12 5) (fv w 7 5))
      | 13 => .ok (.vshr g (fv w 17 5) (fv w 12 5) (fv w 7 5))
      | 14 => .ok (.vcmpeq g (fv w 17 5) (fv w 12 5) (fv w 7 5))
      | 15 => .ok (.vcmplt g (fv w 17 5) (fv w 12 5) (fv w 7 5))
      | 16 => .ok (.vcmple g (fv w 17 5) (fv w 12 5) (fv w 7 5))
      | 17 => .ok (.vsel g (fv w 17 5) (fv w 12 5) (fv w 7 5))
      | _ => .error .instruction
  | 0x02 => needZero (fld w 4 3 + fld w 7 5) (needCode (cvtFormat (fld w 0 4)) (.ok (.vcvt g (fv w 17 5) (fv w 12 5) (fv w 0 4))))
  | 0x03 => match fld w 0 4 with
      | 0 => needZero (fld w 4 8 + fld w 17 5) (.ok (.vmaxe g (fv w 12 5)))
      | 1 => needZero (fld w 7 5) (match fld w 4 3 with
          | 0 => .ok (.vcvqQ3 g (fv w 17 5) (fv w 12 5))
          | 1 => .ok (.vcvqQ5 g (fv w 17 5) (fv w 12 5))
          | 2 => .ok (.vcvqQ8 g (fv w 17 5) (fv w 12 5))
          | _ => .error .instruction)
      | 2 => needZero (fld w 4 8) (.ok (.vdq g (fv w 17 5) (fv w 12 5)))
      | _ => needZero (fld w 7 5) (.error .instruction)
  | 0x04 => match fld w 0 7 with
      | 0 => needZero (fld w 7 5) (.ok (.vexp2 g (fv w 17 5) (fv w 12 5)))
      | 1 => needZero (fld w 7 5) (.ok (.vlog2 g (fv w 17 5) (fv w 12 5)))
      | 2 => needZero (fld w 7 5) (.ok (.vrcp g (fv w 17 5) (fv w 12 5)))
      | 3 => needZero (fld w 7 5) (.ok (.vrsqrt g (fv w 17 5) (fv w 12 5)))
      | 4 => needZero (fld w 7 5) (.ok (.vsqrt g (fv w 17 5) (fv w 12 5)))
      | 5 => needZero (fld w 7 5) (.ok (.vtanh g (fv w 17 5) (fv w 12 5)))
      | 6 => needZero (fld w 7 5) (.ok (.vsigm g (fv w 17 5) (fv w 12 5)))
      | 7 => needZero (fld w 7 5) (.ok (.vsilu g (fv w 17 5) (fv w 12 5)))
      | 8 => needZero (fld w 7 5) (.ok (.vgelu g (fv w 17 5) (fv w 12 5)))
      | 9 => needZero (fld w 7 5) (.ok (.verf g (fv w 17 5) (fv w 12 5)))
      | 16 => .ok (.vgactSilu g (fv w 17 5) (fv w 12 5) (fv w 7 5))
      | 17 => .ok (.vgactGelu g (fv w 17 5) (fv w 12 5) (fv w 7 5))
      | 18 => .ok (.vgactSigm g (fv w 17 5) (fv w 12 5) (fv w 7 5))
      | 19 => .ok (.vgactRelu g (fv w 17 5) (fv w 12 5) (fv w 7 5))
      | _ => .error .instruction
  | 0x05 => needZero (fld w 0 2) (needEven (fld w 6 6) (match fld w 2 4 with
      | 0 => .ok (.vbas g (fv w 17 5) (fv w 12 5) (fv w 6 6))
      | 1 => .ok (.vbasSilu g (fv w 17 5) (fv w 12 5) (fv w 6 6))
      | 2 => .ok (.vbasGelu g (fv w 17 5) (fv w 12 5) (fv w 6 6))
      | 3 => .ok (.vbasSigm g (fv w 17 5) (fv w 12 5) (fv w 6 6))
      | 4 => .ok (.vbasRelu g (fv w 17 5) (fv w 12 5) (fv w 6 6))
      | _ => .error .instruction))
  | 0x06 => match fld w 0 7 with
      | 0 => needZero (fld w 7 4) (.ok (.vrsum g (fv w 17 5) (fv w 11 6)))
      | 1 => needZero (fld w 7 4) (.ok (.vrmax g (fv w 17 5) (fv w 11 6)))
      | 2 => needZero (fld w 7 4) (.ok (.vrmin g (fv w 17 5) (fv w 11 6)))
      | 3 => needZero (fld w 7 4) (.ok (.vrsumsq g (fv w 17 5) (fv w 11 6)))
      | 4 => needZero (fld w 7 4) (.ok (.vcsum g (fv w 17 5) (fv w 11 6)))
      | 5 => needZero (fld w 7 4) (.ok (.vcmax g (fv w 17 5) (fv w 11 6)))
      | _ => needZero (fld w 7 4) (.error .instruction)
  | 0x07 => match fld w 0 7 with
      | 0 => needZero (fld w 7 5) (.ok (.vxpose g (fv w 17 5) (fv w 12 5)))
      | 1 => needZero (fld w 11 1) (.ok (.vxrot g (fv w 17 5) (fv w 12 5) (fv w 7 4)))
      | 2 => needZero (fld w 11 1) (.ok (.vxbrow g (fv w 17 5) (fv w 12 5) (fv w 7 4)))
      | 3 => .ok (.vperm g (fv w 17 5) (fv w 12 5) (fv w 7 5))
      | _ => .error .instruction
  | 0x08 => match fld w 0 7 with
      | 0 => needZero (fld w 7 4) (.ok (.vbcast g (fv w 16 6) (fv w 11 5)))
      | 1 => needZero (fld w 7 4) (.ok (.vbrow g (fv w 17 5) (fv w 11 6)))
      | 2 => needZero (fld w 7 4) (.ok (.vbcol g (fv w 17 5) (fv w 11 6)))
      | _ => needZero (fld w 7 4) (.error .instruction)
  | 0x09 => match fld w 0 4 with
      | 0 => .ok (.kadd g (fv w 16 6) (fv w 10 6) (fv w 4 6))
      | 1 => .ok (.kmul g (fv w 16 6) (fv w 10 6) (fv w 4 6))
      | 2 => .ok (.kmax g (fv w 16 6) (fv w 10 6) (fv w 4 6))
      | 3 => needZero (fld w 4 6) (.ok (.krcp g (fv w 16 6) (fv w 10 6)))
      | 4 => needZero (fld w 4 6) (.ok (.krsqrt g (fv w 16 6) (fv w 10 6)))
      | 5 => needZero (fld w 4 6) (.ok (.kneg g (fv w 16 6) (fv w 10 6)))
      | 6 => needZero (fld w 4 6) (.ok (.kmov g (fv w 16 6) (fv w 10 6)))
      | 7 => needEven (fld w 16 6) (needEven (fld w 10 6) (needEven (fld w 4 6)
          (.ok (.klse g (fv w 16 6) (fv w 10 6) (fv w 4 6)))))
      | _ => .error .instruction
  | 0x0A => match fld w 0 7 with
      | 0x00 => needCode (fld w 7 4 < 4) (.ok (.kbind g (fv w 17 5) (fv w 11 6) (fv w 7 4)))
      | 0x01 => needZero (fld w 11 6) (needCode (fld w 7 4 < 4) (.ok (.kunbind g (fv w 17 5) (fv w 7 4))))
      | 0x02 => .ok (.ksetRow g (fv w 17 5) (fv w 11 6) (fv w 7 4))
      | 0x12 => .ok (.ksetCol g (fv w 17 5) (fv w 11 6) (fv w 7 4))
      | _ => .error .instruction
  | 0x0B => match fld w 0 7 with
      | 0 => needZero (fld w 7 10) (.ok (.tres g (fv w 17 5)))
      | 1 => needZero (fld w 9 8) (.ok (.tresPart g (fv w 17 5) (fv w 7 2)))
      | _ => .error .instruction
  | 0x0C => needZero (fld w 0 11) (.ok (.tstat g (fv w 16 6) (fv w 11 5)))
  | 0x0D => match fld w 0 7 with
      | 0 => needZero (fld w 7 4 + fld w 17 5) (.ok (.kpend g (fv w 11 6)))
      | 1 => needZero (fld w 7 4 + fld w 17 5) (.ok (.kwait g (fv w 11 6)))
      | _ => needZero (fld w 7 4 + fld w 17 5) (.error .instruction)
  | 0x0E => needZero (fld w 4 8) (needCode (fld w 0 4 < 13) (.ok (.vtag g (fv w 17 5) (fv w 12 5) (fv w 0 4))))
  | 0x0F => needZero (fld w 0 17) (.ok (.vzero g (fv w 17 5)))
  | _ => .error .instruction

/-- The S5 opcode map (R60). -/
noncomputable def decodeMatrix (w : Nat) : Except DecodeError Instr :=
  let g := fv w 22 4
  match fld w 26 6 with
  | 0x01 => needZero (fld w 3 4) (match fld w 0 3 with
      | 0 => .ok (.mma g (fv w 19 3) (fv w 13 6) (fv w 7 6))
      | 1 => .ok (.mmz g (fv w 19 3) (fv w 13 6) (fv w 7 6))
      | 2 => .ok (.mmaTap g (fv w 19 3) (fv w 13 6) (fv w 7 6))
      | 3 => .ok (.mmzTap g (fv w 19 3) (fv w 13 6) (fv w 7 6))
      | 4 => .ok (.mmaBt g (fv w 19 3) (fv w 13 6) (fv w 7 6))
      | 5 => .ok (.mmzBt g (fv w 19 3) (fv w 13 6) (fv w 7 6))
      | 6 => .ok (.mmaTapBt g (fv w 19 3) (fv w 13 6) (fv w 7 6))
      | 7 => .ok (.mmzTapBt g (fv w 19 3) (fv w 13 6) (fv w 7 6))
      | _ => .error .instruction)
  | 0x02 => match fld w 0 7 with
      | 0 => needZero (fld w 7 12) (.ok (.mres g (fv w 19 3)))
      | 1 => needZero (fld w 7 3) (.ok (.msacc g (fv w 19 3) (fv w 16 3) (fv w 10 6)))
      | _ => needZero (fld w 7 3) (.error .instruction)
  | 0x03 => needZero (fld w 0 10) (needCode (cvtFormat (fld w 10 4)) (.ok (.mrd g (fv w 19 3) (fv w 14 5) (fv w 10 4))))
  | 0x04 => needZero (fld w 0 10)
      (needCode (fld w 10 4 != 0 && fld w 10 4 < 13) (.ok (.mwr g (fv w 19 3) (fv w 14 5) (fv w 10 4))))
  | 0x05 => needZero (fld w 0 19) (.ok (.mzero g (fv w 19 3)))
  | 0x06 => needZero (fld w 0 22) (.ok (.mdrain g))
  | 0x07 => needZero (fld w 0 14) (needCode (legalPair (fld w 18 4) (fld w 14 4)) (.ok (.mfmt g (fv w 18 4) (fv w 14 4))))
  | 0x08 => match fld w 0 10 with
      | 0 => needZero (fld w 10 6) (.ok (.oclaim g (fv w 16 6)))
      | 1 => needZero (fld w 16 6) (.ok (.orel g (fv w 10 6)))
      | _ => .error .instruction
  | 0x09 => needZero (fld w 0 10) (needCode (fld w 10 6 < 8) (.ok (.mofs g (fv w 16 6) (fv w 10 6))))
  | _ => .error .instruction

/-- The S6 and S7 opcode map (R61). -/
noncomputable def decodeCopy (w : Nat) : Except DecodeError Instr :=
  let g := fv w 22 4
  match fld w 26 6 with
  | 0x01 => .ok (.ldI8 g (fv w 16 6) (fv w 10 6) (fv w 0 10))
  | 0x02 => .ok (.ldN8 g (fv w 16 6) (fv w 10 6) (fv w 0 10))
  | 0x03 => .ok (.ldI16 g (fv w 16 6) (fv w 10 6) (fv w 0 10))
  | 0x04 => .ok (.ldN16 g (fv w 16 6) (fv w 10 6) (fv w 0 10))
  | 0x05 => .ok (.ldI32 g (fv w 16 6) (fv w 10 6) (fv w 0 10))
  | 0x06 => .ok (.ldN32 g (fv w 16 6) (fv w 10 6) (fv w 0 10))
  | 0x07 => .ok (.ld64 g (fv w 16 6) (fv w 10 6) (fv w 0 10))
  | 0x08 => .ok (.st8 g (fv w 16 6) (fv w 10 6) (fv w 0 10))
  | 0x09 => .ok (.st16 g (fv w 16 6) (fv w 10 6) (fv w 0 10))
  | 0x0A => .ok (.st32 g (fv w 16 6) (fv w 10 6) (fv w 0 10))
  | 0x0B => .ok (.st64 g (fv w 16 6) (fv w 10 6) (fv w 0 10))
  | 0x0C => needZero (fld w 3 7) (needCode (0 < fld w 0 3 && fld w 0 3 < 6) (.ok (.ldAcq32 g (fv w 16 6) (fv w 10 6) (fv w 0 3))))
  | 0x0D => needZero (fld w 3 7) (needCode (0 < fld w 0 3 && fld w 0 3 < 6) (.ok (.ldAcq64 g (fv w 16 6) (fv w 10 6) (fv w 0 3))))
  | 0x0E => needZero (fld w 3 7) (needCode (0 < fld w 0 3 && fld w 0 3 < 6) (.ok (.stRel32 g (fv w 16 6) (fv w 10 6) (fv w 0 3))))
  | 0x0F => needZero (fld w 3 7) (needCode (0 < fld w 0 3 && fld w 0 3 < 6) (.ok (.stRel64 g (fv w 16 6) (fv w 10 6) (fv w 0 3))))
  | 0x10 => needZero (fld w 4 6) (needCode (fld w 0 3 == 3) (.ok (.ldSc g (fv w 16 6) (fv w 10 6) (fv w 3 1))))
  | 0x11 => needZero (fld w 4 6) (needCode (fld w 0 3 == 3) (.ok (.stSc g (fv w 16 6) (fv w 10 6) (fv w 3 1))))
  | 0x12 => needCode (fld w 0 3 == 3) (.ok (.amoSc g (fv w 16 6) (fv w 10 6) (fv w 4 6) (fv w 3 1)))
  | 0x13 => needZero (fld w 21 1) (needCode (fld w 0 4 < 13)
      (if fld w 0 4 = 0 then .ok (.tldRaw g (fv w 16 5) (fv w 10 6) (fv w 4 6))
       else .ok (.tld g (fv w 16 5) (fv w 10 6) (fv w 4 6) (fv w 0 4))))
  | 0x14 => needZero (fld w 21 1 + fld w 0 4) (.ok (.tst g (fv w 16 5) (fv w 10 6) (fv w 4 6)))
  | 0x15 => needZero (fld w 21 1 + fld w 0 4) (.ok (.tstRaw g (fv w 16 5) (fv w 10 6) (fv w 4 6)))
  | 0x16 => needEven (fld w 16 6) (.ok (.st128 g (fv w 16 6) (fv w 10 6) (fv w 0 10)))
  | 0x17 => needCode (oloadFormat (fld w 0 4)) (.ok (.oload g (fv w 16 6) (fv w 10 6) (fv w 4 6) (fv w 0 4)))
  | 0x18 => .ok (.kld g (fv w 16 6) (fv w 10 6) (fv w 0 10))
  | 0x19 => .ok (.kst g (fv w 16 6) (fv w 10 6) (fv w 0 10))
  | 0x1A => needCode (fld w 0 3 < 6) (.ok (.amoAdd g (fv w 16 6) (fv w 10 6) (fv w 4 6) (fv w 3 1) (fv w 0 3)))
  | 0x1B => needCode (fld w 0 3 < 6) (.ok (.amoAnd g (fv w 16 6) (fv w 10 6) (fv w 4 6) (fv w 3 1) (fv w 0 3)))
  | 0x1C => needCode (fld w 0 3 < 6) (.ok (.amoOr g (fv w 16 6) (fv w 10 6) (fv w 4 6) (fv w 3 1) (fv w 0 3)))
  | 0x1D => needCode (fld w 0 3 < 6) (.ok (.amoXor g (fv w 16 6) (fv w 10 6) (fv w 4 6) (fv w 3 1) (fv w 0 3)))
  | 0x1E => needCode (fld w 0 3 < 6) (.ok (.amoMinI g (fv w 16 6) (fv w 10 6) (fv w 4 6) (fv w 3 1) (fv w 0 3)))
  | 0x1F => needCode (fld w 0 3 < 6) (.ok (.amoMinN g (fv w 16 6) (fv w 10 6) (fv w 4 6) (fv w 3 1) (fv w 0 3)))
  | 0x20 => needCode (fld w 0 3 < 6) (.ok (.amoMaxI g (fv w 16 6) (fv w 10 6) (fv w 4 6) (fv w 3 1) (fv w 0 3)))
  | 0x21 => needCode (fld w 0 3 < 6) (.ok (.amoMaxN g (fv w 16 6) (fv w 10 6) (fv w 4 6) (fv w 3 1) (fv w 0 3)))
  | 0x22 => needCode (fld w 0 3 < 6) (.ok (.amoSwap g (fv w 16 6) (fv w 10 6) (fv w 4 6) (fv w 3 1) (fv w 0 3)))
  | 0x23 => needCode (fld w 3 1 == 1 && fld w 0 3 < 6) (.ok (.amoFaddF32 g (fv w 16 6) (fv w 10 6) (fv w 4 6) (fv w 0 3)))
  | 0x24 => needCode (fld w 0 3 < 6) (.ok (.cas g (fv w 16 6) (fv w 10 6) (fv w 4 6) (fv w 3 1) (fv w 0 3)))
  | 0x25 => needZero (fld w 3 1) (needEven (fld w 16 6) (needEven (fld w 4 6)
      (needCode (fld w 0 3 < 6) (.ok (.cas128 g (fv w 16 6) (fv w 10 6) (fv w 4 6) (fv w 0 3))))))
  | 0x26 => needZero (fld w 16 6 + fld w 2 8) (.ok (.cp g (fv w 10 6) (fv w 0 2)))
  | 0x27 => needZero (fld w 16 6 + fld w 0 4) (.ok (.cpq g (fv w 10 6) (fv w 4 6)))
  | 0x28 => needZero (fld w 10 12) (match fld w 0 4 with
      | 0 => needZero (fld w 6 4) (.ok (.drainCp g (fv w 4 2)))
      | 1 => needZero (fld w 4 6) (.ok (.drainFar g))
      | 2 => needZero (fld w 4 6) (.ok (.drainAll g))
      | _ => .error .instruction)
  | 0x29 => needZero (fld w 10 12) (match fld w 2 2 with
      | 0 => needZero (fld w 4 6) (.ok (.fenceAcq g (fv w 0 2)))
      | 1 => needZero (fld w 4 6) (.ok (.fenceRel g (fv w 0 2)))
      | 2 => needZero (fld w 4 6) (.ok (.fenceFull g (fv w 0 2)))
      | _ => if fld w 0 2 = 3 then (match fld w 4 6 with
          | 0 => .ok (.fenceAcqPool g)
          | 1 => .ok (.fenceRelPool g)
          | 2 => .ok (.fenceFullPool g)
          | _ => .error .instruction) else needZero (fld w 4 6) (.error .instruction))
  | 0x2A => needZero (fld w 20 2 + fld w 0 4) (needEven (fld w 4 6) (.ok (.smap g (fv w 16 4) (fv w 10 6) (fv w 4 6))))
  | 0x2B => needZero (fld w 20 2 + fld w 0 16) (.ok (.sunmap g (fv w 16 4)))
  | 0x2C => needZero (fld w 16 6 + fld w 0 4) (.ok (.swb g (fv w 10 6) (fv w 4 6)))
  | 0x2D => needZero (fld w 16 6 + fld w 0 4) (.ok (.sinv g (fv w 10 6) (fv w 4 6)))
  | 0x2E => needZero (fld w 16 6) (.ok (.pf g (fv w 10 6) (fv w 0 10)))
  | 0x2F => needZero (fld w 16 6 + fld w 0 10) (.ok (.pcommit g (fv w 10 6)))
  | 0x30 => needZero (fld w 16 6 + fld w 0 10) (.ok (.pfree g (fv w 10 6)))
  | 0x31 => needZero (fld w 16 6 + fld w 0 10) (.ok (.pin g (fv w 10 6)))
  | 0x32 => needZero (fld w 16 6 + fld w 0 10) (.ok (.unpin g (fv w 10 6)))
  | 0x33 => needZero (fld w 0 3) (.ok (.stTc g (fv w 16 6) (fv w 10 6) (fv w 4 6) (fv w 3 1)))
  | 0x34 => needZero (fld w 16 6 + fld w 0 4) (.ok (.tcadd g (fv w 10 6) (fv w 4 6)))
  | 0x35 => needZero (fld w 0 10) (.ok (.tpost g (fv w 16 6) (fv w 10 6)))
  | 0x36 => needZero (fld w 0 10) (.ok (.tcset g (fv w 16 6) (fv w 10 6)))
  | 0x37 => needZero (fld w 0 10) (.ok (.tcread g (fv w 16 6) (fv w 10 6)))
  | 0x38 => needZero (fld w 16 6 + fld w 0 10) (.ok (.tcancel g (fv w 10 6)))
  | 0x39 => needCode (fld w 0 3 == 4) (.ok (.mcst g (fv w 16 6) (fv w 10 6) (fv w 4 6) (fv w 3 1)))
  | 0x3A => needCode (fld w 0 3 == 4) (.ok (.mcstSeq g (fv w 16 6) (fv w 10 6) (fv w 4 6) (fv w 3 1)))
  | _ => .error .instruction

/-- A syllable of a slot class (R52): the class chooses the opcode map. -/
noncomputable def decodeSyllable (c : SlotClass) (w : Nat) (ext : Option Nat) : Except DecodeError Instr :=
  match c with
  | .scalar => decodeScalar w ext
  | .control => decodeControl w
  | .vector => decodeVector w
  | .matrix => decodeMatrix w
  | .copy => decodeCopy w

/-- A reference of a reference block (R46): the table entry and REP. -/
structure Reference where
  entry : Nat
  rep : Nat
  deriving DecidableEq, Repr

/-- The halfwords 1 to N of a reference block, or none where R46 makes the block ILLEGAL_ENCODING. `block` is the 256-bit
number of the block's bytes, byte 0 lowest. -/
def decodeReferences (block : Nat) : Option (List Reference) :=
  let n := fld block 4 4 + 1
  if n ≤ 15 ∧ fld block 3 1 = 0 ∧ fld block 8 8 = 0 ∧ block / 2 ^ (16 * (n + 1)) = 0 then
    some ((List.range n).map fun i =>
      ⟨fld block (16 * (i + 1) + 7) 9, fld block (16 * (i + 1)) 7 + 1⟩)
  else none

/-- The word of a syllable under SI without or with the LIMM extension. -/
structure Encoded where
  cls : SlotClass
  word : Nat
  ext : Option Nat
  deriving DecidableEq, Repr

/-- One operand field added to a word. -/
def pk {n : Nat} (acc : Nat) (v : BitVec n) (lo : Nat) : Nat := acc + v.toNat * 2 ^ lo

/-- The encoding of an SI immediate: no extension where IMM10 sign-extends to it, S2 := IMM[41:10] otherwise (R56, R71). -/
def encSI (base : Nat) (imm : BitVec 42) : Encoded :=
  if (BitVec.ofNat 10 imm.toNat).signExtend 42 = imm then ⟨.scalar, base + imm.toNat % 2 ^ 10, none⟩
  else ⟨.scalar, base + imm.toNat % 2 ^ 10, some (imm.toNat / 2 ^ 10)⟩

/-- The words of the scalar class, from the tables of R57; none for any other instruction. -/
def encodeScalar : Instr → Option Encoded
  | .add g d a b => some ⟨.scalar, pk (pk (pk (pk 0x04000000 g 22) d 16) a 10) b 4, none⟩
  | .sub g d a b => some ⟨.scalar, pk (pk (pk (pk 0x04000001 g 22) d 16) a 10) b 4, none⟩
  | .and g d a b => some ⟨.scalar, pk (pk (pk (pk 0x04000002 g 22) d 16) a 10) b 4, none⟩
  | .or g d a b => some ⟨.scalar, pk (pk (pk (pk 0x04000003 g 22) d 16) a 10) b 4, none⟩
  | .xor g d a b => some ⟨.scalar, pk (pk (pk (pk 0x04000004 g 22) d 16) a 10) b 4, none⟩
  | .andn g d a b => some ⟨.scalar, pk (pk (pk (pk 0x04000005 g 22) d 16) a 10) b 4, none⟩
  | .shl g d a b => some ⟨.scalar, pk (pk (pk (pk 0x04000006 g 22) d 16) a 10) b 4, none⟩
  | .shrN g d a b => some ⟨.scalar, pk (pk (pk (pk 0x04000007 g 22) d 16) a 10) b 4, none⟩
  | .shrI g d a b => some ⟨.scalar, pk (pk (pk (pk 0x04000008 g 22) d 16) a 10) b 4, none⟩
  | .rot g d a b => some ⟨.scalar, pk (pk (pk (pk 0x04000009 g 22) d 16) a 10) b 4, none⟩
  | .minI g d a b => some ⟨.scalar, pk (pk (pk (pk 0x0400000A g 22) d 16) a 10) b 4, none⟩
  | .minN g d a b => some ⟨.scalar, pk (pk (pk (pk 0x0400000B g 22) d 16) a 10) b 4, none⟩
  | .maxI g d a b => some ⟨.scalar, pk (pk (pk (pk 0x0400000C g 22) d 16) a 10) b 4, none⟩
  | .maxN g d a b => some ⟨.scalar, pk (pk (pk (pk 0x0400000D g 22) d 16) a 10) b 4, none⟩
  | .addi g d a imm => some (encSI (pk (pk (pk 0x08000000 g 22) d 16) a 10) imm)
  | .andi g d a imm => some (encSI (pk (pk (pk 0x0C000000 g 22) d 16) a 10) imm)
  | .ori g d a imm => some (encSI (pk (pk (pk 0x10000000 g 22) d 16) a 10) imm)
  | .xori g d a imm => some (encSI (pk (pk (pk 0x14000000 g 22) d 16) a 10) imm)
  | .shli g d a imm => some (encSI (pk (pk (pk 0x18000000 g 22) d 16) a 10) imm)
  | .shriN g d a imm => some (encSI (pk (pk (pk 0x1C000000 g 22) d 16) a 10) imm)
  | .shriI g d a imm => some (encSI (pk (pk (pk 0x20000000 g 22) d 16) a 10) imm)
  | .li g d imm => some (encSI (pk (pk 0x24000000 g 22) d 16) imm)
  | .lih g d a imm => some (encSI (pk (pk (pk 0x28000000 g 22) d 16) a 10) imm)
  | .mul g d a b => some ⟨.scalar, pk (pk (pk (pk 0x2C000000 g 22) d 16) a 10) b 4, none⟩
  | .mulhI g d a b => some ⟨.scalar, pk (pk (pk (pk 0x2C000001 g 22) d 16) a 10) b 4, none⟩
  | .mulhN g d a b => some ⟨.scalar, pk (pk (pk (pk 0x2C000002 g 22) d 16) a 10) b 4, none⟩
  | .mulhIn g d a b => some ⟨.scalar, pk (pk (pk (pk 0x2C000003 g 22) d 16) a 10) b 4, none⟩
  | .divI g d a b => some ⟨.scalar, pk (pk (pk (pk 0x2C000004 g 22) d 16) a 10) b 4, none⟩
  | .divN g d a b => some ⟨.scalar, pk (pk (pk (pk 0x2C000005 g 22) d 16) a 10) b 4, none⟩
  | .remI g d a b => some ⟨.scalar, pk (pk (pk (pk 0x2C000006 g 22) d 16) a 10) b 4, none⟩
  | .remN g d a b => some ⟨.scalar, pk (pk (pk (pk 0x2C000007 g 22) d 16) a 10) b 4, none⟩
  | .clz g d a => some ⟨.scalar, pk (pk (pk 0x30000000 g 22) d 16) a 10, none⟩
  | .ctz g d a => some ⟨.scalar, pk (pk (pk 0x30000001 g 22) d 16) a 10, none⟩
  | .popc g d a => some ⟨.scalar, pk (pk (pk 0x30000002 g 22) d 16) a 10, none⟩
  | .brev g d a => some ⟨.scalar, pk (pk (pk 0x30000003 g 22) d 16) a 10, none⟩
  | .bswap g d a => some ⟨.scalar, pk (pk (pk 0x30000004 g 22) d 16) a 10, none⟩
  | .bfxI g d a b => some ⟨.scalar, pk (pk (pk (pk 0x34000000 g 22) d 16) a 10) b 4, none⟩
  | .bfxN g d a b => some ⟨.scalar, pk (pk (pk (pk 0x34000001 g 22) d 16) a 10) b 4, none⟩
  | .bfi g d a b => some ⟨.scalar, pk (pk (pk (pk 0x34000002 g 22) d 16) a 10) b 4, none⟩
  | .fshl g d a b => some ⟨.scalar, pk (pk (pk (pk 0x34000003 g 22) d 16) a 10) b 4, none⟩
  | .fshr g d a b => some ⟨.scalar, pk (pk (pk (pk 0x34000004 g 22) d 16) a 10) b 4, none⟩
  | .cmp g p a b c => some ⟨.scalar, pk (pk (pk (pk (pk 0x38000000 g 22) p 18) a 10) b 4) c 0, none⟩
  | .cmpi g p c a imm => some ⟨.scalar, pk (pk (pk (pk (pk 0x3C000000 g 22) p 18) c 14) a 8) imm 0, none⟩
  | .pand g d a b => some ⟨.scalar, pk (pk (pk (pk 0x40000000 g 22) d 18) a 14) b 10, none⟩
  | .por g d a b => some ⟨.scalar, pk (pk (pk (pk 0x40000001 g 22) d 18) a 14) b 10, none⟩
  | .pxor g d a b => some ⟨.scalar, pk (pk (pk (pk 0x40000002 g 22) d 18) a 14) b 10, none⟩
  | .pandn g d a b => some ⟨.scalar, pk (pk (pk (pk 0x40000003 g 22) d 18) a 14) b 10, none⟩
  | .pmov g d a => some ⟨.scalar, pk (pk (pk 0x40000004 g 22) d 18) a 14, none⟩
  | .pset g d => some ⟨.scalar, pk (pk 0x40000005 g 22) d 18, none⟩
  | .pclr g d => some ⟨.scalar, pk (pk 0x40000006 g 22) d 18, none⟩
  | .sel g d a b p => some ⟨.scalar, pk (pk (pk (pk (pk 0x44000000 g 22) d 16) a 10) b 4) p 0, none⟩
  | .faddF64 g d a b => some ⟨.scalar, pk (pk (pk (pk 0x48000000 g 22) d 16) a 10) b 4, none⟩
  | .fsubF64 g d a b => some ⟨.scalar, pk (pk (pk (pk 0x48000001 g 22) d 16) a 10) b 4, none⟩
  | .fmulF64 g d a b => some ⟨.scalar, pk (pk (pk (pk 0x48000002 g 22) d 16) a 10) b 4, none⟩
  | .fdivF64 g d a b => some ⟨.scalar, pk (pk (pk (pk 0x48000003 g 22) d 16) a 10) b 4, none⟩
  | .fsqrtF64 g d a => some ⟨.scalar, pk (pk (pk 0x48000004 g 22) d 16) a 10, none⟩
  | .fminF64 g d a b => some ⟨.scalar, pk (pk (pk (pk 0x48000005 g 22) d 16) a 10) b 4, none⟩
  | .fmaxF64 g d a b => some ⟨.scalar, pk (pk (pk (pk 0x48000006 g 22) d 16) a 10) b 4, none⟩
  | .faddF32 g d a b => some ⟨.scalar, pk (pk (pk (pk 0x48000008 g 22) d 16) a 10) b 4, none⟩
  | .fsubF32 g d a b => some ⟨.scalar, pk (pk (pk (pk 0x48000009 g 22) d 16) a 10) b 4, none⟩
  | .fmulF32 g d a b => some ⟨.scalar, pk (pk (pk (pk 0x4800000A g 22) d 16) a 10) b 4, none⟩
  | .fdivF32 g d a b => some ⟨.scalar, pk (pk (pk (pk 0x4800000B g 22) d 16) a 10) b 4, none⟩
  | .fsqrtF32 g d a => some ⟨.scalar, pk (pk (pk 0x4800000C g 22) d 16) a 10, none⟩
  | .fminF32 g d a b => some ⟨.scalar, pk (pk (pk (pk 0x4800000D g 22) d 16) a 10) b 4, none⟩
  | .fmaxF32 g d a b => some ⟨.scalar, pk (pk (pk (pk 0x4800000E g 22) d 16) a 10) b 4, none⟩
  | .fcvtF64I64 g d a => some ⟨.scalar, pk (pk (pk 0x4C000000 g 22) d 16) a 10, none⟩
  | .fcvtF64N64 g d a => some ⟨.scalar, pk (pk (pk 0x4C000001 g 22) d 16) a 10, none⟩
  | .fcvtI64F64 g d a => some ⟨.scalar, pk (pk (pk 0x4C000002 g 22) d 16) a 10, none⟩
  | .fcvtN64F64 g d a => some ⟨.scalar, pk (pk (pk 0x4C000003 g 22) d 16) a 10, none⟩
  | .fcvtF32F64 g d a => some ⟨.scalar, pk (pk (pk 0x4C000004 g 22) d 16) a 10, none⟩
  | .fcvtF64F32 g d a => some ⟨.scalar, pk (pk (pk 0x4C000005 g 22) d 16) a 10, none⟩
  | .fcvtF32I64 g d a => some ⟨.scalar, pk (pk (pk 0x4C000006 g 22) d 16) a 10, none⟩
  | .fcvtI64F32 g d a => some ⟨.scalar, pk (pk (pk 0x4C000007 g 22) d 16) a 10, none⟩
  | .fcmpF64 g p a b c => some ⟨.scalar, pk (pk (pk (pk (pk 0x50000000 g 22) p 18) a 10) b 4) c 0, none⟩
  | .fcmpF32 g p a b c => some ⟨.scalar, pk (pk (pk (pk (pk 0x50000008 g 22) p 18) a 10) b 4) c 0, none⟩
  | .mfs g d reg => some ⟨.scalar, pk (pk (pk 0x54000000 g 22) d 16) reg 0, none⟩
  | .mts g a reg => some ⟨.scalar, pk (pk (pk 0x58000000 g 22) a 10) reg 0, none⟩
  | _ => none

/-- The words of the control class, from the tables of R58; none for any other instruction. -/
def encodeControl : Instr → Option Encoded
  | .b g disp => some ⟨.control, pk (pk 0x04000000 g 22) disp 0, none⟩
  | .call g disp => some ⟨.control, pk (pk 0x08000000 g 22) disp 0, none⟩
  | .jr g a => some ⟨.control, pk (pk 0x0C000000 g 22) a 16, none⟩
  | .callr g a => some ⟨.control, pk (pk 0x0C000001 g 22) a 16, none⟩
  | .ret g => some ⟨.control, pk 0x0C000002 g 22, none⟩
  | .loop g a o s => some ⟨.control, pk (pk (pk (pk 0x10000000 g 22) a 16) o 4) s 0, none⟩
  | .loopSt g a o s => some ⟨.control, pk (pk (pk (pk 0x14000000 g 22) a 16) o 4) s 0, none⟩
  | .spawn g a b c => some ⟨.control, pk (pk (pk (pk 0x18000000 g 22) a 16) b 10) c 4, none⟩
  | .spawnSib g a b c => some ⟨.control, pk (pk (pk (pk 0x18000001 g 22) a 16) b 10) c 4, none⟩
  | .exit g => some ⟨.control, pk 0x1C000000 g 22, none⟩
  | .yield g => some ⟨.control, pk 0x20000000 g 22, none⟩
  | .wait g a b c n => some ⟨.control, pk (pk (pk (pk (pk 0x24000000 g 22) a 16) b 10) c 4) n 0, none⟩
  | .halloc g d => some ⟨.control, pk (pk 0x28000000 g 22) d 16, none⟩
  | .hfree g a => some ⟨.control, pk (pk 0x28000001 g 22) a 10, none⟩
  | .hjoin g a => some ⟨.control, pk (pk 0x28000002 g 22) a 10, none⟩
  | .hleave g a => some ⟨.control, pk (pk 0x28000003 g 22) a 10, none⟩
  | .hbar g a => some ⟨.control, pk (pk 0x28000004 g 22) a 10, none⟩
  | .hsize g d a => some ⟨.control, pk (pk (pk 0x28000005 g 22) d 16) a 10, none⟩
  | .phaseBegin g => some ⟨.control, pk 0x2C000000 g 22, none⟩
  | .phaseCommit g => some ⟨.control, pk 0x2C000001 g 22, none⟩
  | .phaseAbort g => some ⟨.control, pk 0x2C000002 g 22, none⟩
  | .sys g c => some ⟨.control, pk (pk 0x30000000 g 22) c 0, none⟩
  | .trap g c => some ⟨.control, pk (pk 0x34000000 g 22) c 0, none⟩
  | .brk g c => some ⟨.control, pk (pk 0x38000000 g 22) c 0, none⟩
  | .eret g => some ⟨.control, pk 0x3C000000 g 22, none⟩
  | .tcwait g a b c => some ⟨.control, pk (pk (pk (pk 0x40000000 g 22) a 16) b 10) c 4, none⟩
  | .tlbiPage g a => some ⟨.control, pk (pk 0x44000000 g 22) a 16, none⟩
  | .tlbiRange g a b => some ⟨.control, pk (pk (pk 0x44000001 g 22) a 16) b 10, none⟩
  | .tlbiAll g => some ⟨.control, pk 0x44000002 g 22, none⟩
  | .pattr g a b c => some ⟨.control, pk (pk (pk (pk 0x48000000 g 22) a 16) b 10) c 4, none⟩
  | _ => none

/-- The words of the vector class, from the tables of R59; none for any other instruction. -/
def encodeVector : Instr → Option Encoded
  | .vadd g d a b => some ⟨.vector, pk (pk (pk (pk 0x04000000 g 22) d 17) a 12) b 7, none⟩
  | .vsub g d a b => some ⟨.vector, pk (pk (pk (pk 0x04000001 g 22) d 17) a 12) b 7, none⟩
  | .vmul g d a b => some ⟨.vector, pk (pk (pk (pk 0x04000002 g 22) d 17) a 12) b 7, none⟩
  | .vfma g d a b => some ⟨.vector, pk (pk (pk (pk 0x04000003 g 22) d 17) a 12) b 7, none⟩
  | .vmin g d a b => some ⟨.vector, pk (pk (pk (pk 0x04000004 g 22) d 17) a 12) b 7, none⟩
  | .vmax g d a b => some ⟨.vector, pk (pk (pk (pk 0x04000005 g 22) d 17) a 12) b 7, none⟩
  | .vabs g d a => some ⟨.vector, pk (pk (pk 0x04000006 g 22) d 17) a 12, none⟩
  | .vneg g d a => some ⟨.vector, pk (pk (pk 0x04000007 g 22) d 17) a 12, none⟩
  | .vmov g d a => some ⟨.vector, pk (pk (pk 0x04000008 g 22) d 17) a 12, none⟩
  | .vand g d a b => some ⟨.vector, pk (pk (pk (pk 0x04000009 g 22) d 17) a 12) b 7, none⟩
  | .vor g d a b => some ⟨.vector, pk (pk (pk (pk 0x0400000A g 22) d 17) a 12) b 7, none⟩
  | .vxor g d a b => some ⟨.vector, pk (pk (pk (pk 0x0400000B g 22) d 17) a 12) b 7, none⟩
  | .vshl g d a b => some ⟨.vector, pk (pk (pk (pk 0x0400000C g 22) d 17) a 12) b 7, none⟩
  | .vshr g d a b => some ⟨.vector, pk (pk (pk (pk 0x0400000D g 22) d 17) a 12) b 7, none⟩
  | .vcmpeq g d a b => some ⟨.vector, pk (pk (pk (pk 0x0400000E g 22) d 17) a 12) b 7, none⟩
  | .vcmplt g d a b => some ⟨.vector, pk (pk (pk (pk 0x0400000F g 22) d 17) a 12) b 7, none⟩
  | .vcmple g d a b => some ⟨.vector, pk (pk (pk (pk 0x04000010 g 22) d 17) a 12) b 7, none⟩
  | .vsel g d a b => some ⟨.vector, pk (pk (pk (pk 0x04000011 g 22) d 17) a 12) b 7, none⟩
  | .vcvt g d a f => some ⟨.vector, pk (pk (pk (pk 0x08000000 g 22) d 17) a 12) f 0, none⟩
  | .vmaxe g a => some ⟨.vector, pk (pk 0x0C000000 g 22) a 12, none⟩
  | .vcvqQ3 g d a => some ⟨.vector, pk (pk (pk 0x0C000001 g 22) d 17) a 12, none⟩
  | .vcvqQ5 g d a => some ⟨.vector, pk (pk (pk 0x0C000011 g 22) d 17) a 12, none⟩
  | .vcvqQ8 g d a => some ⟨.vector, pk (pk (pk 0x0C000021 g 22) d 17) a 12, none⟩
  | .vdq g d a => some ⟨.vector, pk (pk (pk 0x0C000002 g 22) d 17) a 12, none⟩
  | .vexp2 g d a => some ⟨.vector, pk (pk (pk 0x10000000 g 22) d 17) a 12, none⟩
  | .vlog2 g d a => some ⟨.vector, pk (pk (pk 0x10000001 g 22) d 17) a 12, none⟩
  | .vrcp g d a => some ⟨.vector, pk (pk (pk 0x10000002 g 22) d 17) a 12, none⟩
  | .vrsqrt g d a => some ⟨.vector, pk (pk (pk 0x10000003 g 22) d 17) a 12, none⟩
  | .vsqrt g d a => some ⟨.vector, pk (pk (pk 0x10000004 g 22) d 17) a 12, none⟩
  | .vtanh g d a => some ⟨.vector, pk (pk (pk 0x10000005 g 22) d 17) a 12, none⟩
  | .vsigm g d a => some ⟨.vector, pk (pk (pk 0x10000006 g 22) d 17) a 12, none⟩
  | .vsilu g d a => some ⟨.vector, pk (pk (pk 0x10000007 g 22) d 17) a 12, none⟩
  | .vgelu g d a => some ⟨.vector, pk (pk (pk 0x10000008 g 22) d 17) a 12, none⟩
  | .verf g d a => some ⟨.vector, pk (pk (pk 0x10000009 g 22) d 17) a 12, none⟩
  | .vgactSilu g d a b => some ⟨.vector, pk (pk (pk (pk 0x10000010 g 22) d 17) a 12) b 7, none⟩
  | .vgactGelu g d a b => some ⟨.vector, pk (pk (pk (pk 0x10000011 g 22) d 17) a 12) b 7, none⟩
  | .vgactSigm g d a b => some ⟨.vector, pk (pk (pk (pk 0x10000012 g 22) d 17) a 12) b 7, none⟩
  | .vgactRelu g d a b => some ⟨.vector, pk (pk (pk (pk 0x10000013 g 22) d 17) a 12) b 7, none⟩
  | .vbas g d a k => some ⟨.vector, pk (pk (pk (pk 0x14000000 g 22) d 17) a 12) k 6, none⟩
  | .vbasSilu g d a k => some ⟨.vector, pk (pk (pk (pk 0x14000004 g 22) d 17) a 12) k 6, none⟩
  | .vbasGelu g d a k => some ⟨.vector, pk (pk (pk (pk 0x14000008 g 22) d 17) a 12) k 6, none⟩
  | .vbasSigm g d a k => some ⟨.vector, pk (pk (pk (pk 0x1400000C g 22) d 17) a 12) k 6, none⟩
  | .vbasRelu g d a k => some ⟨.vector, pk (pk (pk (pk 0x14000010 g 22) d 17) a 12) k 6, none⟩
  | .vrsum g t k => some ⟨.vector, pk (pk (pk 0x18000000 g 22) t 17) k 11, none⟩
  | .vrmax g t k => some ⟨.vector, pk (pk (pk 0x18000001 g 22) t 17) k 11, none⟩
  | .vrmin g t k => some ⟨.vector, pk (pk (pk 0x18000002 g 22) t 17) k 11, none⟩
  | .vrsumsq g t k => some ⟨.vector, pk (pk (pk 0x18000003 g 22) t 17) k 11, none⟩
  | .vcsum g t k => some ⟨.vector, pk (pk (pk 0x18000004 g 22) t 17) k 11, none⟩
  | .vcmax g t k => some ⟨.vector, pk (pk (pk 0x18000005 g 22) t 17) k 11, none⟩
  | .vxpose g d a => some ⟨.vector, pk (pk (pk 0x1C000000 g 22) d 17) a 12, none⟩
  | .vxrot g d a n => some ⟨.vector, pk (pk (pk (pk 0x1C000001 g 22) d 17) a 12) n 7, none⟩
  | .vxbrow g d a n => some ⟨.vector, pk (pk (pk (pk 0x1C000002 g 22) d 17) a 12) n 7, none⟩
  | .vperm g d a b => some ⟨.vector, pk (pk (pk (pk 0x1C000003 g 22) d 17) a 12) b 7, none⟩
  | .vbcast g s t => some ⟨.vector, pk (pk (pk 0x20000000 g 22) s 16) t 11, none⟩
  | .vbrow g t k => some ⟨.vector, pk (pk (pk 0x20000001 g 22) t 17) k 11, none⟩
  | .vbcol g t k => some ⟨.vector, pk (pk (pk 0x20000002 g 22) t 17) k 11, none⟩
  | .kadd g d a b => some ⟨.vector, pk (pk (pk (pk 0x24000000 g 22) d 16) a 10) b 4, none⟩
  | .kmul g d a b => some ⟨.vector, pk (pk (pk (pk 0x24000001 g 22) d 16) a 10) b 4, none⟩
  | .kmax g d a b => some ⟨.vector, pk (pk (pk (pk 0x24000002 g 22) d 16) a 10) b 4, none⟩
  | .krcp g d a => some ⟨.vector, pk (pk (pk 0x24000003 g 22) d 16) a 10, none⟩
  | .krsqrt g d a => some ⟨.vector, pk (pk (pk 0x24000004 g 22) d 16) a 10, none⟩
  | .kneg g d a => some ⟨.vector, pk (pk (pk 0x24000005 g 22) d 16) a 10, none⟩
  | .kmov g d a => some ⟨.vector, pk (pk (pk 0x24000006 g 22) d 16) a 10, none⟩
  | .klse g d a b => some ⟨.vector, pk (pk (pk (pk 0x24000007 g 22) d 16) a 10) b 4, none⟩
  | .kbind g t k s => some ⟨.vector, pk (pk (pk (pk 0x28000000 g 22) t 17) k 11) s 7, none⟩
  | .kunbind g t s => some ⟨.vector, pk (pk (pk 0x28000001 g 22) t 17) s 7, none⟩
  | .ksetRow g t k n => some ⟨.vector, pk (pk (pk (pk 0x28000002 g 22) t 17) k 11) n 7, none⟩
  | .ksetCol g t k n => some ⟨.vector, pk (pk (pk (pk 0x28000012 g 22) t 17) k 11) n 7, none⟩
  | .tres g d => some ⟨.vector, pk (pk 0x2C000000 g 22) d 17, none⟩
  | .tresPart g d s => some ⟨.vector, pk (pk (pk 0x2C000001 g 22) d 17) s 7, none⟩
  | .tstat g d t => some ⟨.vector, pk (pk (pk 0x30000000 g 22) d 16) t 11, none⟩
  | .kpend g k => some ⟨.vector, pk (pk 0x34000000 g 22) k 11, none⟩
  | .kwait g k => some ⟨.vector, pk (pk 0x34000001 g 22) k 11, none⟩
  | .vtag g d a f => some ⟨.vector, pk (pk (pk (pk 0x38000000 g 22) d 17) a 12) f 0, none⟩
  | .vzero g d => some ⟨.vector, pk (pk 0x3C000000 g 22) d 17, none⟩
  | _ => none

/-- The words of the matrix class, from the tables of R60; none for any other instruction. -/
def encodeMatrix : Instr → Option Encoded
  | .mma g d a b => some ⟨.matrix, pk (pk (pk (pk 0x04000000 g 22) d 19) a 13) b 7, none⟩
  | .mmz g d a b => some ⟨.matrix, pk (pk (pk (pk 0x04000001 g 22) d 19) a 13) b 7, none⟩
  | .mmaTap g d a b => some ⟨.matrix, pk (pk (pk (pk 0x04000002 g 22) d 19) a 13) b 7, none⟩
  | .mmzTap g d a b => some ⟨.matrix, pk (pk (pk (pk 0x04000003 g 22) d 19) a 13) b 7, none⟩
  | .mmaBt g d a b => some ⟨.matrix, pk (pk (pk (pk 0x04000004 g 22) d 19) a 13) b 7, none⟩
  | .mmzBt g d a b => some ⟨.matrix, pk (pk (pk (pk 0x04000005 g 22) d 19) a 13) b 7, none⟩
  | .mmaTapBt g d a b => some ⟨.matrix, pk (pk (pk (pk 0x04000006 g 22) d 19) a 13) b 7, none⟩
  | .mmzTapBt g d a b => some ⟨.matrix, pk (pk (pk (pk 0x04000007 g 22) d 19) a 13) b 7, none⟩
  | .mres g d => some ⟨.matrix, pk (pk 0x08000000 g 22) d 19, none⟩
  | .msacc g d s k => some ⟨.matrix, pk (pk (pk (pk 0x08000001 g 22) d 19) s 16) k 10, none⟩
  | .mrd g a t f => some ⟨.matrix, pk (pk (pk (pk 0x0C000000 g 22) a 19) t 14) f 10, none⟩
  | .mwr g a t f => some ⟨.matrix, pk (pk (pk (pk 0x10000000 g 22) a 19) t 14) f 10, none⟩
  | .mzero g d => some ⟨.matrix, pk (pk 0x14000000 g 22) d 19, none⟩
  | .mdrain g => some ⟨.matrix, pk 0x18000000 g 22, none⟩
  | .mfmt g a b => some ⟨.matrix, pk (pk (pk 0x1C000000 g 22) a 18) b 14, none⟩
  | .oclaim g s => some ⟨.matrix, pk (pk 0x20000000 g 22) s 16, none⟩
  | .orel g o => some ⟨.matrix, pk (pk 0x20000001 g 22) o 10, none⟩
  | .mofs g s o => some ⟨.matrix, pk (pk (pk 0x24000000 g 22) s 16) o 10, none⟩
  | _ => none

/-- The words of the copy class, from the tables of R61; none for any other instruction. -/
def encodeCopy : Instr → Option Encoded
  | .ldI8 g d a imm => some ⟨.copy, pk (pk (pk (pk 0x04000000 g 22) d 16) a 10) imm 0, none⟩
  | .ldN8 g d a imm => some ⟨.copy, pk (pk (pk (pk 0x08000000 g 22) d 16) a 10) imm 0, none⟩
  | .ldI16 g d a imm => some ⟨.copy, pk (pk (pk (pk 0x0C000000 g 22) d 16) a 10) imm 0, none⟩
  | .ldN16 g d a imm => some ⟨.copy, pk (pk (pk (pk 0x10000000 g 22) d 16) a 10) imm 0, none⟩
  | .ldI32 g d a imm => some ⟨.copy, pk (pk (pk (pk 0x14000000 g 22) d 16) a 10) imm 0, none⟩
  | .ldN32 g d a imm => some ⟨.copy, pk (pk (pk (pk 0x18000000 g 22) d 16) a 10) imm 0, none⟩
  | .ld64 g d a imm => some ⟨.copy, pk (pk (pk (pk 0x1C000000 g 22) d 16) a 10) imm 0, none⟩
  | .st8 g s a imm => some ⟨.copy, pk (pk (pk (pk 0x20000000 g 22) s 16) a 10) imm 0, none⟩
  | .st16 g s a imm => some ⟨.copy, pk (pk (pk (pk 0x24000000 g 22) s 16) a 10) imm 0, none⟩
  | .st32 g s a imm => some ⟨.copy, pk (pk (pk (pk 0x28000000 g 22) s 16) a 10) imm 0, none⟩
  | .st64 g s a imm => some ⟨.copy, pk (pk (pk (pk 0x2C000000 g 22) s 16) a 10) imm 0, none⟩
  | .ldAcq32 g d a s => some ⟨.copy, pk (pk (pk (pk 0x30000000 g 22) d 16) a 10) s 0, none⟩
  | .ldAcq64 g d a s => some ⟨.copy, pk (pk (pk (pk 0x34000000 g 22) d 16) a 10) s 0, none⟩
  | .stRel32 g d a s => some ⟨.copy, pk (pk (pk (pk 0x38000000 g 22) d 16) a 10) s 0, none⟩
  | .stRel64 g d a s => some ⟨.copy, pk (pk (pk (pk 0x3C000000 g 22) d 16) a 10) s 0, none⟩
  | .ldSc g d a w => some ⟨.copy, pk (pk (pk (pk 0x40000003 g 22) d 16) a 10) w 3, none⟩
  | .stSc g d a w => some ⟨.copy, pk (pk (pk (pk 0x44000003 g 22) d 16) a 10) w 3, none⟩
  | .amoSc g d a b w => some ⟨.copy, pk (pk (pk (pk (pk 0x48000003 g 22) d 16) a 10) b 4) w 3, none⟩
  | .tld g d a b f => some ⟨.copy, pk (pk (pk (pk (pk 0x4C000000 g 22) d 16) a 10) b 4) f 0, none⟩
  | .tldRaw g d a b => some ⟨.copy, pk (pk (pk (pk 0x4C000000 g 22) d 16) a 10) b 4, none⟩
  | .tst g d a b => some ⟨.copy, pk (pk (pk (pk 0x50000000 g 22) d 16) a 10) b 4, none⟩
  | .tstRaw g d a b => some ⟨.copy, pk (pk (pk (pk 0x54000000 g 22) d 16) a 10) b 4, none⟩
  | .st128 g s a imm => some ⟨.copy, pk (pk (pk (pk 0x58000000 g 22) s 16) a 10) imm 0, none⟩
  | .oload g d a b f => some ⟨.copy, pk (pk (pk (pk (pk 0x5C000000 g 22) d 16) a 10) b 4) f 0, none⟩
  | .kld g k a imm => some ⟨.copy, pk (pk (pk (pk 0x60000000 g 22) k 16) a 10) imm 0, none⟩
  | .kst g k a imm => some ⟨.copy, pk (pk (pk (pk 0x64000000 g 22) k 16) a 10) imm 0, none⟩
  | .amoAdd g d a b w s => some ⟨.copy, pk (pk (pk (pk (pk (pk 0x68000000 g 22) d 16) a 10) b 4) w 3) s 0, none⟩
  | .amoAnd g d a b w s => some ⟨.copy, pk (pk (pk (pk (pk (pk 0x6C000000 g 22) d 16) a 10) b 4) w 3) s 0, none⟩
  | .amoOr g d a b w s => some ⟨.copy, pk (pk (pk (pk (pk (pk 0x70000000 g 22) d 16) a 10) b 4) w 3) s 0, none⟩
  | .amoXor g d a b w s => some ⟨.copy, pk (pk (pk (pk (pk (pk 0x74000000 g 22) d 16) a 10) b 4) w 3) s 0, none⟩
  | .amoMinI g d a b w s => some ⟨.copy, pk (pk (pk (pk (pk (pk 0x78000000 g 22) d 16) a 10) b 4) w 3) s 0, none⟩
  | .amoMinN g d a b w s => some ⟨.copy, pk (pk (pk (pk (pk (pk 0x7C000000 g 22) d 16) a 10) b 4) w 3) s 0, none⟩
  | .amoMaxI g d a b w s => some ⟨.copy, pk (pk (pk (pk (pk (pk 0x80000000 g 22) d 16) a 10) b 4) w 3) s 0, none⟩
  | .amoMaxN g d a b w s => some ⟨.copy, pk (pk (pk (pk (pk (pk 0x84000000 g 22) d 16) a 10) b 4) w 3) s 0, none⟩
  | .amoSwap g d a b w s => some ⟨.copy, pk (pk (pk (pk (pk (pk 0x88000000 g 22) d 16) a 10) b 4) w 3) s 0, none⟩
  | .amoFaddF32 g d a b s => some ⟨.copy, pk (pk (pk (pk (pk 0x8C000008 g 22) d 16) a 10) b 4) s 0, none⟩
  | .cas g d a b w s => some ⟨.copy, pk (pk (pk (pk (pk (pk 0x90000000 g 22) d 16) a 10) b 4) w 3) s 0, none⟩
  | .cas128 g d a b s => some ⟨.copy, pk (pk (pk (pk (pk 0x94000000 g 22) d 16) a 10) b 4) s 0, none⟩
  | .cp g a n => some ⟨.copy, pk (pk (pk 0x98000000 g 22) a 10) n 0, none⟩
  | .cpq g a b => some ⟨.copy, pk (pk (pk 0x9C000000 g 22) a 10) b 4, none⟩
  | .drainCp g n => some ⟨.copy, pk (pk 0xA0000000 g 22) n 4, none⟩
  | .drainFar g => some ⟨.copy, pk 0xA0000001 g 22, none⟩
  | .drainAll g => some ⟨.copy, pk 0xA0000002 g 22, none⟩
  | .fenceAcq g s => some ⟨.copy, pk (pk 0xA4000000 g 22) s 0, none⟩
  | .fenceRel g s => some ⟨.copy, pk (pk 0xA4000004 g 22) s 0, none⟩
  | .fenceFull g s => some ⟨.copy, pk (pk 0xA4000008 g 22) s 0, none⟩
  | .fenceAcqPool g => some ⟨.copy, pk 0xA400000F g 22, none⟩
  | .fenceRelPool g => some ⟨.copy, pk 0xA400001F g 22, none⟩
  | .fenceFullPool g => some ⟨.copy, pk 0xA400002F g 22, none⟩
  | .smap g n a b => some ⟨.copy, pk (pk (pk (pk 0xA8000000 g 22) n 16) a 10) b 4, none⟩
  | .sunmap g n => some ⟨.copy, pk (pk 0xAC000000 g 22) n 16, none⟩
  | .swb g a b => some ⟨.copy, pk (pk (pk 0xB0000000 g 22) a 10) b 4, none⟩
  | .sinv g a b => some ⟨.copy, pk (pk (pk 0xB4000000 g 22) a 10) b 4, none⟩
  | .pf g a imm => some ⟨.copy, pk (pk (pk 0xB8000000 g 22) a 10) imm 0, none⟩
  | .pcommit g a => some ⟨.copy, pk (pk 0xBC000000 g 22) a 10, none⟩
  | .pfree g a => some ⟨.copy, pk (pk 0xC0000000 g 22) a 10, none⟩
  | .pin g a => some ⟨.copy, pk (pk 0xC4000000 g 22) a 10, none⟩
  | .unpin g a => some ⟨.copy, pk (pk 0xC8000000 g 22) a 10, none⟩
  | .stTc g d a b w => some ⟨.copy, pk (pk (pk (pk (pk 0xCC000000 g 22) d 16) a 10) b 4) w 3, none⟩
  | .tcadd g a b => some ⟨.copy, pk (pk (pk 0xD0000000 g 22) a 10) b 4, none⟩
  | .tpost g d a => some ⟨.copy, pk (pk (pk 0xD4000000 g 22) d 16) a 10, none⟩
  | .tcset g d a => some ⟨.copy, pk (pk (pk 0xD8000000 g 22) d 16) a 10, none⟩
  | .tcread g d a => some ⟨.copy, pk (pk (pk 0xDC000000 g 22) d 16) a 10, none⟩
  | .tcancel g a => some ⟨.copy, pk (pk 0xE0000000 g 22) a 10, none⟩
  | .mcst g d a b w => some ⟨.copy, pk (pk (pk (pk (pk 0xE4000004 g 22) d 16) a 10) b 4) w 3, none⟩
  | .mcstSeq g d a b w => some ⟨.copy, pk (pk (pk (pk (pk 0xE8000004 g 22) d 16) a 10) b 4) w 3, none⟩
  | _ => none

/-- The encoding of a syllable; none for an event, which has no word. -/
def encode (i : Instr) : Option Encoded :=
  match encodeScalar i with
  | some e => some e
  | none =>
    match encodeControl i with
    | some e => some e
    | none =>
      match encodeVector i with
      | some e => some e
      | none =>
        match encodeMatrix i with
        | some e => some e
        | none => encodeCopy i

/-- The slot class of a syllable; none for an event. -/
def slotClassOf (i : Instr) : Option SlotClass := (encode i).map (·.cls)

/-- The word as the syllable of each slot class, the sparsest opcode map first. A word does not name its slot class, and the
classes share their opcode numbers (R52), so the order is the model's choice: it gives the most rows of the opcode table their
own instruction (DESIGN CHOICE, log 13). -/
noncomputable def tableReadings (w : Nat) : List (Except DecodeError Instr) :=
  [decodeMatrix w, decodeVector w, decodeScalar w none, decodeCopy w, decodeControl w]

/-- The instruction that a word of the opcode table reads as: the first reading that its class's map assigns. -/
noncomputable def decodeTableWord (nbits w : Nat) : Option Instr :=
  if nbits = 32 ∧ w < 2 ^ 32 then
    (tableReadings w).findSome? fun r => match r with
      | .ok i => some i
      | .error _ => none
  else none

end Sys2Proof
end

