-- ==== Sys2Proof/Machine/State.lean ====
section
/-! DEFINITION. The state of one NA-1160 module as plain data, its reset value, and the two ways a step can stop. -/

namespace Sys2Proof.Machine

/-- A sparse map from numbers to values in one canonical form: keys strictly rising, no entry equal to the map's default. -/
abbrev SMap (α : Type) := List (Nat × α)

/-- Bytes of memory by address key (see `Place.key`). -/
abbrev Memory := List Host.Cell

/-- The four factor codes of a tile, an operand slot or (RSC, CSC only) an accumulator (R153). -/
structure Slots where
  rsh : BitVec 7
  rsc : BitVec 7
  csh : BitVec 7
  csc : BitVec 7
  deriving DecidableEq, Repr

/-- All four slots at 0x7F, identity (R153). -/
def Slots.identity : Slots := ⟨0x7F, 0x7F, 0x7F, 0x7F⟩

/-- A tile register (R153): tag, slots, OVP and 256 containers, container (i, j) at key 16 i + j, 0 where unlisted. -/
structure Tile where
  tag : BitVec 4
  slots : Slots
  ovp : Bool
  data : SMap (BitVec 32)
  deriving DecidableEq, Repr

/-- A tile at task start (R91): tag none, identity, zero. -/
def Tile.initial : Tile := ⟨0, Slots.identity, false, []⟩

/-- READY, or PENDING with its producer (FN order of VRED 0 to 5, 6 for `kpend`) and the bundle time of its issue (R157, R264). -/
inductive RimState
  | ready
  | pending (producer bundleTime : Nat)
  deriving DecidableEq, Repr

/-- A rim register (R157): 16 binary32 values, 0 where unlisted. -/
structure Rim where
  state : RimState
  vals : SMap (BitVec 32)
  deriving DecidableEq, Repr

/-- A rim at task start (R91). -/
def Rim.initial : Rim := ⟨.ready, []⟩

/-- An accumulator (R201): element (i, j) at key 16 i + j; `bad`: elements with an uncorrectable error (R216). -/
structure Acc where
  rsc : BitVec 7
  csc : BitVec 7
  clr : Bool
  vals : SMap (BitVec 128)
  bad : List Nat
  deriving DecidableEq, Repr

/-- An accumulator at task start (R91, R201). -/
def Acc.initial : Acc := ⟨0x7F, 0x7F, true, [], []⟩

/-- A physical operand slot (R194, R197); `bad`: 32-byte sectors with an uncorrectable error (R216). -/
structure OSlot where
  claimed : Bool
  fmt : BitVec 4
  codes : Slots
  data : SMap Byte
  bad : List Nat
  deriving DecidableEq, Repr

/-- A free operand slot. -/
def OSlot.initial : OSlot := ⟨false, 0, Slots.identity, [], []⟩

/-- What a syllable names as a source or a destination (R54). -/
inductive Dest
  | sreg (n : Nat) | pred (n : Nat) | tile (n : Nat) | rim (n : Nat) | acc (n : Nat) | ofs (n : Nat) | sys (n : Nat)
  | latch
  deriving DecidableEq, Repr

/-- How an access chooses its ordering stream, as it stands when the access issues (R361): one stream, or one by the target's low bits. -/
inductive Lane
  | fixed (k : Nat)
  | byTarget (d : Nat)
  deriving DecidableEq, Repr

/-- The stream of a target module (R361). -/
def Lane.stream (l : Lane) (target : Nat) : Nat :=
  match l with
  | .fixed k => k
  | .byTarget d => Nat.xor (target % 16) d

/-- What an exposed result writes when it lands (R94, R155); `storeRaise`: a store of `st.tc` that raises its counter once it has
performed (R392). -/
inductive Landing
  | tile (n : Nat) (t : Tile)
  | slotCode (n sel : Nat) (code : BitVec 7)
  | scalar (d : BitVec 6) (v : Word)
  | rim (k : Nat) (vals : SMap (BitVec 32))
  | latch (rows : List Byte)
  | quant (nan : Bool) (largest : BitVec 32) (sat : Bool)
  | store (va : Word) (bytes : List Byte)
  | storeRaise (va : Word) (bytes : List Byte) (name : Word) (lane : Lane)
  deriving DecidableEq, Repr

/-- An exposed operation in flight (R94): its landing bundle time, what it lands, and what is judged at its landing (R23, R170).
`latched`: it came out of the snapshot buffer and still counts there (R110). -/
structure Exposed where
  due : Nat
  pc : Word
  slot : Nat
  forced : Bool
  ovpHit : Bool
  flags : BitVec 5
  latched : Bool
  results : List Landing
  deriving DecidableEq, Repr

/-- An interlocked access as data: it is performed at issue, again after `eret` from a replay entry (R108, R110), or when the
reply of another module arrives (R364). Operands are the values read at the bundle's read point; `base` of a `wait` for a change is
the word's value at issue, once it has been read (R141); `got` of a tile or slot load holds the pieces read so far; `turning` says
that a `pattr` has begun its next page's transition (R317). -/
inductive Access
  | load (va : Word) (size : Nat) (signed : Bool) (d : BitVec 6)
  | store (va : Word) (bytes : List Byte)
  | amo (op : Nat) (narrow : Bool) (va operand : Word) (d : BitVec 6)
  | cas (narrow : Bool) (va expected new : Word) (d : BitVec 6)
  | cas128 (va expLo expHi newLo newHi : Word) (d : BitVec 6)
  | loadTile (t : Nat) (fmt : BitVec 4) (rows : List Word) (slots : Slots) (ovp : Bool) (got : List (List Byte))
  | stateWord (va : Word)
  | storeRows (rows : List (Word × List Byte))
  | loadRim (k : Nat) (va : Word)
  | pageOp (op : Nat) (va : Word)
  | waitWord (va : Word) (cond : Nat) (value timeout : Word) (base : Option Word) (park : Bool)
  | counterAdd (name amount : Word)
  | counterRead (name : Word) (d : BitVec 6)
  | counterWait (name value timeout : Word) (park : Bool)
  | storeThenRaise (va : Word) (bytes : List Byte) (name : Word)
  | cpq (descriptor packet : Word) (log : List (List Byte))
  | multicast (group offset : Word) (narrow : Bool) (value : Word) (sequenced : Bool)
  | memberStore (va : Word) (bytes : List Byte)
  | scLoad (va : Word) (narrow : Bool) (d : BitVec 6)
  | scStore (va : Word) (narrow : Bool) (value : Word)
  | scAdd (va : Word) (narrow : Bool) (operand : Word) (d : BitVec 6)
  | writeBack (va len : Word)
  | invalidate (va len : Word)
  | unmap (window : Nat)
  | remap (window : Nat) (smap : Word)
  | readPacket (va : Word) (channel : Nat)
  | readDescriptor (va : Word) (d : BitVec 6)
  | loadSlot (slot phys : Nat) (fmt : BitVec 4) (va descriptor : Word) (got : List (List Byte))
  | setAttribute (va len code : Word) (turning : Bool)
  | cancel (handle : Word)
  | windowFill (line : Nat) (va : Word) (upgrade : Bool)
  deriving DecidableEq, Repr

/-- A replay entry (R108, R110): the access, the slot that issued it, its ordering streams (R361, R368) and its place in the order of
issue. -/
structure Replay where
  slot : Nat
  lane : Lane
  order : Nat
  access : Access
  deriving DecidableEq, Repr

/-- A completion-class trap that has been detected (R107): reported at the next bundle boundary. `replay`: the access that becomes
a replay entry, and the requests behind it that ended unperformed with it (R368, R369). -/
structure Detected where
  cause : BitVec 8
  detail : BitVec 16
  slot : Nat
  va : Word
  replay : List Replay
  deriving DecidableEq, Repr

/-- A trap that has been chosen and waits for the frame's interlocked operations before its entry (R108). `entry`: the slot
field holds a bundle-table index (R47). `deferred`: completion class. `resume`: what TRAPPC takes. -/
structure TrapRec where
  cause : BitVec 8
  detail : BitVec 16
  slot : Nat
  entry : Bool
  deferred : Bool
  va : Word
  resume : Word
  deriving DecidableEq, Repr

/-- An interlocked operation that has issued and not completed (R96). `old`: what the rim held before a reduction issued (R182). -/
inductive OwedKind
  | reduction (k : Nat) (vals old : SMap (BitVec 32)) (flags : BitVec 5) (forced ovpHit : Bool)
  | access (a : Access) (stream : Nat) (target : Nat)
  deriving DecidableEq, Repr

/-- An owed operation with its identity, its bundle, whether its stream holds it at the source (R367), and whether a wait that it
goes on to may park: its bundle was an effective safe point (R101); `lane`: its ordering streams (R361); `nack`: TASKCTL.NACK as it
issued (R369). -/
structure Owed where
  id : Nat
  pc : Word
  slot : Nat
  held : Bool
  park : Bool
  lane : Lane
  nack : Bool
  kind : OwedKind
  deriving DecidableEq, Repr

/-- What a task waits for after its bundle issued, or before it (R101, R102, R241, R336); `lane`: its ordering streams. Of a wait for a
change (R141) `value` is the word's value at issue. -/
inductive WaitKind
  | word (va : Word) (cond : Nat) (value timeout : Word) (lane : Lane)
  | counter (name value timeout : Word) (lane : Lane)
  | hoop (hoop phase : Nat)
  | rim (k : Nat)
  | slotWheel (ops : List Replay)
  | reruns
  | reply (id : Nat)
  deriving DecidableEq, Repr

/-- A wait in progress: its deadline in package ticks (none: never), the tick and bundle time it began, and whether it parks. -/
structure Wait where
  kind : WaitKind
  deadline : Option Nat
  since : Nat
  slot : Nat
  pc : Word
  park : Bool
  deriving DecidableEq, Repr

/-- The phase checkpoint (R145). `awaits`: registers and predicates that slots of the `phase.begin` bundle still owe. -/
structure Checkpoint where
  awaits : List Dest
  sregs : SMap Word
  preds : BitVec 16
  pc : Word
  repLeft : Word
  deriving DecidableEq, Repr

/-- A `cp` held in an open phase (R240): its 64 bytes, its channel and the packet's address. -/
structure HeldCopy where
  packet : List Byte
  channel : Nat
  va : Word
  deriving DecidableEq, Repr

/-- One present syllable of a decoded bundle: its slot number 1 to 7 and its instruction. -/
structure Syllable where
  slot : Nat
  instr : Instr
  deriving DecidableEq, Repr

/-- A decoded full bundle (R43). -/
structure Bundle where
  skip : Nat
  sp : Bool
  syllables : List Syllable
  deriving DecidableEq, Repr

/-- What the sequencer has fetched and decoded at the PC (R41, R55): nothing yet, a full bundle, a bundle issued by a
reference (with the table entry), or a trap of the fetch or the decode. -/
inductive Latch
  | empty
  | full (b : Bundle)
  | reference (entry count : Nat) (last : Bool) (b : Bundle)
  | trap (cause : BitVec 8) (info : BitVec 10) (detail : BitVec 16) (va : Word)
  deriving DecidableEq, Repr

/-- Where a bundle's control slot sends the task once the bundle has issued: on, to a branch target (R133), to its end
(R139), back from a trap (R147), or behind the other frames (R140). -/
inductive Flow
  | next
  | branch (target : Word)
  | exit
  | eret
  | yield
  deriving DecidableEq, Repr

/-- What a re-execution rewrites (R236, R237): a scalar register, a predicate, a tile's containers, a rim's values. -/
inductive RegValue
  | sreg (n : Nat) (v : Word)
  | pred (n : Nat) (v : Bool)
  | tile (n : Nat) (data : SMap (BitVec 32))
  | rim (k : Nat) (vals : SMap (BitVec 32))
  deriving DecidableEq, Repr

/-- A result of a register-to-register syllable in the frame's replay queue (R236): the syllable's bundle position and slot, the
destination with the result that a re-execution on unchanged sources gives again, the versions of what it read, and whether its
destination still holds it: another write takes that away. -/
structure ReplayResult where
  pc : Word
  slot : Nat
  value : RegValue
  sources : List (Dest × Nat)
  current : Bool
  deriving DecidableEq, Repr

/-- A register-to-register syllable whose result has not landed yet: what it read, for its replay entry (R236). -/
structure IssuedRead where
  pc : Word
  slot : Nat
  sources : List (Dest × Nat)
  deriving DecidableEq, Repr

/-- The state of a task (R89), with what the core keeps for it while it is resident. -/
structure Task where
  pc : Word
  repLeft : Word
  skip : Nat
  sregs : SMap Word
  preds : BitVec 16
  tiles : SMap Tile
  rims : SMap Rim
  accs : SMap Acc
  omap : SMap Nat
  ofs : SMap Word
  ofstep : SMap Word
  fpcsr : Word
  amax : Word
  slatch : SMap Byte
  frcnt : Word
  mfmt : Word
  discards : Word
  bt : Word
  weight : Nat
  taskId : BitVec 32
  launchId : BitVec 32
  tbase : Nat
  kbase : Nat
  abase : Nat
  quota : BitVec 6
  prebound : Word
  sinceSp : Nat
  taskctl : Word
  streamsel : Word
  phasectl : Word
  checkpoint : Option Checkpoint
  heldCopies : List HeldCopy
  sfcm : Word
  trapcause : Word
  trappc : Word
  trapva : Word
  trapinfo : Word
  tvec : Word
  snapExposed : List Exposed
  snapReplay : List Replay
  snapPending : List Detected
  snapSkip : Nat
  supervisor : Bool
  replays : List Replay
  inflight : List Exposed
  owed : List Owed
  detected : List Detected
  cancel : Option Word
  waits : List Wait
  rimWait : Option Nat
  latch : Latch
  hoops : List Nat
  initRegs : SMap Word
  prio : Nat
  effClass : Nat
  place : Nat
  readySince : Nat
  aged : Nat
  placedAt : Nat
  spad : Nat
  regionOff : Nat
  btabVa : Word
  quantum : Nat
  flow : Flow
  trapping : Option TrapRec
  stateWord : Option (Word × Word)
  atSafe : Bool
  preemptReq : Bool
  pendingExit : Option Bool
  versions : SMap Nat
  replayQueue : List ReplayResult
  issuedReads : List IssuedRead
  parityBad : List Dest
  snapBad : Bool
  deriving DecidableEq, Repr

/-- A task at its start (R91), with what a launch sets still at zero. -/
def Task.fresh : Task where
  pc := 0
  repLeft := 0
  skip := 0
  sregs := []
  preds := 1
  tiles := []
  rims := []
  accs := []
  omap := []
  ofs := []
  ofstep := []
  fpcsr := 0
  amax := 0
  slatch := []
  frcnt := 0
  mfmt := 0x111
  discards := 0
  bt := 0
  weight := 0
  taskId := 0
  launchId := 0
  tbase := 0
  kbase := 0
  abase := 0
  quota := 0
  prebound := 0x10000
  sinceSp := 0
  taskctl := 0
  streamsel := 0
  phasectl := 0
  checkpoint := none
  heldCopies := []
  sfcm := 0
  trapcause := 0
  trappc := 0
  trapva := 0
  trapinfo := 0
  tvec := 0
  snapExposed := []
  snapReplay := []
  snapPending := []
  snapSkip := 0
  supervisor := false
  replays := []
  inflight := []
  owed := []
  detected := []
  cancel := none
  waits := []
  rimWait := none
  latch := .empty
  hoops := []
  initRegs := []
  prio := 0
  effClass := 0
  place := 0
  readySince := 0
  aged := 0
  placedAt := 0
  spad := 0
  regionOff := 0
  btabVa := 0
  quantum := 0
  flow := .next
  trapping := none
  stateWord := none
  atSafe := true
  preemptReq := false
  pendingExit := none
  versions := []
  replayQueue := []
  issuedReads := []
  parityBad := []
  snapBad := false

/-- A valid stash window line (R231): dirty sectors, exclusive ownership, the page attribute recorded at the fill, and the
memory key of its home (for a line of another module, 2^60 plus its address). -/
structure Line where
  dirty : BitVec 4
  exclusive : Bool
  attr : Nat
  home : Nat
  deriving DecidableEq, Repr

/-- The elements of a copy that lie in one destination sector, in one source sector and in one row (R275, R276, R283): the first
one's place in the copy's order, where they come from, or the fill bytes. -/
structure CopyPart where
  first : Nat
  src : Option Word
  dst : Word
  n : Nat
  fill : List Byte
  deriving DecidableEq, Repr

/-- A read or a write of a copy that may fault before the fault that was met: its place in the copy's order (R282). -/
structure CopyProbe where
  key : Nat
  writes : Bool
  va : Word
  deriving DecidableEq, Repr

/-- How far a copy is: not started, reading its extent list, moving its payload, looking for the first fault after one was met,
settling the sectors behind it (R282), writing its words (R280). -/
inductive CopyStage
  | fresh | list | moving
  | judging (cause : BitVec 8) (left : List CopyProbe)
  | settling | words
  deriving DecidableEq, Repr

/-- A copy on a stream (R272, R277): its packet, the core that issued it by `cp`, whether it is a rerun (R241), the posted
operation it belongs to; the extent list as far as it is read; the destination sectors still to do, the source sectors read so
far, the newest first (R283), whether the request it waits for writes; the request to another module that it waits for; what it
reports, and the address of the access that failed (R386). -/
structure CopyJob where
  packet : List Byte
  issuer : Option Nat
  rerun : Bool
  posted : Option Nat
  stage : CopyStage
  extents : List Byte
  todo : List (List CopyPart)
  cache : List (Nat × List Byte)
  storing : Bool
  awaiting : Option Nat
  answer : Option Reply
  failed : Bool
  err : Nat
  errVa : Word
  clipped : Nat
  deriving DecidableEq, Repr

/-- A stash fill under way (R231): the scratchpad line, whether it is an upgrade, whether a frozen core waits for it, the owed
request that it is where its home is on another module (R361), and the fault it ended in, if it did. -/
structure Fill where
  line : Nat
  upgrade : Bool
  demand : Bool
  request : Option Nat
  failed : Option (BitVec 8 × BitVec 16)
  deriving DecidableEq, Repr

/-- A bundle-table image on its way into a core's table (R48, R258): its address, the entries read so far, the request to another
module that it waits for, and how it ended: read, or found unreadable. -/
structure ImageLoad where
  va : Word
  next : Nat
  got : SMap (BitVec 256)
  awaiting : Option Nat
  answer : Option Reply
  ended : Option Bool
  deriving DecidableEq, Repr

/-- A request about a window line that its home on another module has still to acknowledge (R228, R233, R331): the sectors that it
writes back, or that the line is held no more; the fault it ended in, if it did. -/
structure Sent where
  line : Nat
  va : Word
  id : Nat
  mask : BitVec 4
  release : Bool
  failed : Option (BitVec 8 × BitVec 16)
  deriving DecidableEq, Repr

/-- What belongs to a core: frames, bundle table, windows, operand memory, channels. The running frame is `State.task`.
`passBreak`: where the debugger has resumed the core, by frame position, PC and bundle time: it passes the breakpoint there.
`packetChannel`: the channel on which a packet of the scratchpad was last issued (R241). `btabBad`: table entries with a parity
error (R113).
`eccBad`: scratchpad sectors with an uncorrectable error, which lasts (R235); `eccOnce`: those whose next read reports one (R88).
`pass`: scratchpad lines of a window over another module whose page the home does not let the window keep (R316). -/
structure Core where
  frames : SMap Task
  run : Option Nat
  lastRun : Nat
  stopped : Bool
  stepsLeft : Option Nat
  passBreak : Option (Nat × Word × Word)
  btab : SMap (BitVec 256)
  btabBad : List Nat
  btabVa : Word
  image : Option ImageLoad
  smap : SMap Word
  winLaunch : SMap (BitVec 32)
  lines : SMap Line
  fills : List Fill
  sent : List Sent
  eccBad : List Nat
  eccOnce : List Nat
  oslots : SMap OSlot
  pass : List Nat
  slotmap : Word
  channels : SMap (List CopyJob)
  packetChannel : SMap Nat
  deriving DecidableEq, Repr

/-- A core after boot: no frame, no image, no window, whole (R152, R226). -/
def Core.reset : Core where
  frames := []
  run := none
  lastRun := 0
  stopped := false
  stepsLeft := none
  passBreak := none
  btab := []
  btabBad := []
  btabVa := 0
  image := none
  smap := []
  winLaunch := []
  lines := []
  fills := []
  sent := []
  eccBad := []
  eccOnce := []
  oslots := []
  pass := []
  slotmap := 2
  channels := []
  packetChannel := []

/-- A hoop (R142): members and arrivals are task identities (launch id, task id); `late` joined after an arrival of the phase. -/
structure Hoop where
  allocated : Bool
  broken : Bool
  phase : Nat
  members : List (BitVec 32 × BitVec 32)
  arrived : List (BitVec 32 × BitVec 32)
  late : List (BitVec 32 × BitVec 32)
  owner : BitVec 32
  deriving DecidableEq, Repr

/-- An unallocated hoop. -/
def Hoop.initial : Hoop := ⟨false, false, 0, [], [], [], 0⟩

/-- A footprint of a launch after renaming (R250, R253). -/
structure Footprint where
  base : Nat
  size : Nat
  intent : Nat
  substitute : Bool
  deriving DecidableEq, Repr

/-- The states of a dependence-table entry (R255). -/
inductive LaunchState
  | waiting | issuing | running
  deriving DecidableEq, Repr

/-- A launch that holds a dependence-table entry (R252, R255, R257); `posted`: its status word is on its way (R263). -/
structure Launch where
  id : BitVec 32
  st : LaunchState
  hdr : Word
  entry : Word
  args : Word
  done : Word
  doneVal : Word
  trig : Word
  btab : Word
  tvec : Word
  statusVa : Word
  spad : Nat
  footprints : List Footprint
  preds : List (BitVec 32)
  share : Nat
  reserve : Nat
  toCreate : Nat
  count : Nat
  nextIndex : Nat
  placed : Bool
  fatals : Nat
  firstCause : BitVec 8
  lastCause : BitVec 8
  reject : Nat
  posted : Bool
  deriving DecidableEq, Repr

/-- An entry of the rename map (R253): the original range and its substitute. -/
structure Rename where
  base : Nat
  size : Nat
  buffer : Nat
  deriving DecidableEq, Repr

/-- A substitute buffer of a pool (R254) and its users. -/
structure Buffer where
  base : Nat
  size : Nat
  poolBase : Nat
  users : Nat
  mapped : Bool
  deriving DecidableEq, Repr

/-- A queue registered with an engine (R244, R278). -/
structure Queue where
  descriptor : Word
  deriving DecidableEq, Repr

/-- A saved task (R264): what the scheduler and the hardware keep of it (its wait, class, age, launch and errors), the core it left,
the address of the record that holds the rest, its operand slots and unmapped windows; `bad`: the record has a parity error (R113). -/
structure Saved where
  task : Task
  core : Nat
  record : Word
  oslots : SMap OSlot
  bad : Bool
  windows : List (Nat × Word × BitVec 32)
  deriving DecidableEq, Repr

/-- An output of the cluster firmware that leaves the control-core pair at its next checkpoint (R270): a mailbox command with
its result code (R355), or the status and completion words of a rejected packet (R249, R269); `leaving`: those that have left it, with
the status value where it is not written yet. -/
inductive FirmwareOutput
  | launchQueue (descriptor : Word)
  | copyQueue (descriptor : Word)
  | unregister (descriptor : Word)
  | contextPool (base : Word) (count : Nat)
  | failed (code : Nat)
  | rejected (status : Word) (value : Nat) (done doneVal : Word)
  | leaving (status : Word) (value : Option Nat) (done doneVal : Word)
  deriving DecidableEq, Repr

/-- A claimed queue slot to be written as a void packet (R286): its address, index and descriptor, the size of the ring, whether READ has
been seen to leave it, and the request to another module that it waits for. -/
structure Void where
  slot : Word
  index : Nat
  desc : Word
  size : Nat
  free : Bool
  awaiting : Option Nat
  answer : Option Reply
  deriving DecidableEq, Repr

/-- A cluster: queue engine, scheduler, hoops, firmware mailbox (R244 to R270, R355). `formerQueues`: descriptors of the queues that a
warm reset of the die has left registered with nobody (R344, R346). `voids`: queue slots to be written as void packets (R286). -/
structure Cluster where
  launchQueues : List Queue
  copyQueues : SMap Queue
  queueJobs : SMap (List CopyJob)
  rr : Nat
  rrCopy : Nat
  launches : List Launch
  renames : List Rename
  buffers : List Buffer
  ready : List Task
  saved : List Saved
  hoops : SMap Hoop
  ctxBase : Word
  ctxCount : Nat
  fwMismatch : Nat
  fwSince : Nat
  fwPending : List FirmwareOutput
  fwHalted : Bool
  lockstep : Bool
  formerQueues : List Word
  voids : List Void
  arg0 : Word
  arg1 : Word
  mbStatus : Word
  deriving DecidableEq, Repr

/-- A cluster after boot. -/
def Cluster.reset : Cluster where
  launchQueues := []
  copyQueues := []
  queueJobs := []
  rr := 0
  rrCopy := 0
  launches := []
  renames := []
  buffers := []
  ready := []
  saved := []
  hoops := []
  ctxBase := 0
  ctxCount := 0
  fwMismatch := 0
  fwSince := 0
  fwPending := []
  fwHalted := false
  lockstep := true
  formerQueues := []
  voids := []
  arg0 := 0
  arg1 := 0
  mbStatus := 0

/-- A cached entry of an MTLB or of the pool translator (R302, R398): the first address it covers, how many it covers, the entry and
where it lies in the table. -/
structure TlbEntry where
  page : Nat
  size : Nat
  entry : Word
  entryPa : Nat
  deriving DecidableEq, Repr

/-- A trigger counter (R375). -/
structure Counter where
  live : Bool
  gen : BitVec 8
  value : Word
  launch : BitVec 32
  deriving DecidableEq, Repr

/-- A free counter: generation 1, as the names of the spec's worked sessions show (DEDUCED, log 8). -/
def Counter.initial : Counter := ⟨false, 1, 0, 0⟩

/-- A posted operation's entry (R379, R384): `firing` firings have begun and are not done; of the first of them `moved` (the bytes it
has written), `ahead` (the bytes it has read and not written), `log`, `awaiting` and `answer` say how far it is, `arriving` that it is
done but for the answer of its arrival counter on another module (R385). `cancelled` marks a LAUNCH cancelled while its claim was on
its way (R381). -/
structure Posted where
  used : Bool
  armed : Bool
  firing : Nat
  begun : Bool
  gen : BitVec 8
  order : Nat
  launch : BitVec 32
  cluster : Nat
  hdr : Word
  thresh : Word
  step : Word
  trig : Word
  cctr : Word
  actr : Word
  len : Nat
  src : Word
  dst : Word
  opnd : Word
  moved : Nat
  ahead : List Byte
  log : List (List Byte)
  awaiting : Option Nat
  answer : Option Reply
  arriving : Bool
  cancelled : Bool
  deriving DecidableEq, Repr

/-- A free entry. -/
def Posted.initial : Posted where
  used := false
  armed := false
  firing := 0
  begun := false
  gen := 0
  order := 0
  launch := 0
  cluster := 0
  hdr := 0
  thresh := 0
  step := 0
  trig := 0
  cctr := 0
  actr := 0
  len := 0
  src := 0
  dst := 0
  opnd := 0
  moved := 0
  ahead := []
  log := []
  awaiting := none
  answer := none
  arriving := false
  cancelled := false

/-- A request of another module that waits at the target (R314, R367). -/
structure HeldRequest where
  source : BitVec 8
  core : Nat
  frame : Nat
  stream : Nat
  va : Word
  kind : RemoteKind
  nack : Bool
  token : Word
  faulting : Bool
  cause : BitVec 8
  tick : Nat
  deriving DecidableEq, Repr

/-- A sequenced multicast write that this module, the group's root, has received from another one and not acknowledged yet (R374): whose
it is, the copies that no member has acknowledged, with their members, and the first fault of one, with its member. -/
structure RootWrite where
  source : BitVec 8
  core : Nat
  frame : Nat
  stream : Nat
  asked : List (Nat × Nat)
  fault : Option (BitVec 8 × BitVec 16)
  deriving DecidableEq, Repr

/-- A stream of another module whose requests get negative replies until its source restarts it (R369), with the request that faulted. -/
structure Nacked where
  source : BitVec 8
  core : Nat
  frame : Nat
  stream : Nat
  va : Word
  kind : RemoteKind
  cause : BitVec 8
  deriving DecidableEq, Repr

/-- A move of a page by a die's migration and eviction engine that has begun (R313, R409): its kind, the page's first address in the
die's space, where its entry lies, and the frame or pool page it takes. -/
structure PageMove where
  kind : Nat
  page : Nat
  entryPa : Nat
  target : Nat
  deriving DecidableEq, Repr

/-- A compute die: controller registers, MTLBs with their leaves and table entries, free frames, trigger unit. `channels`: the GDDR 7
channels present (R342); `ioDown`: how many of its two links to the I/O die are down (R339, R341); `admitted` and `filling`: the owed
requests, and the fills by core and line, that the die had admitted when a warm reset began (R344). -/
structure Die where
  channels : BitVec 16
  dtroot : Word
  dtrootLive : Word
  mtlb : SMap (List TlbEntry)
  paths : SMap (List TlbEntry)
  poison : List Nat
  freeFrames : List Nat
  poolPages : List Nat
  reclaim : List Nat
  regs : SMap Word
  evSweep : Nat
  evActive : Bool
  migStat : Word
  moving : Option PageMove
  held : List HeldRequest
  nacked : List Nacked
  fqHead : Word
  fqDrop : Word
  nextToken : Word
  elHead : Word
  online : Bool
  failed : Bool
  resetStep : Nat
  clearPending : Bool
  admitted : List Nat
  filling : List (Nat × Nat)
  counters : SMap Counter
  posted : SMap Posted
  nextPost : Nat
  trigStream : List CopyJob
  rowDown : Bool
  columnDown : Bool
  ioDown : Nat
  deriving DecidableEq, Repr

/-- A die after boot. -/
def Die.reset : Die where
  channels := 0xFFFF
  dtroot := 0
  dtrootLive := 0
  mtlb := []
  paths := []
  poison := []
  freeFrames := []
  poolPages := []
  reclaim := []
  regs := []
  evSweep := 0
  evActive := false
  migStat := 0
  moving := none
  held := []
  nacked := []
  fqHead := 0
  fqDrop := 0
  nextToken := 1
  elHead := 0
  online := true
  failed := false
  resetStep := 0
  clearPending := false
  admitted := []
  filling := []
  counters := []
  posted := []
  nextPost := 0
  trigStream := []
  rowDown := false
  columnDown := false
  ioDown := 0

/-- An ordering stream of a frame (R361 to R363, R367): frozen at the source, by which request; held for a repin; and the links
that its pinned routes go round. -/
structure Stream where
  core : Nat
  frame : Nat
  stream : Nat
  frozen : Option Nat
  holding : Bool
  avoid : List (Nat × Nat)
  deriving DecidableEq, Repr

/-- A request that left the module (R364, R374): the owed operation it answers, its target module, stream, what it asks, and whether
a fault at the target gets a negative reply (R369). -/
structure Outgoing where
  id : Nat
  target : BitVec 8
  core : Nat
  frame : Nat
  stream : Nat
  access : Access
  nack : Bool
  deriving DecidableEq, Repr

/-- A message with no answer that left the module: a reply, a held request's answer, a multicast copy or a posted write. -/
inductive Outbox
  | request (o : Outgoing)
  | reply (source : BitVec 8) (core frame stream : Nat) (r : Reply)
  | hold (source : BitVec 8) (core frame stream : Nat)
  | refused (source : BitVec 8) (core frame stream : Nat) (cause : BitVec 8)
  | backInvalidateReply (va : Word) (dirty bad : BitVec 4) (bytes : List Byte)
  | snoopReply (ppa : Word)
  | backInvalidate (id : Nat) (target : BitVec 8) (va : Word) (invalidate : Bool)
  | engine (id : Nat) (target : BitVec 8) (va : Word) (kind : RemoteKind)
  | rimWrite (id : Nat) (target launch : Word) (bytes : List Byte)
  deriving DecidableEq, Repr

/-- An attestation report (R356): the firmware images' measurements, CAPS of cluster 0 of each die, the nonce, and the leaf that
signed it with its signature. -/
structure Report where
  measurements : List (BitVec 256)
  nonce : BitVec 256
  caps : List Word
  leaf : Nat
  signature : List Byte
  deriving DecidableEq, Repr

/-- Another module that holds a line of this one in its windows (R365): the line's key and address, whether it may write it, and
the back-invalidation under way with whether it takes the line away (R366). -/
structure RemoteHolder where
  home : Nat
  va : Word
  module : BitVec 8
  exclusive : Bool
  asked : Option (Nat × Bool)
  deriving DecidableEq, Repr

/-- What a zqdbg breakpoint stops (R87, R88, R298): every core that reaches a position; every issue of a table entry; one core
at a bundle time; the core whose access writes within a range. -/
inductive BreakAt
  | position (pc : Word)
  | entry (table : Word) (index : Nat)
  | bundleTime (core n : Nat)
  | watch (va : Word) (len : Nat)
  deriving DecidableEq, Repr

/-- The zqdbg commands that change what stops (R88): a new breakpoint, and the removal of breakpoint `n`; and `print word` at an
address through a selected core's module (R414). -/
inductive DebugCommand
  | set (b : BreakAt)
  | delete (n : Nat)
  | printWord (core : Nat) (va : Word)
  deriving DecidableEq, Repr

/-- What zqdbg last printed of a word (R414): its value, the STATE of a pool region that serves no access, the cause of another fault;
or it waits for another module. -/
inductive Printed
  | nothing
  | word (v : Word)
  | region (state : Nat)
  | fault (cause : BitVec 8)
  | awaiting (id : Nat)
  deriving DecidableEq, Repr

/-- What an uncorrectable error strikes (R113, R216, R236): a register, tile or rim of a frame, an element of its accumulator, its
snapshot buffer, a sector of a core's operand slot, a core's table entry, the context record at an address, a sector of a core's
scratchpad (R235), or a line of a die's GDDR 7 (R343). -/
inductive Upset
  | register (core pos : Nat) (d : Dest)
  | accumulator (core pos n element : Nat)
  | operand (core slot sector : Nat)
  | snapshot (core pos : Nat)
  | table (core entry : Nat)
  | record (va : Word)
  | scratch (core sector : Nat)
  | memory (die pa : Nat)
  deriving DecidableEq, Repr

/-- The rings of records that controllers fill (R355, R368, R407): a die's error log, its fabric fault queue, the lost-line ring. -/
inductive RecordRing
  | errors (die : Nat)
  | faults (die : Nat)
  | lost
  deriving DecidableEq, Repr

/-- What an engine has asked of another module and a die controller logs if it fails: the increment of a counter (R377), for a posted
operation with its handle, and the counter's name (R386); or a write, with its address. -/
structure Notice where
  id : Nat
  die : Nat
  handle : Option Word
  name : Word
  deriving DecidableEq, Repr

/-- What happens next: an event, the sequencer of a core, a debugger command, a soft error, the host's read of a BAR0 register, a
write of pool bytes by another requester of the pool (R404). -/
inductive Move
  | event (i : Instr)
  | core (c : Nat)
  | debug (c : DebugCommand)
  | upset (u : Upset)
  | read (offset : Nat)
  | poolWrite (ppa : Nat) (bytes : List Byte)
  deriving DecidableEq, Repr

/-- The state of the module. The core `active` is checked out into `core`, and its running frame into `task`. `records`: those that
wait to be written, since another module holds the line of their ring or its page moves. -/
structure State where
  tick : Nat
  active : Nat
  core : Core
  task : Task
  mem : Memory
  cores : SMap Core
  clusters : SMap Cluster
  dies : SMap Die
  agenda : List Move
  breaks : List (Nat × BreakAt)
  moduleId : BitVec 8
  fabricOk : Bool
  modules : List Nat
  dead : List Nat
  absent : List Nat
  clockMHz : Nat
  bar2Base : Word
  bar2Size : Nat
  poolroot : Word
  poolrootLive : Word
  poolTlb : List TlbEntry
  poolPoison : List Nat
  regions : SMap Word
  poolRefused : Bool
  portsUp : BitVec 8
  llHead : Word
  llDrop : Word
  groups : SMap Word
  bar0 : SMap Word
  linksDown : List (Nat × Nat)
  streams : List Stream
  rootWrites : List RootWrite
  records : List (RecordRing × List Byte)
  notices : List Notice
  holders : List RemoteHolder
  nextLaunch : BitVec 32
  lastTake : Option (Nat × Nat)
  nextOwed : Nat
  outbox : List Outbox
  lmsLeaf : Nat
  report : Option Report
  debugMode : Bool
  booted : Bool
  hostReply : List Byte
  printed : Printed
  freeCtr : Nat
  deriving DecidableEq, Repr

/-- The module right after reset: booted, translation off, no queue, no task, every pool region OFFLINE. -/
def State.reset : State where
  tick := 0
  active := 0
  core := Core.reset
  task := Task.fresh
  mem := []
  cores := []
  clusters := []
  dies := []
  agenda := []
  breaks := []
  moduleId := 0
  fabricOk := false
  modules := []
  dead := []
  absent := []
  clockMHz := 1050
  bar2Base := 0
  bar2Size := 2 ^ 30
  poolroot := 0
  poolrootLive := 0
  poolTlb := []
  poolPoison := []
  regions := []
  poolRefused := false
  portsUp := 0
  llHead := 0
  llDrop := 0
  groups := []
  bar0 := []
  linksDown := []
  streams := []
  rootWrites := []
  records := []
  notices := []
  holders := []
  nextLaunch := 1
  lastTake := none
  nextOwed := 0
  outbox := []
  lmsLeaf := 0
  report := none
  debugMode := false
  booted := true
  hostReply := []
  printed := .nothing
  freeCtr := 0

/-- Why the machine stops. Raised by the model itself; safe, since hardware cannot be in the situation. -/
inductive Fault
  /-- Raised by every syllable's meaning when the active core has no running frame: no sequencer issues it. Safe: the
  hardware issues nothing there either. -/
  | noRunningFrame
  deriving DecidableEq, Repr

/-- Why an operation has no meaning in a state. -/
inductive Refusal
  /-- Raised by Machine/Dispatch.lean for an instruction that has no meaning yet. Safe: nothing is claimed of it. -/
  | notModelled (mnemonic : String)
  /-- Raised by an event whose precondition does not hold in the state (nothing to land, no such packet, no such record):
  the event cannot happen there. Safe: the hardware does not take the step either. -/
  | notEnabled
  deriving DecidableEq, Repr

/-- The outcome of an instruction or a step. -/
abbrev Result := Host.Outcome State Fault Refusal

end Sys2Proof.Machine
end

