-- ==== Sys2Proof/Machine/Maps.lean ====
section
/-! DEFINITION. Sparse maps in canonical form, memory as bytes by place, little-endian words, and the accessors of cores,
frames, clusters and dies. -/

namespace Sys2Proof.Machine

/-- The value at key `k`, `d` where the map lists none. -/
def smGet {α : Type} (d : α) : SMap α → Nat → α
  | [], _ => d
  | (j, v) :: r, k => if j = k then v else smGet d r k

/-- The entry at key `k`, if the map lists one. -/
def smFind {α : Type} : SMap α → Nat → Option α
  | [], _ => none
  | (j, v) :: r, k => if j = k then some v else smFind r k

/-- The map without an entry at key `k`. -/
def smErase {α : Type} : SMap α → Nat → SMap α
  | [], _ => []
  | (j, v) :: r, k => if j = k then smErase r k else (j, v) :: smErase r k

/-- The map with an entry at key `k`, in key order. -/
def smPut {α : Type} : SMap α → Nat → α → SMap α
  | [], k, v => [(k, v)]
  | (j, w) :: r, k, v =>
    if k < j then (k, v) :: (j, w) :: r else if k = j then (k, v) :: r else (j, w) :: smPut r k v

/-- Write `v` at key `k`: writing the default removes the entry, so equal maps are equal lists. -/
def smSet {α : Type} [DecidableEq α] (d : α) (m : SMap α) (k : Nat) (v : α) : SMap α :=
  if v = d then smErase m k else smPut m k v

/-- The canonical map of a function on the keys below `n`. -/
def smOfFn {α : Type} [DecidableEq α] (d : α) (n : Nat) (f : Nat → α) : SMap α :=
  (List.range n).filterMap fun k => if f k = d then none else some (k, f k)

/-- A function on every listed value, the default dropped. -/
def smMap {α : Type} [DecidableEq α] (d : α) (f : α → α) (m : SMap α) : SMap α :=
  m.filterMap fun e => if f e.2 = d then none else some (e.1, f e.2)

/-- The canonical form of a map with default `d`. -/
def smWf {α : Type} [DecidableEq α] (d : α) : SMap α → Bool
  | [] => true
  | [(_, v)] => decide (v ≠ d)
  | (j, v) :: (k, w) :: r => decide (v ≠ d) && decide (j < k) && smWf d ((k, w) :: r)

/-! ## Memory -/

/-- Where a byte of the module's memory lies: a core's scratchpad, a die's GDDR 7, or the pool by PPA. -/
inductive Place
  | scratch (core off : Nat)
  | dram (die pa : Nat)
  | pool (ppa : Nat)
  deriving DecidableEq, Repr

/-- The one key of a place in `State.mem`. -/
def Place.key : Place → Nat
  | .dram d pa => d * 2 ^ 48 + pa
  | .scratch c off => 2 ^ 52 + c * 2 ^ 20 + off
  | .pool ppa => 2 ^ 56 + ppa

/-- What a byte that nothing has written reads as: 0 (DESIGN CHOICE, log 2). -/
def unwrittenByte : Byte := 0

/-- One byte of memory. -/
def memByte (m : Memory) (key : Nat) : Byte := smGet unwrittenByte m key

/-- `n` bytes from `key` upward. -/
def memBytes (m : Memory) (key n : Nat) : List Byte := (List.range n).map fun i => memByte m (key + i)

/-- Store bytes from `key` upward. -/
def memStore (m : Memory) (key : Nat) : List Byte → Memory
  | [] => m
  | b :: bs => memStore (smSet unwrittenByte m key b) (key + 1) bs

/-- Memory is in canonical form: addresses strictly rising, no entry equal to an unwritten byte. -/
def Memory.wf (m : Memory) : Bool := smWf unwrittenByte m

/-- Little-endian bytes as a number. -/
def leNat : List Byte → Nat
  | [] => 0
  | b :: bs => b.toNat + 256 * leNat bs

/-- The low `n` bytes of a number, little-endian. -/
def leBytes : Nat → Nat → List Byte
  | 0, _ => []
  | n + 1, v => BitVec.ofNat 8 v :: leBytes n (v / 256)

/-- A little-endian number of `n` bytes in memory. -/
def memNat (m : Memory) (key n : Nat) : Nat := leNat (memBytes m key n)

/-- An 8-byte word in memory. -/
def memWord (m : Memory) (key : Nat) : Word := BitVec.ofNat 64 (memNat m key 8)

/-- Store an 8-byte word. -/
def memPutWord (m : Memory) (key : Nat) (w : Word) : Memory := memStore m key (leBytes 8 w.toNat)

/-- Zero `n` bytes from `key`: drop every listed byte of the range. -/
def memZero (m : Memory) (key n : Nat) : Memory := m.filter fun c => !(key ≤ c.1 && c.1 < key + n)

/-- Copy a range within memory: the listed bytes of the source at the destination. -/
def memMove (m : Memory) (src dst n : Nat) : Memory :=
  memStore (memZero m dst n) dst (memBytes m src n)

/-- Bits `[lo + n - 1 : lo]` of a word as a number. -/
def bits (w : Word) (lo n : Nat) : Nat := w.toNat / 2 ^ lo % 2 ^ n

/-- A word with the field `[lo + n - 1 : lo]` replaced. -/
def setBits (w : Word) (lo n v : Nat) : Word :=
  BitVec.ofNat 64 (w.toNat - bits w lo n * 2 ^ lo + v % 2 ^ n * 2 ^ lo)

/-- A word from a number. -/
def word (n : Nat) : Word := BitVec.ofNat 64 n

/-! ## Cores, frames, clusters, dies -/

/-- The die of a global core id (R3). -/
def dieOf (g : Nat) : Nat := g / 192

/-- The cluster of a global core id, numbered 0 to 15 over the package. -/
def clusterOf (g : Nat) : Nat := g / 48

/-- The core number within its cluster (R2). -/
def coreNoOf (g : Nat) : Nat := g % 48

/-- Cores 44 to 47 of a cluster are the gate cores (R2). -/
def isGate (g : Nat) : Bool := 44 ≤ coreNoOf g

/-- Core `g` is present in the part (R350). -/
def present (s : State) (g : Nat) : Bool := g < 768 && !s.absent.contains g

/-- A core's state, wherever it is held. -/
def getCore (s : State) (g : Nat) : Core := if g = s.active then s.core else smGet Core.reset s.cores g

/-- Write a core's state. -/
def setCore (s : State) (g : Nat) (c : Core) : State :=
  if g = s.active then { s with core := c } else { s with cores := smSet Core.reset s.cores g c }

/-- Change a core's state. -/
def updCore (s : State) (g : Nat) (f : Core → Core) : State := setCore s g (f (getCore s g))

/-- The task in a frame position of a core: the running one is checked out. -/
def getFrame (s : State) (g pos : Nat) : Option Task :=
  if g = s.active ∧ s.core.run = some pos then some s.task else smFind (getCore s g).frames pos

/-- Write the task of a frame position. -/
def setFrame (s : State) (g pos : Nat) (t : Task) : State :=
  if g = s.active ∧ s.core.run = some pos then { s with task := t }
  else updCore s g fun c => { c with frames := smPut c.frames pos t }

/-- Check the active core's running frame back into its position. -/
def checkIn (s : State) : State :=
  match s.core.run with
  | none => s
  | some p => { s with core := { s.core with frames := smPut s.core.frames p s.task, run := none, lastRun := p },
                       task := Task.fresh }

/-- Let the frame at position `p` of the active core run. -/
def checkOut (s : State) (p : Nat) : State :=
  match smFind s.core.frames p with
  | none => s
  | some t => { s with core := { s.core with frames := smErase s.core.frames p, run := some p }, task := t }

/-- Make core `g` the active one. Its running frame is checked out of its position again. -/
def activate (s : State) (g : Nat) : State :=
  if g = s.active then s
  else
    let runPos := s.core.run
    let out : Core := match runPos with
      | none => s.core
      | some p => { s.core with frames := smPut s.core.frames p s.task }
    let cores := smSet Core.reset s.cores s.active out
    let inn := smGet Core.reset cores g
    let t := match inn.run with
      | none => Task.fresh
      | some p => (smFind inn.frames p).getD Task.fresh
    let inn' : Core := match inn.run with
      | none => inn
      | some p => { inn with frames := smErase inn.frames p }
    { s with active := g, core := inn', task := t, cores := smErase cores g }

/-- Every resident frame of a core with its position. -/
def residents (s : State) (g : Nat) : SMap Task :=
  let c := getCore s g
  if g = s.active then
    match s.core.run with
    | none => c.frames
    | some p => smPut c.frames p s.task
  else c.frames

/-- A cluster (numbered 0 to 15 over the package). -/
def getCluster (s : State) (c : Nat) : Cluster := smGet Cluster.reset s.clusters c

/-- Write a cluster. -/
def setCluster (s : State) (c : Nat) (k : Cluster) : State :=
  { s with clusters := smSet Cluster.reset s.clusters c k }

/-- Change a cluster. -/
def updCluster (s : State) (c : Nat) (f : Cluster → Cluster) : State := setCluster s c (f (getCluster s c))

/-- A die. -/
def getDie (s : State) (d : Nat) : Die := smGet Die.reset s.dies d

/-- Write a die. -/
def setDie (s : State) (d : Nat) (k : Die) : State := { s with dies := smSet Die.reset s.dies d k }

/-- Change a die. -/
def updDie (s : State) (d : Nat) (f : Die → Die) : State := setDie s d (f (getDie s d))

/-- The global core ids, in order, of a cluster. -/
def coresOf (cluster : Nat) : List Nat := (List.range 48).map fun n => cluster * 48 + n

/-- The cores that hold some state that differs from reset, the active one among them. -/
def touchedCores (s : State) : List Nat := s.active :: (s.cores.map Prod.fst).filter (· ≠ s.active)

end Sys2Proof.Machine
end

