-- ==== Sys2Proof/Machine/Float.lean ====
section
/-! DEFINITION. Floating-point numbers of the formats of R15 as exact dyadic values, with one rounding (R18 to R21), the flags
of R22, exact sums (R20, R34), and the conversions of R24. -/

namespace Sys2Proof.Machine

/-- A binary format: its precision with the hidden bit, and its exponent width (R15). -/
structure FFmt where
  prec : Nat
  ebits : Nat
  deriving DecidableEq, Repr

def f128 : FFmt := ⟨113, 15⟩
def f64 : FFmt := ⟨53, 11⟩
def f32 : FFmt := ⟨24, 8⟩
def f16 : FFmt := ⟨11, 5⟩
def bf16 : FFmt := ⟨8, 8⟩

/-- The grid of the NA-840 forerunner: binary32 with 21 bits of precision (R39). -/
def f32Compat : FFmt := ⟨21, 8⟩

def FFmt.width (f : FFmt) : Nat := f.prec + f.ebits
def FFmt.bias (f : FFmt) : Int := 2 ^ (f.ebits - 1) - 1

/-- The exponent of the least significant bit of a subnormal. -/
def FFmt.qmin (f : FFmt) : Int := 1 - f.bias - (f.prec - 1 : Nat)

/-- A value: a NaN (with whether it signals), an infinity, or (-1)^neg * m * 2^e. -/
inductive Fp
  | nan (signalling : Bool)
  | inf (neg : Bool)
  | fin (neg : Bool) (m : Nat) (e : Int)
  deriving DecidableEq, Repr

/-- Positive zero. -/
def Fp.zero : Fp := .fin false 0 0

def Fp.isNan : Fp → Bool
  | .nan _ => true
  | _ => false

def Fp.isInf : Fp → Bool
  | .inf _ => true
  | _ => false

def Fp.isZero : Fp → Bool
  | .fin _ 0 _ => true
  | _ => false

/-- The sign; a NaN counts as positive. -/
def Fp.neg? : Fp → Bool
  | .nan _ => false
  | .inf n => n
  | .fin n _ _ => n

/-- The value with its sign changed. -/
def Fp.negate : Fp → Fp
  | .nan q => .nan q
  | .inf n => .inf !n
  | .fin n m e => .fin (!n) m e

/-- The value with its sign cleared. -/
def Fp.abs : Fp → Fp
  | .nan q => .nan q
  | .inf _ => .inf false
  | .fin _ m e => .fin false m e

/-- Read a bit pattern of a format (R15). -/
def fpDecode (f : FFmt) (w : Nat) : Fp :=
  let frac := w % 2 ^ (f.prec - 1)
  let ex := w / 2 ^ (f.prec - 1) % 2 ^ f.ebits
  let sg := w / 2 ^ (f.width - 1) % 2 == 1
  if ex = 2 ^ f.ebits - 1 then
    if frac = 0 then .inf sg else .nan (frac / 2 ^ (f.prec - 2) == 0)
  else if ex = 0 then .fin sg frac f.qmin
  else .fin sg (frac + 2 ^ (f.prec - 1)) (f.qmin + (ex - 1 : Nat))

/-! ## Flags: bit 0 NV, 1 DZ, 2 OF, 3 UF, 4 NX, the order of FPCSR[6:2] (R22) -/

abbrev Flags := BitVec 5

def flagNV : Flags := 1
def flagDZ : Flags := 2
def flagOF : Flags := 4
def flagUF : Flags := 8
def flagNX : Flags := 16

/-- A result of a rounding: the bit pattern and the flags. -/
structure Rounded where
  bits : Nat
  flags : Flags
  deriving DecidableEq, Repr

/-- The default NaN of a format (R19). -/
def defaultNan (f : FFmt) : Nat := (2 ^ f.ebits - 1) * 2 ^ (f.prec - 1) + 2 ^ (f.prec - 2)

/-- The sign bit of a format. -/
def signBit (f : FFmt) (neg : Bool) : Nat := if neg then 2 ^ (f.width - 1) else 0

/-- An infinity of a format. -/
def infBits (f : FFmt) (neg : Bool) : Nat := signBit f neg + (2 ^ f.ebits - 1) * 2 ^ (f.prec - 1)

/-- Whether a magnitude between `hi` and `hi + 1` rounds up (R21): `rem` of `2^sh` units lie above `hi`, and a sticky part
below them. `rm`: 0 RNE, 1 RTZ, 2 RDN, 3 RUP. -/
def roundsUp (rm : Nat) (neg : Bool) (hi rem sh : Nat) (sticky : Bool) : Bool :=
  let inexact := rem != 0 || sticky
  if rm % 4 = 0 then
    let half := 2 ^ sh / 2
    half < rem || (rem == half && (sticky || hi % 2 == 1) && sh != 0)
  else if rm % 4 = 1 then false
  else if rm % 4 = 2 then inexact && neg
  else inexact && !neg

/-- Round the nonzero value (-1)^neg * (m + sticky) * 2^e, where `sticky` stands for a positive part below one unit of `m`. -/
def roundFinite (f : FFmt) (rm : Nat) (neg : Bool) (m : Nat) (e : Int) (sticky : Bool) : Rounded :=
  let len : Int := (Nat.log2 m + 1 : Nat)
  let top := e + len - 1
  let emin := 1 - f.bias
  let q := max (top - (f.prec - 1 : Nat)) f.qmin
  -- two spare bits below the quantum keep the sticky part apart from a tie
  let k := (e - (q - 2)).toNat
  let m1 := m * 2 ^ k
  let e1 := e - k
  let sh := (q - e1).toNat
  let hi := m1 / 2 ^ sh
  let rem := m1 % 2 ^ sh
  let inexact := rem != 0 || sticky
  let hi1 := if roundsUp rm neg hi rem sh sticky then hi + 1 else hi
  let carry := hi1 == 2 ^ f.prec
  let hi2 := if carry then 2 ^ (f.prec - 1) else hi1
  let q2 := if carry then q + 1 else q
  -- tininess after rounding (R18): the value rounded to full precision, with no bound on the exponent, is below 2^emin
  let tiny :=
    if emin ≤ top then false
    else if top < emin - 1 then true
    else
      let qu := top - (f.prec - 1 : Nat)
      let ku := (e - (qu - 2)).toNat
      let mu := m * 2 ^ ku
      let su := (qu - (e - ku)).toNat
      let hu := mu / 2 ^ su
      let up := roundsUp rm neg hu (mu % 2 ^ su) su sticky
      !(up && hu + 1 == 2 ^ f.prec)
  let field : Int := if hi2 < 2 ^ (f.prec - 1) then 0 else q2 - f.qmin + 1
  if (2 ^ f.ebits - 1 : Int) ≤ field then
    let toInf := rm % 4 == 0 || (rm % 4 == 2 && neg) || (rm % 4 == 3 && !neg)
    ⟨if toInf then infBits f neg else infBits f neg - 1, flagOF ||| flagNX⟩
  else
    let frac := if hi2 < 2 ^ (f.prec - 1) then hi2 else hi2 - 2 ^ (f.prec - 1)
    ⟨signBit f neg + field.toNat * 2 ^ (f.prec - 1) + frac,
      (if inexact then flagNX else 0) ||| (if tiny && inexact then flagUF else 0)⟩

/-- Round a value to a format. A NaN gives the default NaN and raises nothing here. -/
def fpRound (f : FFmt) (rm : Nat) : Fp → Rounded
  | .nan _ => ⟨defaultNan f, 0⟩
  | .inf n => ⟨infBits f n, 0⟩
  | .fin n 0 _ => ⟨signBit f n, 0⟩
  | .fin n m e => roundFinite f rm n m e false

/-- NV if an operand is a signalling NaN (R19). -/
def signalFlag : List Fp → Flags
  | [] => 0
  | .nan true :: _ => flagNV
  | _ :: r => signalFlag r

/-- A signed integer times 2^e as a value; `zeroNeg` is the sign of a zero. -/
def fpOfInt (v : Int) (e : Int) (zeroNeg : Bool) : Fp :=
  if v = 0 then .fin zeroNeg 0 0 else .fin (v < 0) v.natAbs e

/-- The signed significand of a finite value on the grid 2^e0, for e0 at most its exponent. -/
def onGrid (e0 : Int) : Fp → Int
  | .fin n m e => (if n then -1 else 1) * (m * 2 ^ (e - e0).toNat : Nat)
  | _ => 0

/-- The exponent of a value. -/
def Fp.exp : Fp → Int
  | .fin _ _ e => e
  | _ => 0

/-- The exact sum of terms with NV where it is invalid (R20, R34). The sign of a zero sum follows R20's words.
A quiet NaN beside both infinities raises nothing (DESIGN CHOICE, log 68). -/
def fpSum (rm : Nat) (ts : List Fp) : Fp × Flags :=
  if ts.any Fp.isNan then (.nan false, signalFlag ts)
  else if ts.contains (.inf false) && ts.contains (.inf true) then (.nan false, flagNV)
  else if ts.contains (.inf false) then (.inf false, 0)
  else if ts.contains (.inf true) then (.inf true, 0)
  else
    let live := ts.filter fun t => !t.isZero
    let e0 := live.foldl (fun a t => min a t.exp) (live.headD .zero).exp
    let v := live.foldl (fun (a : Int) t => a + onGrid e0 t) 0
    (fpOfInt v e0 (if ts.all Fp.neg? && live.isEmpty then true else rm % 4 == 2), 0)

/-- The exact product; NV for 0 times infinity (R126). -/
def fpMul (a b : Fp) : Fp × Flags :=
  match a, b with
  | .nan q, y => (.nan false, signalFlag [.nan q, y])
  | x, .nan q => (.nan false, signalFlag [x, .nan q])
  | .inf n, y => if y.isZero then (.nan false, flagNV) else (.inf (n != y.neg?), 0)
  | x, .inf n => if x.isZero then (.nan false, flagNV) else (.inf (n != x.neg?), 0)
  | .fin n m e, .fin n' m' e' => (.fin (n != n') (m * m') (e + e'), 0)

/-- A result that is already a bit pattern's value with flags: round it and add them. -/
def roundWith (f : FFmt) (rm : Nat) (x : Fp × Flags) : Rounded :=
  let r := fpRound f rm x.1
  ⟨r.bits, r.flags ||| x.2⟩

/-- Exact sum, rounded once. -/
def fpAdd (f : FFmt) (rm : Nat) (a b : Fp) : Rounded := roundWith f rm (fpSum rm [a, b])

/-- Exact difference, rounded once. -/
def fpSub (f : FFmt) (rm : Nat) (a b : Fp) : Rounded := fpAdd f rm a b.negate

/-- Exact product, rounded once. -/
def fpMulR (f : FFmt) (rm : Nat) (a b : Fp) : Rounded := roundWith f rm (fpMul a b)

/-- a * b + c, rounded once; the invalid cases of product and sum. -/
def fpFma (f : FFmt) (rm : Nat) (a b c : Fp) : Rounded :=
  let p := fpMul a b
  match p.1 with
  | .nan _ => ⟨defaultNan f, p.2 ||| signalFlag [c]⟩
  | _ => roundWith f rm (fpSum rm [p.1, c])

/-- Quotient, rounded once (R126). -/
def fpDiv (f : FFmt) (rm : Nat) (a b : Fp) : Rounded :=
  let neg := a.neg? != b.neg?
  if a.isNan || b.isNan then ⟨defaultNan f, signalFlag [a, b]⟩
  else
    match a, b with
    | .inf _, .inf _ => ⟨defaultNan f, flagNV⟩
    | .inf _, _ => ⟨infBits f neg, 0⟩
    | _, .inf _ => ⟨signBit f neg, 0⟩
    | .fin _ ma ea, .fin _ mb eb =>
      if mb = 0 then (if ma = 0 then ⟨defaultNan f, flagNV⟩ else ⟨infBits f neg, flagDZ⟩)
      else if ma = 0 then ⟨signBit f neg, 0⟩
      else
        let k := f.prec + 3 + Nat.log2 mb
        let num := ma * 2 ^ k
        roundFinite f rm neg (num / mb) (ea - eb - k) (num % mb != 0)
    | _, _ => ⟨defaultNan f, 0⟩

/-- The integer square root by Newton's descent from above; `fuel` bounds the steps. -/
def isqrtLoop (n : Nat) : Nat → Nat → Nat
  | 0, x => x
  | fuel + 1, x =>
    let y := (x + n / x) / 2
    if y < x then isqrtLoop n fuel y else x

/-- The integer square root of `n`. -/
def isqrt (n : Nat) : Nat := if n = 0 then 0 else isqrtLoop n (Nat.log2 n + 8) (2 ^ (Nat.log2 n / 2 + 1))

/-- Square root, rounded once (R126). -/
def fpSqrt (f : FFmt) (rm : Nat) : Fp → Rounded
  | .nan q => ⟨defaultNan f, signalFlag [.nan q]⟩
  | .inf false => ⟨infBits f false, 0⟩
  | .inf true => ⟨defaultNan f, flagNV⟩
  | .fin n m e =>
    if m = 0 then ⟨signBit f n, 0⟩
    else if n then ⟨defaultNan f, flagNV⟩
    else
      let k := 2 * (f.prec + 2) + (if (e.toNat + (-e).toNat) % 2 = 0 then 0 else 1)
      let r := m * 2 ^ k
      let s := isqrt r
      roundFinite f rm false s ((e - k) / 2) (s * s != r)

/-- a < b on values that are not NaN, with -0 = +0. -/
def fpLt (a b : Fp) : Bool :=
  match a, b with
  | .nan _, _ => false
  | _, .nan _ => false
  | .inf n, .inf n' => n && !n'
  | .inf n, _ => n
  | _, .inf n => !n
  | .fin _ _ e, .fin _ _ e' => decide (onGrid (min e e') a < onGrid (min e e') b)

/-- a = b, with -0 = +0; false for a NaN. -/
def fpEq (a b : Fp) : Bool :=
  match a, b with
  | .nan _, _ => false
  | _, .nan _ => false
  | .inf n, .inf n' => n == n'
  | .inf _, _ => false
  | _, .inf _ => false
  | .fin _ _ e, .fin _ _ e' => decide (onGrid (min e e') a = onGrid (min e e') b)

/-- The order that minimum and maximum use: -0 below +0 (R20). -/
def fpBelow (a b : Fp) : Bool := fpLt a b || (fpEq a b && a.neg? && !b.neg?)

/-- Minimum or maximum of two patterns: exact; a NaN gives the default NaN, NV where it signals (R126). -/
def fpMinMax (f : FFmt) (isMax : Bool) (x y : Nat) : Rounded :=
  let a := fpDecode f x
  let b := fpDecode f y
  if a.isNan || b.isNan then ⟨defaultNan f, signalFlag [a, b]⟩
  else if isMax then ⟨if fpBelow a b then y else x, 0⟩ else ⟨if fpBelow b a then y else x, 0⟩

/-- A finite value rounded to an integer under `rm`, with whether it was inexact. -/
def fpToInteger (rm : Nat) (neg : Bool) (m : Nat) (e : Int) : Int × Bool :=
  if 0 ≤ e then ((if neg then -1 else 1) * (m * 2 ^ e.toNat : Nat), false)
  else
    let sh := (-e).toNat
    let hi := m / 2 ^ sh
    let rem := m % 2 ^ sh
    let h := if roundsUp rm neg hi rem sh false then hi + 1 else hi
    ((if neg then -1 else 1) * (h : Int), rem != 0)

/-- Float to integer, saturating between `lo` and `hi` (R24): the integer and the flags. -/
def fpToInt (rm : Nat) (lo hi : Int) : Fp → Int × Flags
  | .nan _ => (0, flagNV)
  | .inf n => (if n then lo else hi, flagNV)
  | .fin n m e =>
    let (v, inexact) := fpToInteger rm n m e
    if hi < v then (hi, flagNV) else if v < lo then (lo, flagNV)
    else (v, if inexact then flagNX else 0)

/-- Integer to float (R24); an integer zero is +0. -/
def fpFromInt (f : FFmt) (rm : Nat) (v : Int) : Rounded := fpRound f rm (fpOfInt v 0 false)

/-- Float to float (R24). -/
def fpConvert (dst : FFmt) (rm : Nat) (a : Fp) : Rounded := roundWith dst rm (a, signalFlag [a])

end Sys2Proof.Machine
end

