-- ==== Sys2Proof/Config.lean ====
section
/-! DEFINITION. What a part fixes, and the values the specification leaves open. A free value is an opaque constant: nothing
can evaluate it, so a claim holds for every value of it. -/

namespace Sys2Proof

/-- The open choice of R282: whether a later, not yet performed sector of a failed copy was written. Applied to `State.freeCtr`. -/
opaque Config.freeBit : Nat → Bool

/-- The bytes of a record of a die's error log (R355): the specification gives its length and no layout. Applied to
`State.freeCtr`. -/
opaque Config.freeByte : Nat → Byte

/-- The LMS signature of an attestation report (R356): the specification gives no signing function. Applied to the leaf's
number and to `State.freeCtr`. -/
opaque Config.signature : Nat → Nat → List Byte

/-- The SHA-256 measurements of the loaded firmware images (R356): the specification gives no image. -/
opaque Config.measurements : List (BitVec 256)

/-- A GDDR 7 channel serves one 3 GB device (R342), taken as 3 times 2^30 bytes: the spec, which sets GB apart from GiB (R9), gives no
byte count (DESIGN CHOICE, log 68). -/
def Config.channelBytes : Nat := 3 * 2 ^ 30

/-- At most this many interlocked memory accesses of a frame are outstanding (R96). -/
def Config.maxOutstanding : Nat := 16

/-- A rim wait parks after this many package ticks (R101). -/
def Config.rimParkTicks : Nat := 256

/-- The quantum of a running frame in bundle times (R261). -/
def Config.quantum : Nat := 2 ^ 12

/-- The ticks without running after which an effective class drops by one (R260). -/
def Config.agingTicks : Nat := 2 ^ 16

end Sys2Proof
end

