-- ==== Sys2Proof/Machine/Ecc.lean ====
section
/-! DEFINITION. The physical side of memory: the GDDR 7 channels of a die and their interleave (R342), the home slices (R315),
uncorrectable errors of scratchpad sectors (R235), poisoned lines (R343), and the rings of records (R355). -/

namespace Sys2Proof.Machine

/-! ## Channels and slices -/

/-- The GDDR 7 channels of a die (R342). -/
def Die.chan (k : Die) : Nat := channelCount k.channels

/-- The `n`-th present channel, counting upward from the lowest. -/
def presentChannel (l : BitVec 16) (n : Nat) : Nat := (((List.range 16).filter fun i => l.getLsbD i)[n]?).getD 0

/-- The channel that serves a physical address of a die, and the address within it (R342). -/
def channelAddress (k : Die) (pa : Nat) : Nat × Nat :=
  let g := pa / 256
  (presentChannel k.channels (g % k.chan), g / k.chan * 256 + pa % 256)

/-- Bit `i` of the slice hash (R315). -/
def sliceBit (pa i : Nat) : Bool :=
  (List.range 6).foldl (fun b n => if 7 + 5 * n + i ≤ 35 then b ^^ pa.testBit (7 + 5 * n + i) else b) false

/-- The home slice of a physical address of a die (R315). -/
def homeSlice (pa : Nat) : Nat := (List.range 5).foldl (fun a i => if sliceBit pa i then a + 2 ^ i else a) 0

/-- The key of the first byte of the line that a memory key lies in. -/
def lineKey (key : Nat) : Nat := key / 128 * 128

/-- The place a memory key stands for. -/
def placeOf (key : Nat) : Place :=
  if 2 ^ 56 ≤ key then .pool (key - 2 ^ 56)
  else if 2 ^ 52 ≤ key then .scratch ((key - 2 ^ 52) / 2 ^ 20) ((key - 2 ^ 52) % 2 ^ 20)
  else .dram (key / 2 ^ 48) (key % 2 ^ 48)

/-! ## Scratchpad sectors (R235) -/

/-- A sector lies in a byte range. -/
def sectorMeets (off n x : Nat) : Bool := x * 32 < off + n && off < x * 32 + 32

/-- A byte range of a scratchpad holds a sector with an uncorrectable error (R235), or one that reports one at its next read (R88). -/
def sectorBad (c : Core) (off n : Nat) : Bool := c.eccBad.any (sectorMeets off n) || c.eccOnce.any (sectorMeets off n)

/-- A read of a range: an injected error is reported once (R88), any other stays (R235). -/
def consumeBad (s : State) (g off n : Nat) : State :=
  if (getCore s g).eccOnce.any (sectorMeets off n) then
    updCore s g fun c => { c with eccOnce := c.eccOnce.filter fun x => !sectorMeets off n x }
  else s

/-- A write of a range mends the sectors that it covers whole (R235). -/
def mendSectors (c : Core) (off n : Nat) : Core :=
  let whole := fun (x : Nat) => off ≤ x * 32 && x * 32 + 32 ≤ off + n
  { c with eccBad := c.eccBad.filter (!whole ·), eccOnce := c.eccOnce.filter (!whole ·) }

/-! ## Poisoned lines (R343) -/

/-- A line of a home is poisoned (R343). -/
def linePoisoned (s : State) (key : Nat) : Bool :=
  match placeOf key with
  | .dram d pa => (getDie s d).poison.contains (pa / 128)
  | .pool ppa => s.poolPoison.contains (ppa / 128)
  | .scratch .. => false

/-- Poison a line of a home, once. -/
def poisonLine (s : State) (key : Nat) : State :=
  match placeOf key with
  | .dram d pa =>
    updDie s d fun k => { k with poison := if k.poison.contains (pa / 128) then k.poison else k.poison ++ [pa / 128] }
  | .pool ppa =>
    { s with poolPoison := if s.poolPoison.contains (ppa / 128) then s.poolPoison else s.poolPoison ++ [ppa / 128] }
  | .scratch .. => s

/-- A full-line write clears the poison of a line (R343). -/
def cleanLine (s : State) (key : Nat) : State :=
  match placeOf key with
  | .dram d pa => updDie s d fun k => { k with poison := k.poison.filter (· ≠ pa / 128) }
  | .pool ppa => { s with poolPoison := s.poolPoison.filter (· ≠ ppa / 128) }
  | .scratch .. => s

/-- The lines that a range of `n` bytes at `key` touches. -/
def linesOf (key n : Nat) : List Nat :=
  (List.range ((key % 128 + n + 127) / 128)).map fun i => lineKey key + i * 128

/-- Some line of the range is poisoned. -/
def rangePoisoned (s : State) (key n : Nat) : Bool := (linesOf key n).any (linePoisoned s)

/-- Clear the poison of the lines that a write covers whole. -/
def cleanRange (s : State) (key n : Nat) : State :=
  ((linesOf key n).filter fun l => key ≤ l && l + 128 ≤ key + n).foldl cleanLine s

/-! ## Record rings (R355, R368, R407) -/

/-- Take a number of free bytes. -/
def freeBytes (s : State) (n : Nat) : List Byte × State :=
  ((List.range n).map fun i => Config.freeByte (s.freeCtr + i), { s with freeCtr := s.freeCtr + n })

/-- A plain register of a die's block. -/
def dieReg (s : State) (d off : Nat) : Word := smGet 0 (getDie s d).regs off

/-- Where a ring of records begins, how many it holds, the indices of the next one written and of the next one read. -/
def RecordRing.base (r : RecordRing) (s : State) : Nat :=
  match r with
  | .errors d => (dieReg s d 0x300).toNat
  | .faults d => (dieReg s d 0x20).toNat
  | .lost => (smGet 0 s.bar0 0x400010).toNat

def RecordRing.size (r : RecordRing) (s : State) : Nat :=
  match r with
  | .errors d => (dieReg s d 0x308).toNat
  | .faults d => (dieReg s d 0x28).toNat
  | .lost => (smGet 0 s.bar0 0x400018).toNat

def RecordRing.head (r : RecordRing) (s : State) : Nat :=
  match r with
  | .errors d => (getDie s d).elHead.toNat
  | .faults d => (getDie s d).fqHead.toNat
  | .lost => s.llHead.toNat

def RecordRing.tail (r : RecordRing) (s : State) : Nat :=
  match r with
  | .errors d => (dieReg s d 0x318).toNat
  | .faults d => (dieReg s d 0x38).toNat
  | .lost => (smGet 0 s.bar0 0x400028).toNat

/-- The bytes of a record. -/
def RecordRing.width (r : RecordRing) : Nat :=
  match r with
  | .lost => 192
  | _ => 32

/-- The records that wait to be written to a ring. -/
def RecordRing.pending (r : RecordRing) (s : State) : Nat := s.records.countP fun x => x.1 == r

/-- The ring is not set up, or has no room for one more record. -/
def RecordRing.full (r : RecordRing) (s : State) : Bool :=
  decide (r.size s = 0) || decide (r.size s ≤ r.head s + r.pending s - r.tail s)

/-- The address of the next record. -/
def RecordRing.place (r : RecordRing) (s : State) : Word := word (r.base s + r.head s % r.size s * r.width)

/-- The record is complete, and the head passes it. -/
def RecordRing.advance (r : RecordRing) (s : State) : State :=
  match r with
  | .errors d => updDie s d fun k => { k with elHead := k.elHead + 1 }
  | .faults d => updDie s d fun k => { k with fqHead := k.fqHead + 1 }
  | .lost => { s with llHead := s.llHead + 1 }

/-- A record waits to be written. -/
def queueRecord (r : RecordRing) (b : List Byte) (s : State) : State := { s with records := s.records ++ [(r, b)] }

/-- A record of 32 bytes that holds some words, at most four: their place in it and every other byte are free (R355). -/
def recordOf (s : State) (l : List Word) : List Byte × State :=
  let r := freeBytes s 33
  let place := 8 * ((r.1.getD 32 0).toNat % (5 - l.length))
  ((r.1.take place ++ l.flatMap (fun w => leBytes 8 w.toNat) ++ (r.1.take 32).drop (place + 8 * l.length)), r.2)

/-- The die that logs what befalls a line: its home; of a pool line the die whose tables map the pool. -/
def logDieOf (s : State) (key : Nat) : Nat :=
  match placeOf key with
  | .dram d _ => d
  | _ => bits s.poolrootLive 2 2

/-- The address that the log gives a line: on its die, or in the pool. -/
def lineAddress (key : Nat) : Word :=
  match placeOf key with
  | .dram _ off => word off
  | .pool off => word off
  | _ => word key

/-- The address of a line whose error has come to its home is to be logged (R235, R343). -/
def queueLine (s : State) (key : Nat) : State :=
  let ring := RecordRing.errors (logDieOf s key)
  if ring.full s then s
  else
    let r := recordOf s [lineAddress key]
    queueRecord ring r.1 r.2

/-! ## Window lines at their homes -/

/-- The dirty sectors of a line. -/
def dirtyList (ln : Line) : List Nat := (List.range 4).filter fun i => ln.dirty.getLsbD i

/-- Set a window line's record. -/
def putLine (s : State) (g l : Nat) (ln : Line) : State :=
  updCore s g fun c => { c with lines := smPut c.lines l ln }

/-- Drop a window line. -/
def dropLine (s : State) (g l : Nat) : State := updCore s g fun c => { c with lines := smErase c.lines l }

/-- The window lines of core `g` at a home line. -/
def linesAtHome (s : State) (g home : Nat) : SMap Line := (getCore s g).lines.filter fun e => e.2.home == home

/-- Write the dirty sectors of a line to a home of the module. A sector with an uncorrectable error marks the home's line (R235); a
write of all four good sectors clears its mark (R343). Whether a sector was bad, and the state after it. -/
def storeSectors (s : State) (g l home : Nat) (ln : Line) : Bool × State :=
  let bad := (dirtyList ln).any fun i => sectorBad (getCore s g) (l * 128 + i * 32) 32
  let s1 := (dirtyList ln).foldl (fun s i =>
    consumeBad { s with mem := memMove s.mem (Place.scratch g (l * 128 + i * 32)).key (home + i * 32) 32 } g (l * 128 + i * 32) 32) s
  (bad, if bad then poisonLine s1 home else if ln.dirty = 0xF then cleanLine s1 home else s1)

end Sys2Proof.Machine
end

