-- ==== Sys2Proof/Machine/Translate.lean ====
section
/-! DEFINITION. Address spaces (R300), the table walk (R304), the leaf checks (R306), the accessed and dirty bits (R308), the
pool translator (R398, R399) and the region check (R406). -/

namespace Sys2Proof.Machine

/-- Where a requester's requests enter a die (R302): a cluster, whose local aperture it sees; the I/O dies; the trigger unit, the
migration engine or the controller of a die. -/
inductive Ingress
  | cluster (c : Nat)
  | io
  | engine (d : Nat)
  deriving DecidableEq, Repr

/-- A requester: the core it counts as for CP pages (R306), and where its requests enter. -/
structure Agent where
  core : Option Nat
  ingress : Ingress
  deriving DecidableEq, Repr

/-- A core as a requester. -/
def Agent.ofCore (g : Nat) : Agent := ⟨some g, .cluster (clusterOf g)⟩

/-- A cluster's queue engine, scheduler or copy engine as a requester: it sees the cluster's local aperture. -/
def Agent.ofCluster (cl : Nat) : Agent := ⟨none, .cluster cl⟩

/-- The requests that a die makes itself (R302). -/
def Agent.ofDie (d : Nat) : Agent := ⟨none, .engine d⟩

/-- A fault of an access: its cause, DETAIL and TRAPVA (R113, R306). -/
structure FaultRec where
  cause : BitVec 8
  detail : BitVec 16
  va : Word
  deriving DecidableEq, Repr

/-- The outcome of an access: it performed; it faulted; it belongs to another module; or its home holds it (R314, R319). -/
inductive Got (α : Type)
  | ok (v : α) (s : State)
  | fault (f : FaultRec) (s : State)
  | remote (target : BitVec 8) (s : State)
  | held (s : State)

/-- One access after another. -/
def Got.bind {α β : Type} (x : Got α) (f : α → State → Got β) : Got β :=
  match x with
  | .ok v s => f v s
  | .fault e s => .fault e s
  | .remote m s => .remote m s
  | .held s => .held s

/-- The causes of R113. -/
def causeEncoding : BitVec 8 := 0x01
def causeInstruction : BitVec 8 := 0x02
def causePrivilege : BitVec 8 := 0x03
def causeFormat : BitVec 8 := 0x04
def causeQuota : BitVec 8 := 0x05
def causeMatrixBusy : BitVec 8 := 0x06
def causePhase : BitVec 8 := 0x07
def causeOverrun : BitVec 8 := 0x08
def causeTranslation : BitVec 8 := 0x10
def causeSparse : BitVec 8 := 0x11
def causePermission : BitVec 8 := 0x12
def causeAlignment : BitVec 8 := 0x13
def causeRegion : BitVec 8 := 0x14
def causeNack : BitVec 8 := 0x15
def causeDead : BitVec 8 := 0x16
def causeOffline : BitVec 8 := 0x17
def causePoison : BitVec 8 := 0x18
def causeAttribute : BitVec 8 := 0x19
def causeFp : BitVec 8 := 0x20
def causePendingOverflow : BitVec 8 := 0x21
def causeForced : BitVec 8 := 0x22
def causeHoop : BitVec 8 := 0x28
def causeSpawnBusy : BitVec 8 := 0x29
def causeWeight : BitVec 8 := 0x2A
def causeTrigger : BitVec 8 := 0x2C
def causeParity : BitVec 8 := 0x30
def causeRepeat : BitVec 8 := 0x31
def causeBreak : BitVec 8 := 0x40
def causeSyscall : BitVec 8 := 0x41
def causeSoftTrap : BitVec 8 := 0x42

/-- Where an address points (R300, R217): the offset within a die, a pool virtual address, a scratchpad, another module, or
nowhere. -/
inductive Space
  | device (die off : Nat)
  | remote (module : BitVec 8) (die off : Nat)
  | pool (pva : Nat)
  | scratch (core off : Nat)
  | nowhere
  deriving DecidableEq, Repr

/-- The space of an address as the module `m` sees it from cluster `cl` and, for core number 63, from core `own`. -/
def spaceOf (s : State) (cl : Option Nat) (own : Option Nat) (va : Word) : Space :=
  match bits va 62 2 with
  | 0 =>
    if BitVec.ofNat 8 (bits va 54 8) = s.moduleId then .device (bits va 52 2) (bits va 0 52)
    else .remote (BitVec.ofNat 8 (bits va 54 8)) (bits va 52 2) (bits va 0 52)
  | 1 => if bits va 48 14 = 0 then .pool (bits va 0 48) else .nowhere
  | 2 =>
    if bits va 32 30 ≠ 0 ∨ bits va 20 6 ≠ 0 then .nowhere
    else
      let n := bits va 26 6
      match cl with
      | none => .nowhere
      | some c =>
        if n = 63 then
          match own with
          | some g => .scratch g (bits va 0 20)
          | none => .nowhere
        else if n < 48 ∧ present s (c * 48 + n) then .scratch (c * 48 + n) (bits va 0 20)
        else .nowhere
  | _ => .nowhere

/-- The space of an address for a requester. -/
def Agent.space (s : State) (a : Agent) (va : Word) : Space :=
  match a.ingress with
  | .cluster c => spaceOf s (some c) a.core va
  | _ => spaceOf s none none va

/-! ## Fields of a leaf (R305) -/

def leafV (e : Word) : Bool := bits e 0 1 = 1
def leafR (e : Word) : Bool := bits e 1 1 = 1
def leafW (e : Word) : Bool := bits e 2 1 = 1
def leafA (e : Word) : Bool := bits e 3 1 = 1
def leafD (e : Word) : Bool := bits e 4 1 = 1
def leafAttr (e : Word) : Nat := bits e 5 2
def leafPin (e : Word) : Nat := bits e 7 4
def leafMig (e : Word) : Nat := bits e 11 2
def leafCommit (e : Word) : Bool := bits e 13 1 = 1
def leafLf (e : Word) : Bool := bits e 14 1 = 1
def leafLoc (e : Word) : Bool := bits e 15 1 = 1
def leafFrame (e : Word) : Nat := bits e 16 32 * 2 ^ 16
def leafOwner (e : Word) : Nat := bits e 48 10

/-- The bytes of a die's GDDR 7 (R342). -/
def dieBytes (s : State) (d : Nat) : Nat := (getDie s d).chan * Config.channelBytes

/-! ## Lines that other modules hold (R365, R366) -/

/-- The other modules that must answer a back-invalidation first: for a write every holder, for a read the one that may write. -/
def holdersOf (s : State) (key n : Nat) (drop : Bool) : List RemoteHolder :=
  s.holders.filter fun h => decide (key < h.home + 128) && decide (h.home < key + n) && (drop || h.exclusive)

/-- Send a holder a back-invalidation, once. -/
def askHolder (drop : Bool) (s : State) (h : RemoteHolder) : State :=
  match h.asked with
  | some _ => s
  | none =>
    let id := s.nextOwed + 1
    { s with nextOwed := id, outbox := s.outbox ++ [.backInvalidate id h.module h.va drop],
             holders := s.holders.map fun x => if x = h then { x with asked := some (id, drop) } else x }

/-- Go on where no other module must answer first; else the home holds the request. -/
def awaitHolders {α : Type} (l : List RemoteHolder) (drop : Bool) (s : State) (go : State → Got α) : Got α :=
  if l.isEmpty then go s else .held (l.foldl (askHolder drop) s)

/-- Ask another module for something: the request leaves, and its id is the one the answer will name. -/
def askRemote (s : State) (target : BitVec 8) (va : Word) (k : RemoteKind) : Nat × State :=
  (s.nextOwed + 1, { s with nextOwed := s.nextOwed + 1, outbox := s.outbox ++ [.engine (s.nextOwed + 1) target va k] })

/-- It is asked of another module, and its answer comes. -/
def Outbox.asks : Outbox → Bool
  | .backInvalidate .. | .engine .. => true
  | _ => false

/-- A request that its home holds has left nothing behind but what it has asked of other modules: back-invalidations, and the
write-backs of window lines. -/
def keepAsks (before after : State) : State :=
  (touchedCores after).foldl (fun s g =>
    if (getCore after g).sent = (getCore s g).sent then s else updCore s g fun c => { c with sent := (getCore after g).sent })
  { before with
    holders := after.holders
    nextOwed := after.nextOwed
    outbox := before.outbox ++ (after.outbox.drop before.outbox.length).filter Outbox.asks }

/-! ## Table entries -/

/-- The window line of the module that holds the current bytes of a table's sector: a table page is HC, whatever a leaf says of it
(R304). -/
def tableHolder (s : State) (key : Nat) : Option (Nat × Nat) :=
  (touchedCores s).findSome? fun g =>
    ((linesAtHome s g (lineKey key)).find? fun e => decide (e.2.attr = 0) || e.2.dirty.getLsbD (key % 128 / 32)).map fun e => (g, e.1)

/-- The key at which the current bytes of a table entry stand: in the scratchpad of the window that holds its line, or at home. -/
def currentKey (s : State) (key : Nat) : Nat :=
  match tableHolder s key with
  | some (g, l) => (Place.scratch g (l * 128 + key % 128)).key
  | none => key

/-- Read a table entry of die `d` at physical address `pa`, coherently (R304). -/
def tableEntry (s : State) (d pa : Nat) : Word := memWord s.mem (currentKey s (Place.dram d pa).key)

/-- A line of the module leaves the windows that hold it, written back: every window a table's line (R304), the coherent ones
another's; an error that comes home with it is to be logged (R235). -/
def takeBack (s : State) (key : Nat) (table : Bool) : State :=
  (touchedCores s).foldl (fun s g =>
    ((linesAtHome s g (lineKey key)).filter fun e => table || e.2.attr == 0).foldl
      (fun s e =>
        let r := storeSectors s g e.1 (lineKey key) e.2
        dropLine (if r.1 then queueLine r.2 (lineKey key) else r.2) g e.1) s) s

/-- Store a table entry at its home, as the CAS of a walker or an engine does (R308). -/
def putEntry (s : State) (d pa : Nat) (e : Word) : State :=
  let s1 := takeBack s (Place.dram d pa).key true
  { s1 with mem := memPutWord s1.mem (Place.dram d pa).key e }

/-- What a walk finds: a leaf (its page's first address, its size, the entry and the entry's address), or the DETAIL of the
failing level. -/
inductive Walk
  | leaf (page size : Nat) (e : Word) (pa : Nat)
  | fail (detail : BitVec 16)
  deriving DecidableEq, Repr

/-- A table entry on the way to a leaf: the cached one, or the one read (R302). -/
def pathEntry (s : State) (cache : List TlbEntry) (d page size pa : Nat) : TlbEntry :=
  match cache.find? fun t => t.page == page && t.size == size with
  | some t => t
  | none => ⟨page, size, tableEntry s d pa, pa⟩

/-- The walk of R304 from the root table at `root` in die `d`, for the address `v`, with the table entries on its way. A table page
beyond the die's memory, or a table entry with LOC = 1, fails with 0x15 (R306). -/
def walkBy (s : State) (cache : List TlbEntry) (d root v : Nat) : Walk × List TlbEntry :=
  let cap := dieBytes s d
  if cap < root + 2 ^ 16 then (.fail 0x15, [])
  else
    let t1 := pathEntry s cache d (v / 2 ^ 42 * 2 ^ 42) (2 ^ 42) (root + v / 2 ^ 42 % 2 ^ 10 * 8)
    if !leafV t1.entry || leafLf t1.entry then (.fail 0x11, [t1])
    else if leafLoc t1.entry || decide (cap < leafFrame t1.entry + 2 ^ 16) then (.fail 0x15, [t1])
    else
      let pa2 := leafFrame t1.entry + v / 2 ^ 29 % 2 ^ 13 * 8
      let t2 := pathEntry s cache d (v / 2 ^ 29 * 2 ^ 29) (2 ^ 29) pa2
      if !leafV t2.entry then (.fail 0x12, [t1, t2])
      else if leafLf t2.entry then (.leaf (v / 2 ^ 29 * 2 ^ 29) (2 ^ 29) t2.entry pa2, [t1, t2])
      else if leafLoc t2.entry || decide (cap < leafFrame t2.entry + 2 ^ 16) then (.fail 0x15, [t1, t2])
      else
        let pa3 := leafFrame t2.entry + v / 2 ^ 16 % 2 ^ 13 * 8
        let e3 := tableEntry s d pa3
        let t3 : TlbEntry := ⟨v / 2 ^ 16 * 2 ^ 16, 2 ^ 16, e3, pa3⟩
        (if !leafV e3 then .fail 0x13 else .leaf t3.page t3.size e3 pa3, [t1, t2, t3])

/-- The walk of a requester that keeps no table entries. -/
def walk (s : State) (d root v : Nat) : Walk := (walkBy s [] d root v).1

/-- What the table at `base` of a die holds within `n` bytes, in memory or in a window. -/
def tableWords (s : State) (d base n : Nat) : List Word :=
  let lo := (Place.dram d base).key
  let listed := (s.mem.filter fun c => decide (lo ≤ c.1) && decide (c.1 < lo + n)).map fun c => (c.1 - lo) / 8
  let held := (touchedCores s).flatMap fun g =>
    ((getCore s g).lines.filter fun e => decide (lo ≤ e.2.home) && decide (e.2.home < lo + n)).flatMap fun e =>
      (List.range 16).map fun i => (e.2.home - lo) / 8 + i
  (listed ++ held).eraseDups.map fun i => tableEntry s d (base + i * 8)

/-- The table pages that table entries lead to. -/
def tablesBelow (l : List Word) : List Nat := (l.filter fun e => leafV e && !leafLf e && !leafLoc e).map leafFrame

/-- The table pages of a die: those that its own root and the pool's lead to. -/
def tablePages (s : State) (d : Nat) : List Nat :=
  let root := fun (r : Word) => if bits r 0 1 = 1 then [bits r 16 32 * 2 ^ 16] else ([] : List Nat)
  let top := root (getDie s d).dtrootLive ++ if bits s.poolrootLive 2 2 = d then root s.poolrootLive else []
  let second := top.flatMap fun b => tablesBelow (tableWords s d b (2 ^ 13))
  top ++ second ++ second.flatMap fun b => tablesBelow (tableWords s d b (2 ^ 16))

/-- The attribute that governs the 64 KiB page of a leaf that an address lies on: a table page is HC whatever a leaf says of it
(R304). -/
def pageAttr (s : State) (d : Nat) (e : Word) (off : Nat) : Nat :=
  if leafAttr e = 0 ∨ leafLoc e = true ∨ leafCommit e = false then leafAttr e
  else if (tablePages s d).contains ((leafFrame e + off) / 2 ^ 16 * 2 ^ 16) then 0 else leafAttr e

/-- What an access asks of a leaf. `upgrade` and `write` set D; `probe` is a page operation that asks only for the leaf. -/
inductive Use
  | read | write | atomic | commit | pin | probe
  deriving DecidableEq, Repr

def Use.needsR : Use → Bool
  | .read | .pin => true
  | _ => false

/-- W = 0 denies a use, and R = 0 an atomic. -/
def Use.denied (u : Use) (e : Word) : Bool :=
  match u with
  | .write | .commit => !leafW e
  | .atomic => !leafW e || !leafR e
  | _ => false

def Use.setsD : Use → Bool
  | .write | .atomic => true
  | _ => false

/-- A leaf that is no leaf at all: ATTR = 3, MIG = 3, an uncommitted 512 MiB leaf, or one whose frame is not on its own size. -/
def leafMalformed (size : Nat) (e : Word) : Bool :=
  leafAttr e == 3 || leafMig e == 3 ||
    (size == 2 ^ 29 && (!leafCommit e || leafFrame e % 2 ^ 29 != 0))

/-- The requester is not the owner of a CP page. -/
def notOwner (a : Agent) (attr : Nat) (e : Word) : Bool := attr == 2 && a.core != some (leafOwner e)

/-- The checks of R306 in their order. `pool`: the leaf is the pool translator's, which needs LOC = 1 (R398); of an uncommitted leaf
FRAME and LOC are ignored (R310), and a page operation meets its other checks. `off`: the access's offset in the leaf. -/
def leafCheck (s : State) (d : Nat) (pool : Bool) (a : Agent) (u : Use) (size : Nat) (e : Word) (off : Nat) :
    Option (BitVec 8 × BitVec 16) :=
  if leafMalformed size e then some (causeTranslation, 0x14)
  else if pool && leafCommit e && !leafLoc e then some (causeTranslation, 0x16)
  else if !leafLoc e && leafCommit e && decide (dieBytes s d < leafFrame e + size) then some (causeTranslation, 0x15)
  else if !leafCommit e && u != .commit && u != .probe then some (causeSparse, 0)
  else if u.needsR && !leafR e then some (causePermission, 1)
  else if u.denied e then some (causePermission, 2)
  else if u != .probe && notOwner a (pageAttr s d e off) e then some (causeAttribute, 4)
  else none

/-- An entry that an MTLB may keep (R302). -/
def cacheable (size : Nat) (e : Word) : Bool :=
  leafV e && leafMig e == 0 && !leafMalformed size e && leafCommit e

/-- The die that hands a request of die `src` to another die `d` (R340, R341): a direct link, the row boundary first to a die
that is no neighbour, or the way round a link that is down. -/
def lastHop (s : State) (src d : Nat) : Nat :=
  let row := Nat.xor d 1
  let column := Nat.xor d 2
  if src = row then (if (getDie s d).rowDown then column else row)
  else if src = column then (if (getDie s d).columnDown then row else column)
  else if (getDie s src).rowDown then row else column

/-- The MTLB that serves the requests of a neighbouring die: 4 for the lower of the two, else 5. -/
def neighbourPort (d e : Nat) : Nat := if e = min (Nat.xor d 1) (Nat.xor d 2) then 4 else 5

/-- The I/O die that a die is linked to (R339): 0 for IO-A, 1 for IO-B. -/
def ioDieOf (d : Nat) : Nat := d % 2

/-- Both links of a die to its I/O die are down. -/
def ioCut (s : State) (d : Nat) : Bool := decide (2 ≤ (getDie s d).ioDown)

/-- The MTLB that serves a request at die `d` (R302, R340). A request of an I/O die enters by the die's own link to its I/O die; where
both of those are down, by the other edge, over the row boundary (DESIGN CHOICE, log 69). -/
def portOf (s : State) (a : Agent) (d : Nat) : Nat :=
  match a.ingress with
  | .io => if ioCut s d then neighbourPort d (if (getDie s d).rowDown then Nat.xor d 2 else Nat.xor d 1) else 6
  | .engine e => if e = d then 7 else neighbourPort d (lastHop s e d)
  | .cluster c => if c / 4 = d then c % 4 else neighbourPort d (lastHop s (c / 4) d)

/-- The cached leaf that covers an address. -/
def tlbFind (l : List TlbEntry) (v : Nat) : Option TlbEntry := l.find? fun t => t.page ≤ v && v < t.page + t.size

/-- Drop the cached leaves that overlap a range. -/
def tlbDrop (l : List TlbEntry) (lo n : Nat) : List TlbEntry :=
  l.filter fun t => !(t.page < lo + n && lo < t.page + t.size)

/-- The cached leaves of a port of a die. -/
def mtlb (s : State) (d port : Nat) : List TlbEntry := smGet [] (getDie s d).mtlb port

def setMtlb (s : State) (d port : Nat) (l : List TlbEntry) : State :=
  updDie s d fun k => { k with mtlb := smSet [] k.mtlb port l }

/-- The table entries that a port of a die keeps (R302). -/
def tablePaths (s : State) (d port : Nat) : List TlbEntry := smGet [] (getDie s d).paths port

/-- The sharer bitmap of a line of a table page (R307): the MTLBs of the die that keep an entry of it. -/
def sharers (s : State) (d line : Nat) : List Nat :=
  (List.range 8).filter fun p => (mtlb s d p ++ tablePaths s d p).any fun t => t.entryPa / 128 == line

/-- A translator: a die's MTLB port, or the pool translator on its table die. -/
inductive Translator
  | die (d port : Nat)
  | pool (d : Nat)
  deriving DecidableEq, Repr

def Translator.tableDie : Translator → Nat
  | .die d _ => d
  | .pool d => d

def Translator.isPool : Translator → Bool
  | .die .. => false
  | .pool _ => true

def Translator.cache (t : Translator) (s : State) : List TlbEntry :=
  match t with
  | .die d p => mtlb s d p
  | .pool _ => s.poolTlb

def Translator.setCache (t : Translator) (s : State) (l : List TlbEntry) : State :=
  match t with
  | .die d p => setMtlb s d p l
  | .pool _ => { s with poolTlb := l }

/-- The leaves that a translator holds at most (R302, R398). -/
def Translator.capacity : Translator → Nat
  | .die .. => 2048
  | .pool _ => 4096

/-- Keep a leaf; the oldest goes where there is no room (DESIGN CHOICE, log 36: the spec names no order). -/
def Translator.keep (t : Translator) (s : State) (c : TlbEntry) : State := t.setCache s ((c :: t.cache s).take t.capacity)

/-- The table entries that a translator keeps: those of an MTLB; the pool translator keeps leaves only (R398). -/
def Translator.paths (t : Translator) (s : State) : List TlbEntry :=
  match t with
  | .die d p => tablePaths s d p
  | .pool _ => []

/-- Keep the table entries of a walk that lead on: an entry with V = 0 is never kept (R302). -/
def Translator.keepPaths (t : Translator) (s : State) (l : List TlbEntry) : State :=
  match t with
  | .die d p =>
    let fresh := l.filter fun x => x.size != 2 ^ 16 && leafV x.entry && !leafLf x.entry && !(tablePaths s d p).contains x
    if fresh.isEmpty then s else updDie s d fun k => { k with paths := smSet [] k.paths p (fresh ++ tablePaths s d p) }
  | .pool _ => s

/-- The root that the translator walks from (R303, R398), with the DETAIL of a disabled one. -/
def Translator.root (t : Translator) (s : State) : Except (BitVec 16) Nat :=
  match t with
  | .die d _ =>
    let r := (getDie s d).dtrootLive
    if bits r 0 1 = 1 then .ok (bits r 16 32 * 2 ^ 16) else .error 0
  | .pool _ => if bits s.poolrootLive 0 1 = 1 then .ok (bits s.poolrootLive 16 32 * 2 ^ 16) else .error 0x17

/-- The holders in other modules of what a walk has read: the reads are coherent (R304). -/
def walkHolders (s : State) (t : Translator) (l : List TlbEntry) : List RemoteHolder :=
  (l.filter fun x => !(t.paths s).contains x).flatMap fun x => holdersOf s (Place.dram t.tableDie x.entryPa).key 8 false

/-- Set A in a leaf that a walker is to keep (R308). -/
def setAccessed (t : Translator) (pa : Nat) (e : Word) (s : State) (go : State → Got TlbEntry) : Got TlbEntry :=
  if leafA e then go s
  else awaitHolders (holdersOf s (Place.dram t.tableDie pa).key 8 true) true s fun s => go (putEntry s t.tableDie pa (e ||| 8))

/-- A leaf for an address: the cached one, or that of a walk, which is cached with A set where it may be (R302, R308). Only a walk
needs the die of the tables (R348). -/
def findLeaf (t : Translator) (va : Word) (s : State) (v : Nat) : Got TlbEntry :=
  match t.root s with
  | .error d => .fault ⟨causeTranslation, d, va⟩ s
  | .ok root =>
    match tlbFind (t.cache s) v with
    | some c => .ok c s
    | none =>
      if !(getDie s t.tableDie).online then .fault ⟨causeOffline, 0, va⟩ s
      else
      let w := walkBy s (t.paths s) t.tableDie root v
      awaitHolders (walkHolders s t w.2) false s fun s =>
        let s1 := t.keepPaths s w.2
        match w.1 with
        | .fail d => .fault ⟨causeTranslation, d, va⟩ s1
        | .leaf page size e pa =>
          if cacheable size e then
            setAccessed t pa e s1 fun s2 => .ok ⟨page, size, e ||| 8, pa⟩ (t.keep s2 ⟨page, size, e ||| 8, pa⟩)
          else .ok ⟨page, size, e, pa⟩ s1

/-- A page's translation for a use, with D set before a store (R308). `fuel` bounds the walks again after a failed CAS. -/
def pageFor (fuel : Nat) (t : Translator) (a : Agent) (u : Use) (va : Word) (s : State) (v : Nat) : Got TlbEntry :=
  (findLeaf t va s v).bind fun c s1 =>
    match leafCheck s1 t.tableDie t.isPool a u c.size c.entry (v - c.page) with
    | some (cause, d) => .fault ⟨cause, d, va⟩ s1
    | none =>
      if leafMig c.entry = 2 ∨ (leafMig c.entry = 1 ∧ u ≠ .read) then .held s1
      else if u.setsD && !leafD c.entry then
        if !(getDie s1 t.tableDie).online then .fault ⟨causeOffline, 0, va⟩ s1
        else
        awaitHolders (holdersOf s1 (Place.dram t.tableDie c.entryPa).key 8 true) true s1 fun s1 =>
          let now := tableEntry s1 t.tableDie c.entryPa
          let dropped := (t.cache s1).filter (· ≠ c)
          if now = c.entry then
            let c' := { c with entry := c.entry ||| 16 }
            .ok c' (t.setCache (putEntry s1 t.tableDie c.entryPa c'.entry) (if dropped = t.cache s1 then dropped else c' :: dropped))
          else
            match fuel with
            | 0 => .held s1
            | n + 1 => pageFor n t a u va (t.setCache s1 dropped) v
      else .ok c s1

/-- A translated access: the memory key of its first byte, the page's attribute, and the leaf. -/
structure Target where
  key : Nat
  attr : Nat
  leaf : TlbEntry
  deriving DecidableEq, Repr

/-- The state of a pool region (R405): 0 OFFLINE, 1 ONLINE, 2 DEGRADED, 3 LOST. -/
def regionState (s : State) (r : Nat) : Nat := bits (smGet 0 s.regions r) 0 2

/-- BI of a region. -/
def regionBi (s : State) (r : Nat) : Bool := bits (smGet 0 s.regions r) 20 1 = 1

/-- The region check of R406 and the HC rule of R403 on a pool page. -/
def regionCheck (s : State) (attr ppa : Nat) : Option (BitVec 8 × BitVec 16) :=
  let r := ppa / 2 ^ 30
  if regionState s r = 3 then some (causeRegion, 1)
  else if regionState s r = 0 then some (causeRegion, 2)
  else if attr = 0 ∧ !regionBi s r then some (causeAttribute, 5)
  else none

/-- The place a leaf gives an address. -/
def targetOf (s : State) (t : Translator) (c : TlbEntry) (v : Nat) : Target :=
  let pa := leafFrame c.entry + (v - c.page)
  ⟨if leafLoc c.entry then (Place.pool pa).key else (Place.dram t.tableDie pa).key, pageAttr s t.tableDie c.entry (v - c.page), c⟩

/-- Translate by a translator, with the region check of a pool page. -/
def translateBy (t : Translator) (a : Agent) (u : Use) (va : Word) (s : State) (v : Nat) : Got Target :=
  (pageFor 2 t a u va s v).bind fun c s1 =>
    let g := targetOf s1 t c v
    if leafLoc c.entry && leafCommit c.entry then
      match regionCheck s1 g.attr (leafFrame c.entry + (v - c.page)) with
      | some (cause, d) => .fault ⟨cause, d, va⟩ s1
      | none => .ok g s1
    else .ok g s1

/-! ## Routes of the fabric (R357, R359, R360, R363) -/

/-- A position that holds a module which is alive: a port that leads elsewhere is down (R357, R371). -/
def positionUp (s : State) (m : Nat) : Bool := m == s.moduleId.toNat || (s.modules.contains m && !s.dead.contains m)

/-- The link between two positions of a row or a column works, where those of `down` do not. -/
def linkUp (s : State) (down : List (Nat × Nat)) (a b : Nat) : Bool :=
  positionUp s a && positionUp s b && !down.contains (min a b, max a b)

/-- The hops of the minimal route between two modules, row first (R359). -/
def minimalHops (a b : Nat) : List (Nat × Nat) :=
  let corner := a / 16 * 16 + b % 16
  (if a = corner then [] else [(a, corner)]) ++ if corner = b then [] else [(corner, b)]

/-- A hop, or the two hops round it: by the module of the same row or column with the lowest column or row number whose links work
(R360, R363). -/
def hopLinks (s : State) (down : List (Nat × Nat)) (h : Nat × Nat) : Option (List (Nat × Nat)) :=
  if linkUp s down h.1 h.2 then some [h]
  else
    ((List.range 16).map fun i => if h.1 / 16 = h.2 / 16 then h.1 / 16 * 16 + i else 16 * i + h.1 % 16).findSome? fun x =>
      if x ≠ h.1 ∧ x ≠ h.2 ∧ linkUp s down h.1 x = true ∧ linkUp s down x h.2 = true then some [(h.1, x), (x, h.2)] else none

/-- The route to a module where the links of `down` do not work. -/
def routeTo (s : State) (down : List (Nat × Nat)) (m : Nat) : Option (List (Nat × Nat)) :=
  (minimalHops s.moduleId.toNat m).foldr (fun h acc => match hopLinks s down h, acc with
    | some l, some r => some (l ++ r)
    | _, _ => none) (some [])

/-- Some route leads to a module. -/
def hasRoute (s : State) (m : Nat) : Bool := (routeTo s s.linksDown m).isSome

/-- A module that the fabric does not hold (R358) or that is dead (R371), as an access meets it. Where no route leads to it, the
requests of a task are held with their stream, whose drain ends them (R363), and those of an engine end at once. -/
def remoteFate (s : State) (a : Agent) (m : BitVec 8) (va : Word) : Got α :=
  if m.toNat ∈ s.dead then .fault ⟨causeDead, 0, va⟩ s
  else if m.toNat ∉ s.modules then .fault ⟨causeTranslation, 7, va⟩ s
  else if a.core.isSome || hasRoute s m.toNat then .remote m s
  else .fault ⟨causeDead, 0, va⟩ s

/-- Translate any device-global or pool address for a requester (R300). -/
def translate (a : Agent) (u : Use) (va : Word) (s : State) : Got Target :=
  match a.space s va with
  | .device d off =>
    if (getDie s d).online then translateBy (.die d (portOf s a d)) a u va s off
    else .fault ⟨causeOffline, 0, va⟩ s
  | .remote m _ _ => remoteFate s a m va
  | .pool pva => translateBy (.pool (bits s.poolrootLive 2 2)) a u va s pva
  | _ => .fault ⟨causeTranslation, 0, va⟩ s

end Sys2Proof.Machine
end

