-- ==== Sys2Proof/Machine/Window.lean ====
section
/-! DEFINITION. Memory as agents reach it: homes with recalls from stash windows (R232), poison (R343), peer scratchpads
(R217, R218, R230), and the stash windows of a core (R226 to R234). -/

namespace Sys2Proof.Machine

/-- VA of a window, its scratchpad offset and its length in bytes (R226). -/
def winVa (w : Word) : Nat := bits w 16 48 * 2 ^ 16
def winOff (w : Word) : Nat := bits w 12 4 * 2 ^ 16
def winLen (w : Word) : Nat := bits w 7 5 * 2 ^ 16
def winValid (w : Word) : Bool := bits w 0 1 = 1

/-- The valid windows of a core with their numbers. -/
def validWindows (c : Core) : List (Nat × Word) := c.smap.filter fun e => winValid e.2

/-- The valid window whose address range holds an address. -/
def windowAt (c : Core) (va : Nat) : Option (Nat × Word) :=
  (validWindows c).find? fun e => winVa e.2 ≤ va && va < winVa e.2 + winLen e.2

/-- The valid window whose scratchpad range holds an offset. -/
def windowAtOff (c : Core) (off : Nat) : Option (Nat × Word) :=
  (validWindows c).find? fun e => winOff e.2 ≤ off && off < winOff e.2 + winLen e.2

/-! ## Window lines and their homes -/

/-- The key of another module's line in `Line.home`. -/
def remoteHome (va : Nat) : Nat := 2 ^ 60 + va

/-- The global or pool address of a scratchpad line of a window. -/
def lineVa (c : Core) (l : Nat) : Word :=
  match windowAtOff c (l * 128) with
  | some (_, w) => word (winVa w + (l * 128 - winOff w))
  | none => 0

/-- Where a dirty line goes now: a home; nowhere, since its page is uncommitted (R312); its write-back waits, since its page moves or
turns (R314, R319) or other modules hold what the walk reads (R304); or it meets a fault. -/
inductive LineHome
  | at (home : Nat)
  | nowhere
  | waits (asks : List RemoteHolder)
  | fault (f : FaultRec)
  deriving DecidableEq, Repr

/-- The holders in other modules of the table lines that a walk for an address reads (R304). -/
def leafAsks (t : Translator) (s : State) (v : Nat) : List RemoteHolder :=
  match t.root s, tlbFind (t.cache s) v with
  | .ok root, none => walkHolders s t (walkBy s (t.paths s) t.tableDie root v).2
  | _, _ => []

/-- The leaf that an address has now, whatever moves (R312, R410). -/
def leafNow (t : Translator) (va : Word) (s : State) (v : Nat) : Except FaultRec TlbEntry :=
  match t.root s with
  | .error d => .error ⟨causeTranslation, d, va⟩
  | .ok root =>
    match tlbFind (t.cache s) v with
    | some c => .ok c
    | none =>
      if !(getDie s t.tableDie).online then .error ⟨causeOffline, 0, va⟩
      else
      match (walkBy s (t.paths s) t.tableDie root v).1 with
      | .fail d => .error ⟨causeTranslation, d, va⟩
      | .leaf page size e pa => .ok ⟨page, size, e, pa⟩

/-- The translator that serves an address for a requester, and the address in its space. -/
def translatorNow (s : State) (ag : Agent) (va : Word) : Option (Translator × Nat) :=
  match ag.space s va with
  | .device d off => some (.die d (portOf s ag d), off)
  | .pool pva => some (.pool (bits s.poolrootLive 2 2), pva)
  | _ => none

/-- The write-back of a line translates anew, and counts as a store where its page moves or turns (R314, R319, R331). -/
def homeNow (t : Translator) (a : Agent) (va : Word) (s : State) (v : Nat) : LineHome :=
  if !(leafAsks t s v).isEmpty then .waits (leafAsks t s v)
  else
  match leafNow t va s v with
  | .error f => .fault f
  | .ok c =>
    match leafCheck s t.tableDie t.isPool a .probe c.size c.entry (v - c.page) with
    | some (cause, d) => .fault ⟨cause, d, va⟩
    | none =>
      let g := targetOf s t c v
      if leafMig c.entry ≠ 0 then .waits []
      else if !leafCommit c.entry then .nowhere
      else
        match if leafLoc c.entry then regionCheck s g.attr (leafFrame c.entry + (v - c.page)) else none with
        | some (cause, d) => .fault ⟨cause, d, va⟩
        | none => .at (lineKey g.key)

/-- Where a dirty line of a core goes: an HC line to its recorded home, since every change of the page recalls it first; an SC or CP
line to the frame its page has now (R312). A die in reset takes nothing (R348), but a page whose frame is in the pool has its home
there (R402). -/
def lineHome (s : State) (g l : Nat) (ln : Line) : LineHome :=
  let va := lineVa (getCore s g) l
  if 2 ^ 60 ≤ ln.home then .at ln.home
  else if ln.attr = 0 then
    match placeOf ln.home with
    | .dram d _ => if (getDie s d).online then .at ln.home else .fault ⟨causeOffline, 0, va⟩
    | _ => .at ln.home
  else
    match spaceOf s none none va with
    | .device d off =>
      if !(getDie s d).online then .fault ⟨causeOffline, 0, va⟩
      else homeNow (.die d (portOf s (Agent.ofCore g) d)) (Agent.ofCore g) va s off
    | .pool pva => homeNow (.pool (bits s.poolrootLive 2 2)) (Agent.ofCore g) va s pva
    | _ => .at ln.home

/-- The fault that the write-back of a line of a core meets: its sectors stay (R348). -/
def lineFault (s : State) (g : Nat) (e : Nat × Line) : Option FaultRec :=
  if e.2.dirty = 0 then none
  else
    match lineHome s g e.1 e.2 with
    | .fault f => some f
    | _ => none

/-- The dirty sectors of a line cannot leave it now. -/
def lineStays (s : State) (g : Nat) (e : Nat × Line) : Bool :=
  e.2.dirty != 0 && (match lineHome s g e.1 e.2 with
    | .fault _ | .waits _ => true
    | _ => false)

/-- Count discarded sectors for the running task (R318). -/
def countDiscards (s : State) (n : Nat) : State :=
  { s with task := { s.task with discards := word ((s.task.discards.toNat + n) % 2 ^ 32) } }

/-! ## The error log (R355) -/

/-- Write a record at its place, coherently: held where its page moves or another module holds a line of it. -/
def ringStore (a : Agent) : List (Word × List Byte) → State → Got Unit
  | [], s => .ok () s
  | p :: rest, s => (translate a .write p.1 s).bind fun t s1 =>
      awaitHolders (holdersOf s1 t.key p.2.length true) true s1 fun s1 =>
        let s2 := (linesOf t.key p.2.length).foldl (fun s l => takeBack s l false) s1
        ringStore a rest (cleanRange { s2 with mem := memStore s2.mem t.key p.2 } t.key p.2.length)

/-- A write of bytes that may cross a page, by page. -/
def pageParts (va : Word) (b : List Byte) : List (Word × List Byte) :=
  let room := 2 ^ 16 - va.toNat % 2 ^ 16
  if b.length ≤ room then [(va, b)] else [(va, b.take room), (va + word room, b.drop room)]

/-- Who writes a ring: a die's controller, the proxy on the I/O die. -/
def RecordRing.writer : RecordRing → Agent
  | .errors d | .faults d => Agent.ofDie d
  | .lost => ⟨none, .io⟩

/-- A record goes to its ring behind those that wait (R355, R407): written, with the head past it, or waiting while its place is held.
A ring that cannot be written takes nothing. -/
def putRecord (r : RecordRing) (b : List Byte) (s : State) : State :=
  if r.pending s ≠ 0 then queueRecord r b s
  else
    match ringStore r.writer (pageParts (r.place s) b) s with
    | .ok _ s1 => r.advance s1
    | .held s1 => queueRecord r b s1
    | _ => s

/-- The records that wait are tried again, in order. -/
def flushRecords (s : State) : State :=
  match s.records with
  | [] => s
  | l => l.foldl (fun s x => putRecord x.1 x.2 s) { s with records := [] }

/-- Log an event with a die controller (R355), with the words that the specification says the record holds: the ring's layout is
open otherwise. Nothing is logged where the ring is not set up or has no room. -/
def logWords (s : State) (d : Nat) (l : List Word) : State :=
  if (RecordRing.errors d).full s then s
  else
    let r := recordOf s l
    putRecord (.errors d) r.1 r.2

/-- Log an event of which the specification names no word. -/
def logError (s : State) (d : Nat) : State := logWords s d []

/-- Log the address of a line whose error has come to its home (R235, R343). -/
def logLine (s : State) (key : Nat) : State := logWords s (logDieOf s key) [lineAddress key]

/-- An uncorrectable error of a line at its home: poisoned, and its address logged (R343). -/
def markLine (s : State) (key : Nat) : State := logLine (poisonLine s key) key

/-! ## Write-backs -/

/-- The requests that write the dirty sectors of a line back to its home on another module (R366), with the sectors of each: a sector
with an uncorrectable error is not among the bytes, and the home is told of it by a write-back of none (R235). -/
def sectorRequests (s : State) (g l : Nat) (ln : Line) : List (Nat × List Byte × BitVec 4) :=
  let bad := (dirtyList ln).filter fun i => sectorBad (getCore s g) (l * 128 + i * 32) 32
  let good := (dirtyList ln).filter fun i => !bad.contains i
  let bytes := fun (off n : Nat) => memBytes s.mem (Place.scratch g (l * 128 + off)).key n
  bad.map (fun i => (i * 32, [], BitVec.ofNat 4 (2 ^ i)))
    ++ if good.length = 4 then [(0, bytes 0 128, 0xF)] else good.map fun i => (i * 32, bytes (i * 32) 32, BitVec.ofNat 4 (2 ^ i))

/-- Ask the home of a line on another module for something about it; it is outstanding until the home acknowledges it. -/
def sendLine (g l : Nat) (va : Word) (k : RemoteKind) (mask : BitVec 4) (release : Bool) (s : State) : State :=
  let q := askRemote s (BitVec.ofNat 8 (bits va 54 8)) va k
  updCore q.2 g fun c => { c with sent := c.sent ++ [⟨l, va, q.1, mask, release, none⟩] }

/-- The sectors of a line leave for its home on another module: they stay dirty until it has them. -/
def sendSectors (s : State) (g l : Nat) (ln : Line) : State :=
  let s1 := (dirtyList ln).foldl (fun s i => consumeBad s g (l * 128 + i * 32) 32) s
  (sectorRequests s g l ln).foldl (fun s x => sendLine g l (word (ln.home - 2 ^ 60 + x.1)) (.writeBack x.2.1) x.2.2 false s) s1

/-- Write the dirty sectors of a line of the module at scratchpad line `l` of core `g` back to its home (R232, R233): a bad one carries
its error there (R235). Sectors whose page is uncommitted are discarded (R312). -/
def writeBackLine (s : State) (g l : Nat) (ln : Line) : State :=
  match lineHome s g l ln with
  | .at home =>
    let r := storeSectors s g l home ln
    if r.1 then logLine r.2 home else r.2
  | _ => s

/-- Write a line of the module back and leave it clean, or drop it after the write-back. A dirty line that cannot be written back
stays. -/
def cleanOrDrop (s : State) (g l : Nat) (ln : Line) (drop : Bool) : State :=
  if lineStays s g (l, ln) then s
  else
    let s1 := if ln.dirty = 0 then s else writeBackLine s g l ln
    if drop then dropLine s1 g l else putLine s1 g l { ln with dirty := 0, exclusive := false }

/-- Recall an HC line from every window that holds it (R232): a read leaves it clean, a write drops it. -/
def recallLine (s : State) (home : Nat) (drop : Bool) : State :=
  (touchedCores s).foldl (fun s g =>
    (linesAtHome s g home).foldl (fun s e => if e.2.attr = 0 then cleanOrDrop s g e.1 e.2 drop else s) s) s

/-- Recall the HC lines of a range. -/
def recallRange (s : State) (key n : Nat) (drop : Bool) : State :=
  (linesOf key n).foldl (fun s l => recallLine s l drop) s

/-- Read a range at its home as another agent does: recalled first, refused where poisoned (R232, R343). -/
def homeRead (s : State) (key n : Nat) (va : Word) : Got (List Byte) :=
  awaitHolders (holdersOf s key n false) false s fun s =>
    let s1 := recallRange s key n false
    if rangePoisoned s1 key n then .fault ⟨causePoison, 0, va⟩ s1 else .ok (memBytes s1.mem key n) s1

/-- Write a range at its home. -/
def homeWrite (s : State) (key : Nat) (b : List Byte) : Got Unit :=
  awaitHolders (holdersOf s key b.length true) true s fun s =>
    let s1 := recallRange s key b.length true
    .ok () (cleanRange { s1 with mem := memStore s1.mem key b } key b.length)

/-! ## Accesses of agents, without windows -/

/-- Read a scratchpad from outside its core's windows: a peer's access (R218, R230, R235). -/
def scratchRead (s : State) (peer : Bool) (g off n : Nat) (va : Word) : Got (List Byte) :=
  let c := getCore s g
  if peer && (windowAtOff c off).isSome then .fault ⟨causeAttribute, 3, va⟩ s
  else if sectorBad c off n then .fault ⟨causePoison, 0, va⟩ (consumeBad s g off n)
  else .ok (memBytes s.mem (Place.scratch g off).key n) s

/-- Write a scratchpad from outside its core's windows. -/
def scratchWrite (s : State) (peer : Bool) (g off : Nat) (b : List Byte) (va : Word) : Got Unit :=
  if peer && (windowAtOff (getCore s g) off).isSome then .fault ⟨causeAttribute, 3, va⟩ s
  else
    let s1 := { s with mem := memStore s.mem (Place.scratch g off).key b }
    .ok () (if b.length % 32 = 0 then updCore s1 g fun c => mendSectors c off b.length else s1)

/-- A requester's read of `n` bytes that do not cross a page (R300). -/
def agentRead (a : Agent) (va : Word) (n : Nat) (s : State) : Got (List Byte) :=
  match a.space s va with
  | .scratch g off => scratchRead s (a.core != some g) g off n va
  | _ => (translate a .read va s).bind fun t s1 => homeRead s1 t.key n va

/-- A requester's write that does not cross a page. -/
def agentWrite (a : Agent) (va : Word) (b : List Byte) (s : State) : Got Unit :=
  match a.space s va with
  | .scratch g off => scratchWrite s (a.core != some g) g off b va
  | _ => (translate a .write va s).bind fun t s1 => homeWrite s1 t.key b

/-- A requester's indivisible read-modify-write at the place of execution (R291): `f` gives the bytes to store, if any. -/
def agentRmw (a : Agent) (va : Word) (n : Nat) (f : List Byte → Option (List Byte)) (s : State) : Got (List Byte) :=
  match a.space s va with
  | .scratch g off =>
    (scratchRead s (a.core != some g) g off n va).bind fun old s1 =>
      match f old with
      | none => .ok old s1
      | some b => (scratchWrite s1 false g off b va).bind fun _ s2 => .ok old s2
  | _ => (translate a .atomic va s).bind fun t s1 =>
      awaitHolders (holdersOf s1 t.key n true) true s1 fun s1 =>
        let s2 := recallRange s1 t.key n true
        (homeRead s2 t.key n va).bind fun old s3 =>
          match f old with
          | none => .ok old s3
          | some b => .ok old { s3 with mem := memStore s3.mem t.key b }

/-! ## The windows of the active core, as its running task sees them -/

/-- The address an own-core access stands for: a local-aperture address of the own core inside a window is the window's
address (R229). -/
def windowAlias (s : State) (va : Word) : Word :=
  match spaceOf s (some (clusterOf s.active)) (some s.active) va with
  | .scratch g off =>
    if g = s.active then
      match windowAtOff s.core off with
      | some (_, w) => word (winVa w + (off - winOff w))
      | none => va
    else va
  | _ => va

/-- Where an own-scratchpad access lands (R218): plain scratchpad, or a window line. -/
inductive OwnSpot
  | plain (off : Nat)
  | window (off : Nat)
  deriving DecidableEq, Repr

def OwnSpot.off : OwnSpot → Nat
  | .plain o => o
  | .window o => o

/-- An address of the own scratchpad, or in the range of a valid window of the running task's launch (R218, R229, R412). -/
def ownPlace (s : State) (va : Word) : Option OwnSpot :=
  let v := windowAlias s va
  match spaceOf s (some (clusterOf s.active)) (some s.active) v with
  | .scratch g off => if g = s.active then some (.plain off) else none
  | .nowhere => none
  | _ =>
    match windowAt s.core v.toNat with
    | some (n, w) => if smGet 0 s.core.winLaunch n = s.task.launchId then some (.window (winOff w + (v.toNat - winVa w))) else none
    | none => none

/-- The own-scratchpad place that serves an address for the running task, if one does: not a line that its home on another module keeps
(R316). -/
def ownSpot (s : State) (va : Word) : Option OwnSpot :=
  (ownPlace s va).filter fun p => match p with
    | .plain _ => true
    | .window off => !s.core.pass.contains (off / 128)

/-- The one form of an address among those of the same byte of a scratchpad or window of the cluster (R217, R229). -/
def plainVa (s : State) (va : Word) : Word :=
  let v := windowAlias s va
  match spaceOf s (some (clusterOf s.active)) (some s.active) v with
  | .scratch g off => word (2 ^ 63 + g % 48 * 2 ^ 26 + off)
  | _ => v

/-- Two lists of ranges share a byte. -/
def spansMeet (s : State) (l m : List (Word × Nat)) : Bool :=
  l.any fun x => m.any fun y =>
    let a := (plainVa s x.1).toNat
    let b := (plainVa s y.1).toNat
    decide (a < b + y.2) && decide (b < a + x.2)

/-- The running task has written bytes that a zqdbg watch names: its core stops (R88). -/
def watchWrites (l : List (Word × Nat)) (s : State) : State :=
  if s.breaks.any fun b => match b.2 with
      | .watch va n => spansMeet s [(va, n)] l
      | _ => false
  then { s with core := { s.core with stopped := true } } else s

/-- What a window access still needs of a line: a first-touch fill, or an upgrade before a store (R231). -/
def fillNeeded (s : State) (spot : OwnSpot) (write : Bool) : Option Fill :=
  match spot with
  | .plain _ => none
  | .window off =>
    match smFind s.core.lines (off / 128) with
    | none => some ⟨off / 128, false, true, none, none⟩
    | some ln => if write && !ln.exclusive then some ⟨off / 128, true, true, none, none⟩ else none

/-- The fault of a fill that failed for a line, kept until the touching instruction takes it (R231). -/
def fillFault (s : State) (f : Fill) : Option (BitVec 8 × BitVec 16) :=
  (s.core.fills.find? fun x => x.line == f.line && x.upgrade == f.upgrade && x.failed.isSome).bind (·.failed)

/-- Bring a line in from its home (R231): translated and checked for R, with the page's attribute recorded. Other holders of
an HC line are recalled to clean. A poisoned line is not brought in: its reader consumes the poison. -/
def fillLine (s : State) (g l : Nat) : Got Unit :=
  let va := lineVa (getCore s g) l
  (translate (Agent.ofCore g) .read va s).bind fun t s1 =>
    let key := lineKey t.key
    awaitHolders (holdersOf s1 key 128 false) false s1 fun s1 =>
      let s2 := recallLine s1 key false
      if linePoisoned s2 key then .fault ⟨causePoison, 0, va⟩ s2
      else
        let s3 := { s2 with mem := memMove s2.mem key (Place.scratch g (l * 128)).key 128 }
        let s4 := updCore s3 g fun c => mendSectors c (l * 128) 128
        .ok () (putLine s4 g l ⟨0, false, t.attr, key⟩)

/-- Take a line for writing (R231): checks W, sets D, and for HC takes it from every other holder. -/
def upgradeLine (s : State) (g l : Nat) : Got Unit :=
  let va := lineVa (getCore s g) l
  (translate (Agent.ofCore g) .write va s).bind fun t s1 =>
    let key := lineKey t.key
    awaitHolders (holdersOf s1 key 128 true) true s1 fun s1 =>
      let s2 := (touchedCores s1).foldl (fun s h =>
        if h = g then s
        else (linesAtHome s h key).foldl (fun s e => if e.2.attr = 0 then cleanOrDrop s h e.1 e.2 true else s) s) s1
      match smFind (getCore s2 g).lines l with
      | some ln => .ok () (putLine s2 g l { ln with exclusive := true })
      | none => .ok () s2

/-- The bytes of an own-scratchpad range (R97: as they stand at the read point), or the consumption of a bad sector (R235). -/
def ownRead (s : State) (off n : Nat) (va : Word) : Got (List Byte) :=
  if sectorBad s.core off n then .fault ⟨causePoison, 0, va⟩ (consumeBad s s.active off n)
  else .ok (memBytes s.mem (Place.scratch s.active off).key n) s

/-- The sectors of a scratchpad line that a range meets. -/
def sectorMask (l off n : Nat) : BitVec 4 := BitVec.ofNat 4 ((List.range 4).foldl (fun a i =>
  if l * 128 + i * 32 < off + n ∧ off < l * 128 + i * 32 + 32 then a + 2 ^ i else a) 0)

/-- Mark the sectors of window lines that a store writes (R231): what is on its way home is older. -/
def dirtySectors (c : Core) (off n : Nat) : Core :=
  { c with
    lines := c.lines.map fun e =>
      if e.1 * 128 < off + n ∧ off < e.1 * 128 + 128 then (e.1, { e.2 with dirty := e.2.dirty ||| sectorMask e.1 off n }) else e
    sent := c.sent.map fun x => { x with mask := x.mask &&& ~~~ sectorMask x.line off n } }

/-- Store into the own scratchpad or a window line of it, mending the sectors a vector store covers whole (R235). -/
def ownStore (s : State) (spot : OwnSpot) (b : List Byte) : State :=
  let c1 := if b.length % 32 = 0 then mendSectors s.core spot.off b.length else s.core
  let c2 := match spot with
    | .plain _ => c1
    | .window off => dirtySectors c1 off b.length
  { s with core := c2, mem := memStore s.mem (Place.scratch s.active spot.off).key b }

/-! ## Lines that leave their windows (R228, R229, R233, R331) -/

/-- A request about a line is outstanding at its home on another module. -/
def lineAsked (c : Core) (l : Nat) : Bool := c.sent.any fun x => x.line == l

/-- A request about a line that has ended in a fault is taken note of. -/
def takeFailed (s : State) (g : Nat) (x : Sent) : State := updCore s g fun c => { c with sent := c.sent.filter (· != x) }

/-- Line `l` of core `g` is written back, and with `drop` leaves the window: a line of another module once its home has acknowledged its
sectors, and then that it is held no more. Discarded sectors count for the running task where `count` (R318). -/
def returnLine (drop count : Bool) (g : Nat) (e : Nat × Line) (s : State) : Got Unit :=
  if 2 ^ 60 ≤ e.2.home then
    match (getCore s g).sent.find? fun x => x.line == e.1 && x.failed.isSome with
    | some x => .fault ⟨(x.failed.getD (0, 0)).1, (x.failed.getD (0, 0)).2, x.va⟩ (takeFailed s g x)
    | none =>
      if lineAsked (getCore s g) e.1 then .held s
      else if e.2.dirty ≠ 0 then .held (sendSectors s g e.1 e.2)
      else if drop then .held (sendLine g e.1 (word (e.2.home - 2 ^ 60)) .release 0 true s)
      else .ok () s
  else if e.2.dirty = 0 then .ok () (if drop then dropLine s g e.1 else s)
  else
    match lineHome s g e.1 e.2 with
    | .fault f => .fault f s
    | .waits l => .held (l.foldl (askHolder false) s)
    | h =>
      let s1 := if count ∧ h = .nowhere then countDiscards s (dirtyList e.2).length else s
      let s2 := writeBackLine s1 g e.1 e.2
      .ok () (if drop then dropLine s2 g e.1 else putLine s2 g e.1 { e.2 with dirty := 0 })

/-- Several lines leave, in order: one that must wait holds up none, a fault those behind it. -/
def returnLines (drop count : Bool) (g : Nat) : List (Nat × Line) → State → Got Unit
  | [], s => .ok () s
  | e :: rest, s =>
    match returnLine drop count g e s with
    | .held s1 =>
      match returnLines drop count g rest s1 with
      | .ok _ s2 => .held s2
      | r => r
    | r => r.bind fun _ s1 => returnLines drop count g rest s1

/-- A line of a window is invalidated, its dirty sectors discarded (R233): of another module's, its home must have dropped the core as
holder first. -/
def releaseLine (g : Nat) (e : Nat × Line) (s : State) : Got Unit :=
  if 2 ^ 60 ≤ e.2.home then
    match (getCore s g).sent.find? fun x => x.line == e.1 && x.failed.isSome with
    | some x => .fault ⟨(x.failed.getD (0, 0)).1, (x.failed.getD (0, 0)).2, x.va⟩ (takeFailed s g x)
    | none => .held (if lineAsked (getCore s g) e.1 then s else sendLine g e.1 (word (e.2.home - 2 ^ 60)) .release 0 true s)
  else .ok () (dropLine s g e.1)

def releaseLines (g : Nat) : List (Nat × Line) → State → Got Unit
  | [], s => .ok () s
  | e :: rest, s =>
    match releaseLine g e s with
    | .held s1 =>
      match releaseLines g rest s1 with
      | .ok _ s2 => .held s2
      | r => r
    | r => r.bind fun _ s1 => releaseLines g rest s1

/-- The home of a line on another module has answered: its sectors are there, unless stored to since, or the line is held no more; a
fault is kept for what asked (R233). -/
def answerSent (g : Nat) (x : Sent) (r : Reply) (s : State) : State :=
  match r with
  | .data _ =>
    updCore s g fun c => { c with
      sent := c.sent.filter fun y => y.id != x.id
      lines := if x.release then smErase c.lines x.line
        else c.lines.map fun e => if e.1 = x.line then (e.1, { e.2 with dirty := e.2.dirty &&& ~~~ x.mask }) else e }
  | .error c d => fails c d
  | .nack c => fails c 0
where
  /-- The request has failed; where the line has left the window since, nobody asks for it any more, and it is logged. -/
  fails (c : BitVec 8) (d : BitVec 16) : State :=
    if (smFind (getCore s g).lines x.line).isNone then logError (updCore s g fun k => { k with sent := k.sent.filter fun y => y.id != x.id }) (dieOf g)
    else updCore s g fun k => { k with sent := k.sent.map fun y => if y.id = x.id then { y with failed := some (c, d) } else y }

/-- The answer to a request about a window line. -/
def answerLines (id : Nat) (r : Reply) (s : State) : State :=
  (touchedCores s).foldl (fun s g =>
    match (getCore s g).sent.find? fun x => x.id == id && x.failed.isNone with
    | some x => answerSent g x r s
    | none => s) s

/-- Write back and drop the own core's window line that covers an address, before an atomic on it (R229, R291). -/
def flushOwnLine (va : Word) (s : State) : Got Unit :=
  match ownSpot s va with
  | some (.window off) =>
    match smFind s.core.lines (off / 128) with
    | some ln => returnLine true true s.active (off / 128, ln) s
    | none => .ok () s
  | _ => .ok () s

end Sys2Proof.Machine
end

