-- ==== Sys2Proof/Machine/Ops.lean ====
section
/-! DEFINITION. The named operations over a task's registers, the issue of a bundle (R43 to R55, R93 to R103, R416), the end
of a task (R112, R139), the choice of a frame (R261), taking a trap (R107 to R112) and returning from one (R110, R147). -/

namespace Sys2Proof.Machine

/-! ## Registers -/

/-- s[n]; s0 reads 0 (R115). -/
def getS (s : State) {w : Nat} (n : BitVec w) : Word := if n.toNat = 0 then 0 else smGet 0 s.task.sregs n.toNat

/-- p[n]; p0 reads 1 (R115). -/
def getP (s : State) {w : Nat} (n : BitVec w) : Bool := n.toNat == 0 || s.task.preds.getLsbD n.toNat

/-- Leave out of every result in flight the landings that a test names: an interlocked write has superseded them (R95). The
operation's flags still rise at its landing. -/
def supersede (f : Landing → Bool) (l : List Exposed) : List Exposed :=
  l.map fun e => { e with results := e.results.filter fun r => !f r }

/-- The landing writes scalar register `n`. -/
def Landing.toScalar (n : Nat) : Landing → Bool
  | .scalar d _ => d.toNat == n
  | _ => false

/-- The landing writes tile `n` or a slot of it. -/
def Landing.toTile (n : Nat) : Landing → Bool
  | .tile m _ => m == n
  | .slotCode m _ _ => m == n
  | _ => false

/-- The landing writes rim `k`. -/
def Landing.toRim (k : Nat) : Landing → Bool
  | .rim j _ => j == k
  | _ => false

/-- The number under which a register's version is kept (R236). -/
def Dest.key : Dest → Option Nat
  | .sreg n => if n = 0 then none else some n
  | .pred n => if n = 0 then none else some (64 + n)
  | .tile n => some (96 + n)
  | .rim k => some (160 + k)
  | .latch => some 299
  | _ => none

/-- A register's version. -/
def Task.version (t : Task) (d : Dest) : Nat :=
  match d.key with
  | some k => smGet 0 t.versions k
  | none => 0

/-- What a result rewrites. -/
def RegValue.dest : RegValue → Dest
  | .sreg n _ => .sreg n
  | .pred n _ => .pred n
  | .tile n _ => .tile n
  | .rim k _ => .rim k

/-- A register is written (R236): its version advances. -/
def Task.advanceVersion (t : Task) (d : Dest) : Task :=
  match d.key with
  | some k => { t with versions := smSet 0 t.versions k (smGet 0 t.versions k + 1) }
  | none => t

/-- A register is written whole: its parity is good again, and an older result of the replay queue is no longer what it holds. -/
def Task.noteWrite (t : Task) (d : Dest) : Task :=
  let t1 := t.advanceVersion d
  { t1 with parityBad := t1.parityBad.filter (· ≠ d), replayQueue := t1.replayQueue.map fun e => { e with current := e.current && e.value.dest != d } }

/-- The scalar registers with s[n] written; a write to s0 is discarded. -/
def putS (m : SMap Word) (n : Nat) (v : Word) : SMap Word := if n = 0 then m else smSet 0 m n v

/-- An interlocked write of s[n] (R95, R96). -/
def setS (s : State) {w : Nat} (n : BitVec w) (v : Word) : State :=
  { s with task := { s.task with sregs := putS s.task.sregs n.toNat v,
                                 inflight := supersede (Landing.toScalar n.toNat) s.task.inflight } }

/-- The predicates with p[n] written; a write to p0 is discarded. -/
def putP (p : BitVec 16) (n : Nat) (v : Bool) : BitVec 16 :=
  if n = 0 then p
  else if v then p ||| BitVec.ofNat 16 (2 ^ n) else p &&& ~~~ BitVec.ofNat 16 (2 ^ n)

/-- A write of p[n]. -/
def setP (s : State) {w : Nat} (n : BitVec w) (v : Bool) : State :=
  { s with task := { s.task with preds := putP s.task.preds n.toNat v } }

/-- The task's tile, rim and accumulator quotas (R90). -/
def tileQuota (t : Task) : Nat := 8 * 2 ^ (t.quota.toNat % 4)
def rimQuota (t : Task) : Nat := 16 * 2 ^ (t.quota.toNat / 4 % 4)
def accQuota (t : Task) : Nat := 2 * 2 ^ (t.quota.toNat / 16 % 4)

def getTile (s : State) (n : Nat) : Tile := smGet Tile.initial s.task.tiles n
def getRim (s : State) (k : Nat) : Rim := smGet Rim.initial s.task.rims k
def getAcc (s : State) (a : Nat) : Acc := smGet Acc.initial s.task.accs a

/-- An interlocked write of a tile. -/
def setTile (s : State) (n : Nat) (t : Tile) : State :=
  { s with task := { s.task with tiles := smSet Tile.initial s.task.tiles n t,
                                 inflight := supersede (Landing.toTile n) s.task.inflight } }

/-- An interlocked write of a rim. -/
def setRim (s : State) (k : Nat) (r : Rim) : State :=
  { s with task := { s.task with rims := smSet Rim.initial s.task.rims k r,
                                 inflight := supersede (Landing.toRim k) s.task.inflight } }

/-- A write of an accumulator. -/
def setAcc (s : State) (a : Nat) (x : Acc) : State :=
  { s with task := { s.task with accs := smSet Acc.initial s.task.accs a x } }

/-- An own physical operand slot. -/
def getOSlot (s : State) (p : Nat) : OSlot := smGet OSlot.initial s.core.oslots p

def setOSlot (s : State) (p : Nat) (o : OSlot) : State :=
  { s with core := { s.core with oslots := smSet OSlot.initial s.core.oslots p o } }

/-- The latched entries of the snapshot: SNAPCNT.EXPOSED and SNAPCNT.REPLAY (R109). After `eret` an entry stays counted until
it has landed or been performed (R110). -/
def snapExposedCount (t : Task) : Nat :=
  t.snapExposed.length + t.snapPending.length + (t.inflight.filter (·.latched)).length
def snapReplayCount (t : Task) : Nat := t.snapReplay.length + t.replays.length
def snapCount (t : Task) : Nat := snapExposedCount t + snapReplayCount t

/-- PHASECTL.OPEN (R238). -/
def phaseOpen (t : Task) : Bool := bits t.phasectl 25 1 = 1

/-! ## What a syllable does -/

/-- A resource that a syllable takes as its bundle issues, of which a lower slot of the bundle may take one too: a copy on a
channel, a counter, a posted-operation entry; `phaseEnds`: the task's phase closes, by a commit or an abort. -/
inductive Claim
  | phaseEnds (commit : Bool)
  | copy (ch : Nat)
  | counter
  | entry
  deriving DecidableEq, Repr

/-- Where a syllable stands: its slot number, its link (R51), and what the lower slots of its bundle take. -/
structure Ctx where
  slot : Nat
  link : Word
  claims : List Claim
  deriving DecidableEq, Repr

/-- Why a bundle cannot issue yet (R98): a rim it reads is PENDING, lines of a window must be filled, a value must be read
first, table lines that its checks read must come back from other modules (R304), or the frame must wait for its interlocked
operations. -/
inductive Freeze
  | rim (k : Nat) (park : Bool)
  | fills (lane : Lane) (l : List Fill)
  | access (slot : Nat) (lane : Lane) (a : Access)
  | recall (l : List RemoteHolder)
  | owed
  deriving DecidableEq, Repr

/-- The outcome of a syllable's checks as its bundle issues: it may go on, it traps (R107), or it freezes. `after`: TRAPPC
takes the position that follows (`sys`, `trap`, `brk`). -/
inductive Pre
  | ok
  | trap (cause : BitVec 8) (detail : BitVec 16) (va : Word) (after : Bool)
  | freeze (f : Freeze)
  deriving DecidableEq, Repr

/-- One check after another. -/
def Pre.and (p : Pre) (q : Unit → Pre) : Pre :=
  match p with
  | .ok => q ()
  | .trap c d v a => .trap c d v a
  | .freeze f => .freeze f

/-- A trap of a check without an address. -/
def Pre.fail (cause : BitVec 8) (detail : BitVec 16) : Pre := .trap cause detail 0 false

/-- The trap of a check carries a data address (R109). -/
def Pre.at (p : Pre) (va : Word) : Pre :=
  match p with
  | .trap c d _ a => .trap c d va a
  | p => p

/-- A check that must hold. -/
def Pre.need (b : Bool) (cause : BitVec 8) (detail : BitVec 16) : Pre := if b then .ok else .fail cause detail

/-- A syllable's meaning: its guard (R53), the privilege checks of its decoding (R63, R64, R129), what it reads and names as
destination (R54, R415), whether it is an interlocked memory access at the read point (R96), the access that it makes as one
of the copy slots (R97), the resource it takes, its checks at the read point, and its effect from the read point `r` on the state `s` that the lower slots of the bundle have left. -/
structure SlotOp where
  guard : BitVec 4
  decode : Bool → Option (BitVec 8)
  gateOnly : Bool
  reads : List Dest
  dests : List Dest
  tagDests : State → List Nat
  memory : State → Bool
  claim : Option Claim := none
  access : State → Option Access := fun _ => none
  check : Ctx → State → Pre
  eff : Ctx → State → State → State

/-- A syllable without decode-time checks, tag-found destinations or memory access. -/
def SlotOp.simple (g : BitVec 4) (reads dests : List Dest) (check : Ctx → State → Pre) (eff : Ctx → State → State → State) :
    SlotOp :=
  ⟨g, fun _ => none, false, reads, dests, fun _ => [], fun _ => false, none, fun _ => none, check, eff⟩

/-- No check. -/
def noCheck (_ : Ctx) (_ : State) : Pre := .ok

/-! ## Detected faults -/

/-- Note a completion-class trap (R107). -/
def detect (s : State) (d : Detected) : State := { s with task := { s.task with detected := s.task.detected ++ [d] } }

/-- An uncorrectable error was consumed (R235): inside a phase it cancels the phase, else it is POISON_CONSUMED. -/
def consumeError (s : State) (slot : Nat) (pc va : Word) (replay : List Replay) : State :=
  if phaseOpen s.task then { s with task := { s.task with cancel := some (s.task.cancel.getD pc) } }
  else detect s ⟨causePoison, 0, slot, va, replay⟩

/-- Note the fault of an access whose requests become replay entries (R108). -/
def detectFault (s : State) (slot : Nat) (pc : Word) (f : FaultRec) (replay : List Replay) : State :=
  if f.cause = causePoison then consumeError s slot pc f.va replay else detect s ⟨f.cause, f.detail, slot, f.va, replay⟩

/-- Note the fault of an access that is performed now. -/
def detectAccess (s : State) (slot : Nat) (pc : Word) (f : FaultRec) (lane : Lane) (a : Access) : State :=
  detectFault s slot pc f [⟨slot, lane, s.nextOwed, a⟩]

/-! ## Frames (R102, R104, R261) -/

/-- A frame that the sequencer may run. -/
def runnable (t : Task) : Bool := t.waits.isEmpty

/-- The position the sequencer chooses: highest class (0 is highest), then round-robin after the frame that ran last. -/
def nextFrame (c : Core) : Option Nat :=
  let key := fun (e : Nat × Task) => e.2.effClass * 4 + (e.1 + 3 - c.lastRun) % 4
  ((c.frames.filter fun e => runnable e.2).foldl (fun (best : Option (Nat × Task)) e =>
    match best with
    | none => some e
    | some b => if key e < key b then some e else some b) none).map Prod.fst

/-- Run the frame at a position: its class returns to PRIO and its quantum starts (R260, R261). It may be switched out again
only at an effective safe point that it issues (R104). -/
def startFrame (s : State) (p : Nat) : State :=
  let s1 := checkOut s p
  { s1 with task := { s1.task with effClass := s1.task.prio, readySince := s1.tick, aged := 0, quantum := 0, atSafe := false } }

/-- Put the running frame back among the resident ones and let the chosen frame run, if there is one. -/
def switchFrame (s : State) : State :=
  let s0 := { s with task := { s.task with readySince := s.tick } }
  let s1 := checkIn s0
  match nextFrame s1.core with
  | some p => startFrame s1 p
  | none => s1

/-! ## The end of a task (R112, R139) -/

/-- The identity of a task within the cluster. -/
def Task.ident (t : Task) : BitVec 32 × BitVec 32 := (t.launchId, t.taskId)

/-- Change a frame's task where it stands. -/
def updFrame (s : State) (g pos : Nat) (f : Task → Task) : State :=
  match getFrame s g pos with
  | some t => setFrame s g pos (f t)
  | none => s

/-- Every resident task of the module with its core and position. -/
def allFrames (s : State) : List (Nat × Nat × Task) :=
  (touchedCores s).flatMap fun g => (residents s g).map fun e => (g, e.1, e.2)

/-- A task leaves a hoop (R142). -/
def Hoop.leave (h : Hoop) (m : BitVec 32 × BitVec 32) : Hoop :=
  { h with members := h.members.filter (· ≠ m), arrived := h.arrived.filter (· ≠ m), late := h.late.filter (· ≠ m) }

/-- Change a hoop of a cluster. -/
def updHoop (k : Cluster) (h : Nat) (f : Hoop → Hoop) : Cluster :=
  { k with hoops := smSet Hoop.initial k.hoops h (f (smGet Hoop.initial k.hoops h)) }

/-- Every current member has arrived: the phase completes (R143). Members that joined after an arrival count from the next. -/
def Hoop.due (h : Hoop) : Bool :=
  h.allocated && h.arrived.any (fun m => !h.late.contains m) && h.members.all fun m => h.late.contains m || h.arrived.contains m

/-- The next phase, with what late joiners have already arrived for it. -/
def Hoop.nextPhase (h : Hoop) : Hoop :=
  { h with phase := h.phase + 1, arrived := h.arrived.filter h.late.contains, late := [] }

/-- The task waits at a hoop; `phase`: in that phase, or in any. -/
def Task.atHoop (t : Task) (h : Nat) (phase : Option Nat) : Bool :=
  t.waits.any fun w => match w.kind with
    | .hoop j p => j == h && (phase.isNone || phase == some p)
    | _ => false

/-- The wait is one at a hoop. -/
def Wait.isHoop (w : Wait) : Bool :=
  match w.kind with
  | .hoop .. => true
  | _ => false

/-- End the waits that a test names: the task is READY again, with what it has aged since it last ran (R260). -/
def Task.endWaits (t : Task) (f : Wait → Bool) (tick : Nat) : Task :=
  { t with waits := t.waits.filter fun w => !f w, readySince := tick - t.aged }

/-- End a task's wait at a hoop; a fault is noted with it. -/
def Task.wake (t : Task) (tick : Nat) (d : Option (BitVec 8 × BitVec 16)) : Task :=
  let t1 := t.endWaits Wait.isHoop tick
  match t.waits.find? Wait.isHoop, d with
  | some w, some (c, n) => { t1 with detected := t1.detected ++ [⟨c, n, w.slot, w.pc, []⟩] }
  | _, _ => t1

/-- Wake the tasks of a cluster that wait at a hoop, resident or saved. A saved one has aged all along (R265). -/
def wakeHoop (s : State) (cl h : Nat) (phase : Option Nat) (d : Option (BitVec 8 × BitVec 16)) : State :=
  let s1 := (allFrames s).foldl (fun s e =>
    if clusterOf e.1 == cl && e.2.2.atHoop h phase then updFrame s e.1 e.2.1 fun t => t.wake s.tick d else s) s
  let fix := fun (x : Saved) => if x.task.atHoop h phase = true then { x with task := { x.task.wake s.tick d with readySince := x.task.readySince } } else x
  updCluster s1 cl fun k => { k with saved := k.saved.map fix }

/-- Complete a hoop's phase if it is due (R143, R266): every waiting member of the phase becomes ready. -/
def completeHoop (s : State) (cl h : Nat) : State :=
  let x := smGet Hoop.initial (getCluster s cl).hoops h
  if x.due then wakeHoop (updCluster s cl fun k => updHoop k h Hoop.nextPhase) cl h (some x.phase) none else s

/-- Break a hoop (R112, R144): a phase that is complete completes first; the members that wait trap with DETAIL 1. -/
def breakHoop (s : State) (cl h : Nat) (m : BitVec 32 × BitVec 32) : State :=
  let s1 := completeHoop s cl h
  wakeHoop (updCluster s1 cl fun k => updHoop k h fun x => { x.leave m with broken := true }) cl h none (some (causeHoop, 1))

/-- Free a hoop (R142, R144): the members that wait trap with DETAIL 2. -/
def freeHoop (s : State) (cl h : Nat) : State :=
  let s1 := completeHoop s cl h
  wakeHoop (updCluster s1 cl fun k => updHoop k h fun _ => Hoop.initial) cl h none (some (causeHoop, 2))

/-- Change a launch of a cluster by its id. -/
def updLaunch (k : Cluster) (id : BitVec 32) (f : Launch → Launch) : Cluster :=
  { k with launches := k.launches.map fun l => if l.id = id then f l else l }

/-- Record a task's end in its launch: weight to the reserve, and the cause of a fatal fault (R112, R263). -/
def Launch.taskEnded (l : Launch) (weight : Nat) (fatal : Option (BitVec 8)) : Launch :=
  match fatal with
  | none => { l with reserve := l.reserve + weight }
  | some c => { l with reserve := l.reserve + weight, fatals := l.fatals + 1,
                       firstCause := if l.fatals = 0 then c else l.firstCause, lastCause := c }

/-- The first fetch of a root task has failed at its entry, with no handler to take the trap (R42, R111, R249). -/
def Launch.entryFault (l : Launch) (t : Task) (fatal : Option (BitVec 8)) : Bool :=
  t.bt == 0 && t.pc == l.entry && t.tvec == 0 && decide (t.taskId.toNat < l.nextIndex) && (match fatal with
    | some c => decide (causeTranslation.toNat ≤ c.toNat) && decide (c.toNat ≤ causeAttribute.toNat) && c != causeAlignment
    | none => false)

/-- The instances of a launch that are not created are discarded (R249). -/
def Launch.discardRest (l : Launch) : Launch := { l with toCreate := 0, st := if l.st = .issuing then .running else l.st }

/-- Release the operand slots of a map. -/
def releaseSlots (c : Core) (m : SMap Nat) : Core :=
  m.foldl (fun c e => { c with oslots := smSet OSlot.initial c.oslots e.2 OSlot.initial }) c

/-- N and the slot of index `i` from RING and LOG2N (R286). -/
def queueSize (ringLog : List Byte) : Nat := 2 ^ min 20 (max 4 (leNat (ringLog.drop 8) % 256))
def queueSlot (ringLog : List Byte) (i : Nat) : Word :=
  word (leNat (ringLog.take 8) / 64 * 64 + i % queueSize ringLog * 64)

/-- The queue slots a task has claimed and not published (R286). A `cpq` beyond its poll has seen READ leave its slot. -/
def claimedSlots (t : Task) : List Void :=
  let of := fun (a : Access) => match a with
    | .cpq desc _ (_ :: r :: i :: polled) => [⟨queueSlot r (leNat i), leNat i, desc, queueSize r, !polled.isEmpty, none, none⟩]
    | _ => []
  (t.owed.flatMap fun o => match o.kind with
    | .access a _ _ => of a
    | _ => []) ++ (t.replays ++ t.snapReplay).flatMap (fun x => of x.access)
    ++ t.detected.flatMap fun d => d.replay.flatMap fun x => of x.access

/-- Index `i` has room in a ring of `n` slots whose READ is given (R245). -/
def ringRoom (n i : Nat) (read : List Byte) : Bool := decide ((i + 2 ^ 64 - leNat read) % 2 ^ 64 < n)

/-- The void packet of a claimed slot: KIND 0 with its index as SEQ (R249, R286). -/
def Void.bytes (v : Void) : List Byte := leBytes 8 (v.index % 2 ^ 32 * 2 ^ 32)

/-- Write a claimed slot as a void packet, once READ has left the packet before it in the ring (R245, R286). A slot that cannot be
written is logged, with its index and descriptor; one that must wait is kept. -/
def writeVoid (cl : Nat) (s : State) (v : Void) : State :=
  let keep := fun (v : Void) (s : State) => updCluster s cl fun k => { k with voids := k.voids ++ [v] }
  let fails := fun (s : State) => logWords s (cl / 4) [word v.index, v.desc]
  let asks := fun (m : BitVec 8) (va : Word) (k : RemoteKind) (s : State) =>
    let q := askRemote s m va k
    keep { v with awaiting := some q.1, answer := none } q.2
  let writes := fun (s : State) =>
    match agentWrite (Agent.ofCluster cl) v.slot v.bytes s with
    | .ok _ s1 => s1
    | .fault _ s1 => fails s1
    | .remote m s1 => asks m v.slot (.write v.bytes) s1
    | .held s1 => keep { v with free := true, awaiting := none, answer := none } s1
  let polled := fun (b : List Byte) (s : State) =>
    if ringRoom v.size v.index b then writes s else keep { v with awaiting := none, answer := none } s
  match v.awaiting, v.answer with
  | some _, none => keep v s
  | some _, some (.data b) => if v.free then s else polled b s
  | some _, some _ => fails s
  | none, _ =>
    if v.free then writes s
    else
      match agentRead (Agent.ofCluster cl) (v.desc + 0x80) 8 s with
      | .ok b s1 => polled b s1
      | .fault _ s1 => fails s1
      | .remote m s1 => asks m (v.desc + 0x80) (.read 8) s1
      | .held s1 => keep v s1

/-- The own-scratchpad stores of a task in flight perform (R139). -/
def performStores (s : State) : State :=
  s.task.inflight.foldl (fun s e => e.results.foldl (fun s r =>
    match r with
    | .store va b | .storeRaise va b _ _ =>
      match ownSpot s va with
      | some spot => watchWrites [(va, b.length)] (ownStore s spot b)
      | none => s
    | _ => s) s) s

/-- End the running task: slots released, hoops left or broken, weight returned, the rest of its launch discarded where its entry cannot
be fetched, and another frame chosen. -/
def endTask (fatal : Option (BitVec 8)) (s : State) : State :=
  let s0 := (claimedSlots s.task).foldl (writeVoid (clusterOf s.active)) (performStores s)
  let t := s0.task
  let cl := clusterOf s0.active
  let s1 := t.hoops.foldl (fun s h =>
    if (smGet Hoop.initial (getCluster s cl).hoops h).members.contains t.ident then
      if fatal.isSome then breakHoop s cl h t.ident else updCluster s cl fun k => updHoop k h fun x => x.leave t.ident
    else s) s0
  let s1 := updCluster s1 cl fun k => updLaunch k t.launchId fun l =>
    let l1 := l.taskEnded t.weight fatal
    if l.entryFault t fatal then l1.discardRest else l1
  let p := s1.core.run.getD 0
  let s2 := { s1 with core := { releaseSlots s1.core t.omap with run := none, lastRun := p }, task := Task.fresh }
  match nextFrame s2.core with
  | some q => startFrame s2 q
  | none => s2

/-! ## Taking a trap and returning from one -/

/-- TRAPINFO (R109). -/
def trapInfo (r : TrapRec) (replay : Bool) : Word :=
  word (r.detail.toNat * 2 ^ 16 + (if replay then 2 ^ 11 else 0) + (if r.deferred then 2 ^ 10 else 0)
    + (if r.entry then 2 ^ 9 + r.slot % 2 ^ 9 else r.slot % 8))

/-- Put a replay entry behind those that issued before it. -/
def insertReplay (x : Replay) : List Replay → List Replay
  | [] => [x]
  | y :: l => if x.order < y.order then x :: y :: l else y :: insertReplay x l

/-- Replay entries in the order of issue (R108, R368). -/
def inIssueOrder (l : List Replay) : List Replay := l.foldl (fun m x => insertReplay x m) []

/-- Taking a trap, steps 3 to 5 of R108: results in flight are latched with their remaining bundle times, the trap registers
are written, the remaining SKIP is set aside, the privilege becomes S and the PC becomes TVEC. `ds` are the completion faults
found with it: an access becomes a replay entry, any other of another cause is held. A task without a handler, or at S with a
snapshot held, which sets DBL, ends instead (R111). An `exit` that still waits stays pending (R139). -/
def enterTrap (r : TrapRec) (ds : List Detected) (s : State) : State :=
  let t := s.task
  let s := { s with core := { s.core with passBreak := none } }
  let cause := word (r.cause.toNat + (if t.supervisor then 2 ^ 8 else 0))
  if t.supervisor ∧ snapCount t ≠ 0 then endTask (some r.cause) { s with task := { t with trapcause := cause ||| 0x200 } }
  else if t.tvec = 0 then endTask (some r.cause) { s with task := { t with trapcause := cause } }
  else
    let replays := inIssueOrder (t.replays ++ t.snapReplay ++ ds.flatMap (·.replay))
    { s with task := { t with
        snapExposed := t.snapExposed ++ t.inflight.map fun e => { e with due := e.due - t.bt.toNat }
        inflight := []
        snapReplay := replays
        snapPending := t.snapPending ++ ds.filter fun d => d.replay.isEmpty && !(r.deferred && d.cause == r.cause)
        replays := []
        snapSkip := t.skip
        skip := 0
        snapBad := t.snapBad && snapCount t != 0
        pendingExit := if t.flow = .exit then some t.supervisor else t.pendingExit
        trapcause := cause
        trappc := r.resume
        trapva := r.va
        trapinfo := trapInfo r (!replays.isEmpty)
        supervisor := true
        pc := t.tvec
        latch := .empty
        trapping := none
        detected := []
        flow := .next } }

/-- Take an issue or decode trap now, or hold it until the frame's interlocked operations have completed (R108). -/
def raiseTrap (r : TrapRec) (s : State) : State :=
  let s := { s with core := { s.core with fills := s.core.fills.filter (·.failed.isNone), passBreak := none },
                    task := { s.task with rimWait := none } }
  if s.task.owed.isEmpty then enterTrap r s.task.detected s
  else { s with task := { s.task with trapping := some r, latch := .empty } }

/-- The position of the task without an issue. -/
def issueTrap (cause : BitVec 8) (detail : BitVec 16) (slot : Nat) (va : Word) (s : State) : State :=
  raiseTrap ⟨cause, detail, slot, false, false, va, s.task.pc⟩ s

/-- The least of a list of causes. -/
def leastCause (l : List Detected) (d : Detected) : BitVec 8 :=
  l.foldl (fun c x => if x.cause.toNat < c.toNat then x.cause else c) d.cause

/-- The completion-class trap to take among those detected, the lowest cause, with every operation of that cause (R108): the
flags of FP_EXCEPTION are ORed and the lowest slot is named. Held traps of one cause are taken as one trap as well, of which the spec
says nothing (DESIGN CHOICE, log 68). -/
def chooseDetected (d : Detected) (l : List Detected) (pc : Word) : TrapRec :=
  let c := leastCause l d
  let same := (d :: l).filter (·.cause = c)
  let low := same.foldl (fun a x => if x.slot < a.slot then x else a) (same.headD d)
  let detail := if c = causeFp then same.foldl (fun a x => a ||| x.detail) 0 else low.detail
  ⟨c, detail, low.slot, false, true, low.va, pc⟩

/-- Take the detected completion-class traps, once nothing is owed (R108). -/
def takeDetected (s : State) : State :=
  match s.task.detected with
  | [] => s
  | d :: l => enterTrap (chooseDetected d l s.task.pc) (d :: l) s

/-- Resume after `eret` (R110, R147): the privilege and the position come back, latched results land their remaining bundle
times after the first resumed bundle time, which a SKIP that was set aside begins; replay entries are performed again, held traps
are taken at the next boundary, an `exit` that was waiting waits again, and the frame's streams restart (R369). `skip` is the SKIP
of the `eret` bundle. -/
def resumeTask (skip : Nat) (s : State) : State :=
  let t := s.task
  let first := t.bt.toNat + skip
  let privilege := decide (bits t.trapcause 8 1 = 1)
  { s with
    streams := s.streams.filter fun x => !(x.core = s.active ∧ some x.frame = s.core.run ∧ x.frozen.isSome)
    task := { t with
      supervisor := privilege
      pc := t.trappc
      inflight := t.snapExposed.map fun e => { e with due := first + e.due, latched := true }
      snapExposed := []
      replays := t.snapReplay
      snapReplay := []
      detected := t.snapPending
      snapPending := []
      skip := skip + t.snapSkip
      snapSkip := 0
      sinceSp := 0
      pendingExit := if t.pendingExit = some privilege then none else t.pendingExit
      flow := if t.pendingExit = some privilege then .exit else .next } }

/-- Return from a trap after the `eret` bundle has issued: the handler's stores perform, its other results in flight are
discarded, and FATAL ends the task. The trap registers are read after the bundle's other slots have written, an `mts` to one among
them; the spec does not say which it is (DESIGN CHOICE, log 68). -/
def returnTrap (skip : Nat) (s : State) : State :=
  let s1 := performStores s
  let s2 := { s1 with task := { s1.task with inflight := [] } }
  if bits s2.task.trapcause 10 1 = 1 then endTask (some (BitVec.ofNat 8 (bits s2.task.trapcause 0 8))) s2
  else resumeTask skip s2

/-! ## The issue of a bundle -/

/-- How a bundle was reached: a full bundle, or the issue of a bundle-table entry by a reference (R47). -/
inductive Origin
  | full
  | reference (entry count : Nat) (last : Bool)
  deriving DecidableEq, Repr

/-- The position after a full bundle, or past a reference (R49, R51). -/
def nextPosition (o : Origin) (pc : Word) : Word :=
  match o with
  | .reference _ _ false => word (pc.toNat / 32 * 32 + max 1 (pc.toNat % 32) + 1)
  | _ => word ((pc.toNat / 32 + 1) * 32)

/-- Arriving at a reference with REPLEFT = 0 loads REP (R47). -/
def arrive (o : Origin) (s : State) : State :=
  match o with
  | .full => s
  | .reference _ n _ => if s.task.repLeft = 0 then { s with task := { s.task with repLeft := word n } } else s

/-- Each issue of a reference decrements REPLEFT (R47). -/
def countIssue (o : Origin) (s : State) : State :=
  match o with
  | .full => s
  | .reference .. => { s with task := { s.task with repLeft := s.task.repLeft - 1 } }

/-- The slots of a bundle whose guards hold at the read point (R53). -/
def live (r : State) (b : List (Nat × SlotOp)) : List (Nat × SlotOp) := b.filter fun x => getP r x.2.guard

/-- The registers, predicates, tiles and rims that an access writes. -/
def Access.dests : Access → List Dest
  | .load _ _ _ d | .amo _ _ _ _ d | .cas _ _ _ _ d | .counterRead _ d | .readDescriptor _ d | .scLoad _ _ d | .scAdd _ _ _ d =>
    [.sreg d.toNat]
  | .cas128 _ _ _ _ _ d => [.sreg d.toNat, .sreg (d.toNat + 1)]
  | .loadTile n f .. => if f = 4 then [.tile n, .tile (n + 1)] else [.tile n]
  | .loadRim k _ => [.rim k]
  | .waitWord .. | .counterWait .. => [.pred 1]
  | _ => []

/-- The destinations that interlocked accesses still owe (R96). A rim that a reduction owes is PENDING, which its readers and
writers wait for themselves (R158, R160). -/
def owedDests (t : Task) : List Dest :=
  t.owed.flatMap fun o => match o.kind with
    | .reduction .. => []
    | .access a _ _ => a.dests

/-- The interlocked memory accesses of a frame that are outstanding (R96). -/
def owedAccesses (t : Task) : Nat :=
  (t.owed.filter fun o => match o.kind with
    | .reduction .. => false
    | .access .. => true).length

/-- A landing writes a destination. -/
def Landing.writes (d : Dest) (l : Landing) : Bool :=
  match d with
  | .sreg n => l.toScalar n
  | .tile n => l.toTile n
  | .rim k => l.toRim k
  | _ => false

/-- An interlocked operation issues that will write some destinations: what is in flight for them no longer writes them (R95). -/
def supersedeDests (l : List Dest) (s : State) : State :=
  { s with task := { s.task with inflight := supersede (fun r => l.any fun d => r.writes d) s.task.inflight } }

/-- The odd tiles of the f64 pairs that a list names (R17). -/
def oddTiles (r : State) (l : List Dest) : List Dest :=
  l.filterMap fun d => match d with
    | .tile n => if (getTile r n).tag = 4 ∧ n % 2 = 0 then some (.tile (n + 1)) else none
    | _ => none

/-- What a syllable reads or would overwrite, the odd tiles of its f64 pairs among it. -/
def SlotOp.uses (x : SlotOp) (r : State) : List Dest :=
  x.reads ++ x.dests ++ oddTiles r x.reads ++ (x.tagDests r).map .tile

/-- A `cp` that has issued waits for room on its channel, which freezes the core (R277, R285). -/
def copyWaits (r : State) : Bool :=
  !phaseOpen r.task && r.task.owed.any fun o => match o.kind with
    | .access (.readPacket _ ch) _ t => t == r.moduleId.toNat && decide (8 ≤ (smGet [] r.core.channels ch).length)
    | _ => false

/-- A bundle waits for a value that an interlocked operation owes, for room among 16 outstanding accesses (R96), or for a copy's channel. -/
def stalled (r : State) (b : List (Nat × SlotOp)) : Bool :=
  let owed := owedDests r.task
  let more := (b.filter fun x => x.2.memory r).length
  copyWaits r || (b.any fun x => (x.2.uses r).any owed.contains)
    || (decide (0 < more) && decide (Config.maxOutstanding < owedAccesses r.task + more))

/-- What the slots below a slot of a bundle take. -/
def claimsBelow (b : List (Nat × SlotOp)) (slot : Nat) : List Claim :=
  (b.filter fun x => x.1 < slot).filterMap fun x => x.2.claim

/-- The checks of a slot of a bundle. -/
def checkSlot (link : Word) (r : State) (b : List (Nat × SlotOp)) (x : Nat × SlotOp) : Pre :=
  x.2.check ⟨x.1, link, claimsBelow b x.1⟩ r

/-- The first freeze among the checks of a bundle. -/
def firstFreeze (link : Word) (r : State) (b : List (Nat × SlotOp)) : Option Freeze :=
  b.findSome? fun x => match checkSlot link r b x with
    | .freeze f => some f
    | _ => none

/-- The first slot whose checks have still to read a value from memory. -/
def firstUnread (link : Word) (r : State) (b : List (Nat × SlotOp)) : Option Nat :=
  (b.find? fun x => match checkSlot link r b x with
    | .freeze (.access ..) => true
    | _ => false).map Prod.fst

/-- The first trap among the checks of a bundle, in slot order (R416), with its slot. -/
def firstTrap (link : Word) (r : State) (b : List (Nat × SlotOp)) : Option (Nat × BitVec 8 × BitVec 16 × Word × Bool) :=
  b.findSome? fun x => match checkSlot link r b x with
    | .trap c d v a => some (x.1, c, d, v, a)
    | _ => none

/-- The higher slot of a destination clash that tags reveal: the odd tile of an f64 pair named by another slot (R415). -/
def tagClash (r : State) (b : List (Nat × SlotOp)) : Option Nat :=
  b.foldl (fun acc x =>
    b.foldl (fun acc y =>
      if x.1 ≠ y.1 ∧ (x.2.tagDests r).any (fun n => y.2.dests.contains (.tile n) || (y.2.tagDests r).contains n) then
        let hi := max x.1 y.1
        match acc with
        | none => some hi
        | some h => some (min h hi)
      else acc) acc) none

/-! ## Streams at the source (R361, R367) -/

/-- The address that an access goes to. -/
def Access.va : Access → Word
  | .load va .. | .store va _ | .amo _ _ va .. | .cas _ va .. | .cas128 va .. | .stateWord va | .loadRim _ va | .pageOp _ va
  | .waitWord va .. | .storeThenRaise va .. | .scLoad va .. | .scStore va .. | .scAdd va .. | .writeBack va _
  | .invalidate va _ | .readPacket va _ | .readDescriptor va _ | .setAttribute va .. => va
  | .loadSlot _ _ _ va .. => va
  | .loadTile _ _ rows .. => rows.headD 0
  | .storeRows rows => (rows.headD (0, [])).1
  | .counterAdd n _ | .counterRead n _ | .counterWait n .. => n
  | .cpq d .. => d
  | .cancel h => h
  | .memberStore va _ => va
  | .multicast _ v .. => v
  | .windowFill _ va _ => va
  | .unmap _ | .remap .. => 0

/-- It names a counter, not memory. -/
def Access.isCounter : Access → Bool
  | .counterAdd .. | .counterRead .. | .counterWait .. | .cancel .. | .unmap _ | .remap .. => true
  | _ => false

/-- How an access with base register `base` chooses its streams, by STREAMSEL at its read point (R361). -/
def laneOf (t : Task) (base : Nat) : Lane :=
  let d := bits t.streamsel 0 4
  match bits t.streamsel 4 2 with
  | 1 => .fixed (base % 16)
  | 2 => .byTarget d
  | _ => .fixed d

/-- A stream of a frame is stopped at the source: frozen, or held for a repin (R363, R367). -/
def streamStopped (s : State) (g pos k : Nat) : Bool :=
  s.streams.any fun x => x.core == g && x.frame == pos && x.stream == k && (x.frozen.isSome || x.holding)

/-- The bytes that an access touches. -/
def Access.spans : Access → List (Word × Nat)
  | .load va n .. => [(va, n)]
  | .store va b | .storeThenRaise va b _ | .memberStore va b => [(va, b.length)]
  | .amo _ nar va .. | .cas nar va .. | .scLoad va nar _ | .scStore va nar _ | .scAdd va nar .. => [(va, if nar then 4 else 8)]
  | .cas128 va .. => [(va, 16)]
  | .loadTile _ f rows .. => rows.map fun v => (v, if f = 4 then 128 else 64)
  | .storeRows rows => rows.map fun r => (r.1, r.2.length)
  | .loadRim _ va | .readPacket va _ | .readDescriptor va _ => [(va, 64)]
  | .stateWord va | .waitWord va .. => [(va, 8)]
  | .cpq d p _ => [(d, 192), (p, 64)]
  | .pageOp _ va => [(va, 2 ^ 16)]
  | .windowFill _ va _ => [(va, 128)]
  | .writeBack va len | .invalidate va len => [(va, len.toNat)]
  | _ => []

/-- A word of a multicast group's entry (R373). -/
def groupWord (s : State) (g i : Nat) : Word := smGet 0 s.groups (8 * g + i)

/-- Module `m` is a member of group `g`. -/
def isMember (s : State) (g m : Nat) : Bool := (groupWord s g (4 + m / 64)).getLsbD (m % 64)

/-- The device-global address of a module's copy of a window offset. -/
def memberVa (s : State) (g m : Nat) (v : Word) : Word :=
  word (m * 2 ^ 54 + bits (groupWord s g 0) 16 2 * 2 ^ 52 + bits (groupWord s g 1) 0 52) + v

/-- The bytes that an access touches, of a multicast every member's copy. -/
def Access.touches (s : State) : Access → List (Word × Nat)
  | .multicast g v nar _ _ =>
    ((List.range 256).filter (isMember s g.toNat)).map fun m => (memberVa s g.toNat m v, if nar then 4 else 8)
  | a => a.spans

/-- Two lists of ranges touch a common unit of `u` bytes. -/
def spansShare (u : Nat) (l m : List (Word × Nat)) : Bool :=
  l.any fun x => m.any fun y =>
    decide (x.1.toNat / u * u < y.1.toNat + y.2) && decide (y.1.toNat / u * u < x.1.toNat + x.2)

/-- Two accesses touch a common 128-byte line (R367). -/
def sharesLine (s : State) (a b : Access) : Bool := spansShare 128 (a.touches s) (b.touches s)

/-- A multicast write. -/
def Access.isMulticast : Access → Bool
  | .multicast .. => true
  | _ => false

/-- The module of a device-global address. -/
def vaModule (va : Word) : Nat := bits va 54 8

/-- The modules that an access goes on to after the request that is under way: with the further pieces of a tile, the further steps of a
queue append, or the counter that it raises. -/
def Access.further : Access → List Nat
  | .storeRows rows => (rows.drop 1).map fun p => vaModule p.1
  | .loadTile _ f rows _ _ got =>
    ((rows.flatMap fun v => if f = 4 then [v, v + 64] else [v]).drop (got.length + 1)).map vaModule
  | .cpq desc _ _ => [vaModule desc]
  | .storeThenRaise _ _ name => [bits name 16 8]
  | _ => []

/-- An owed access has still to send a request on a stream (R362). -/
def Owed.goesOn (s : State) (o : Owed) (a : Access) (k : Nat) : Bool :=
  a.further.any fun m => m != s.moduleId.toNat && o.lane.stream m == k

/-- An owed access waits at the source: its stream is stopped, an earlier one of its stream waits or has further requests on it, or an
earlier one on another stream, or a multicast that this module has still to send out, overlaps one of its lines (R362, R367). -/
def mustHold (s : State) (g pos : Nat) (before : List Owed) (a : Access) (k : Nat) : Bool :=
  streamStopped s g pos k || before.any fun o =>
    match o.kind with
    | .access b j target =>
      o.goesOn s b k || (if target = s.moduleId.toNat then b.isMulticast && sharesLine s a b
        else (o.held && j == k) || (j != k && sharesLine s a b))
    | .reduction .. => false

/-- A request of a stream has left and is not answered. -/
def sentOn (s : State) (o : Owed) (k : Nat) : Bool :=
  match o.kind with
  | .access _ j m => j == k && !o.held && m != s.moduleId.toNat
  | .reduction .. => false

/-- The links that the pinned routes of a stream go round (R363). -/
def streamAvoids (s : State) (g pos k : Nat) : List (Nat × Nat) :=
  ((s.streams.find? fun x => x.core == g && x.frame == pos && x.stream == k).map (·.avoid)).getD []

/-- Change the record of a stream; one that says nothing is dropped. -/
def updStream (s : State) (g pos k : Nat) (f : Stream → Stream) : State :=
  let here := fun (x : Stream) => x.core == g && x.frame == pos && x.stream == k
  let l := if s.streams.any here then s.streams else s.streams ++ [⟨g, pos, k, none, false, []⟩]
  { s with streams := (l.map fun x => if here x then f x else x).filter fun x => x.frozen.isSome || x.holding || !x.avoid.isEmpty }

/-- The pinned route of a stream to a module crosses a link that does not work (R363). -/
def routeBroken (s : State) (avoid : List (Nat × Nat)) (m : Nat) : Bool :=
  match routeTo s avoid m with
  | some l => l.any fun h => !linkUp s s.linksDown h.1 h.2
  | none => true

/-- The pinned route of a stream is looked at before a request: a broken one is pinned anew where nothing sent on the stream is
unanswered, and else the stream is held; so is one without a route, until its repin (R363). -/
def pinStream (s : State) (g pos k m : Nat) (sent : Bool) : State :=
  if s.linksDown.isEmpty && (streamAvoids s g pos k).isEmpty then s
  else if sent then
    if routeBroken s (streamAvoids s g pos k) m then updStream s g pos k fun x => { x with holding := true } else s
  else updStream s g pos k fun x => { x with avoid := s.linksDown, holding := x.holding || !hasRoute s m }

/-- Send an access of a frame, with TASKCTL.NACK as it issued. -/
def sendOut (s : State) (id target g pos k : Nat) (nack : Bool) (a : Access) : State :=
  { s with outbox := s.outbox ++ [.request ⟨id, BitVec.ofNat 8 target, g, pos, k, a, nack⟩] }

/-- The running frame owes an access to a target: it leaves on its stream where that is another module, unless it must wait at the
source (R361, R367). `park`: its bundle was an effective safe point. -/
def oweTo (slot : Nat) (pc : Word) (park : Bool) (lane : Lane) (target : Nat) (a : Access) (s : State) : State :=
  let k := lane.stream target
  let id := s.nextOwed + 1
  let pos := s.core.run.getD 0
  let nack := bits s.task.taskctl 0 1 == 1
  let own := target == s.moduleId.toNat
  let s0 := if own then s else pinStream s s.active pos k target (s.task.owed.any fun o => sentOn s o k)
  let hold := !own && mustHold s0 s0.active pos s0.task.owed a k
  let s1 := { s0 with nextOwed := id, task := { s0.task with owed := s0.task.owed ++ [⟨id, pc, slot, hold, park, lane, nack, .access a k target⟩] } }
  if own || hold then s1 else sendOut s1 id target s.active pos k nack a

/-- Ask for a fill: one already under way is now waited for (R234). -/
def demandFill (l : List Fill) (f : Fill) : List Fill :=
  let same := fun (x : Fill) => x.line == f.line && x.upgrade == f.upgrade
  if l.any same then l.map fun x => if same x then { x with demand := x.demand || f.demand } else x else l ++ [f]

/-- The fill or upgrade of a line is under way. -/
def fillKnown (s : State) (f : Fill) : Bool := s.core.fills.any fun x => x.line == f.line && x.upgrade == f.upgrade

/-- The module that a line's fill asks, where it is another one that answers. -/
def fillTarget (s : State) (va : Word) : Option Nat :=
  match spaceOf s none none va with
  | .remote m _ _ => if m.toNat ∈ s.dead ∨ m.toNat ∉ s.modules then none else some m.toNat
  | _ => none

/-- Start a fill or an upgrade of the active core. Where the line's home is on another module, the request is owed and leaves
on the stream of the access that touches the line (R361). -/
def startFill (lane : Lane) (s : State) (f : Fill) : State :=
  let va := lineVa s.core f.line
  let put := fun (s : State) (f : Fill) => { s with core := { s.core with fills := demandFill s.core.fills f } }
  match fillKnown s f, fillTarget s va with
  | false, some m => oweTo 0 s.task.pc false lane m (.windowFill f.line va f.upgrade) (put s { f with request := some (s.nextOwed + 1) })
  | _, _ => put s f

/-- Freeze for one tick (R98): the wait is noted, fills and reads are started. -/
def freezeStep (f : Freeze) (s : State) : State :=
  let s1 := { s with tick := s.tick + 1 }
  match f with
  | .rim _ _ => { s1 with task := { s1.task with rimWait := some (s.task.rimWait.getD s.tick) } }
  | .fills lane l => l.foldl (startFill lane) s1
  | .access slot lane a =>
    if s1.task.owed.any fun o => match o.kind with
        | .access b _ _ => a == b
        | _ => false
    then s1
    else
      { s1 with nextOwed := s1.nextOwed + 1,
                task := { s1.task with owed := s1.task.owed ++
                  [⟨s1.nextOwed + 1, s1.task.pc, slot, false, false, lane, bits s1.task.taskctl 0 1 == 1,
                    .access a 0 s1.moduleId.toNat⟩] } }
  | .recall l => l.foldl (askHolder false) s1
  | .owed => s1

/-- The running frame has a pre-emption pending and has passed PREBOUND (R103). -/
def overrun (t : Task) : Bool :=
  t.preemptReq && t.prebound != 0 && snapCount t == 0 && decide (t.prebound.toNat < t.sinceSp)

/-- An access reads memory; it writes memory. -/
def Access.readsMemory : Access → Bool
  | .load .. | .amo .. | .cas .. | .cas128 .. | .loadTile .. | .loadRim .. | .waitWord .. | .readPacket .. | .readDescriptor ..
  | .loadSlot .. | .cpq .. => true
  | _ => false

def Access.writesMemory : Access → Bool
  | .store .. | .storeThenRaise .. | .storeRows .. | .amo .. | .cas .. | .cas128 .. | .multicast .. | .cpq .. => true
  | _ => false

/-- The access of slot S7 comes before that of S6, since a bundle's reads precede its writes (R97, R321): S7 reads what S6 writes, and
not both of them do both. -/
def readsFirst (x y : Option Access) : Bool :=
  match x, y with
  | some a, some b => b.readsMemory && a.writesMemory && (!a.readsMemory || !b.writesMemory)
  | _, _ => false

/-- The order in which the slots of a bundle act: that of the slots, but for a read of S7 (R97). -/
def slotOrder (r : State) (b : List (Nat × SlotOp)) : List (Nat × SlotOp) :=
  match b.find? (·.1 == 6), b.find? (·.1 == 7) with
  | some x, some y => if readsFirst (x.2.access r) (y.2.access r) then b.filter (·.1 < 6) ++ [y, x] else b
  | _, _ => b

/-- What is left of a store in flight where a range of the own scratchpad is written after it. -/
def cutStore (s : State) (off n : Nat) (l : Landing) : List Landing :=
  let rest := fun (va : Word) (b : List Byte) => match ownSpot s va with
    | some p =>
      if off < p.off + b.length ∧ p.off < off + n then
        (if p.off < off then [(va, b.take (off - p.off))] else [])
          ++ (if off + n < p.off + b.length then [(va + word (off + n - p.off), b.drop (off + n - p.off))] else [])
      else [(va, b)]
    | none => [(va, b)]
  match l with
  | .store va b => (rest va b).map fun x => .store x.1 x.2
  | .storeRaise va b name lane =>
    let l := rest va b
    let last := l.getLastD (va, [])
    l.dropLast.map (fun x => .store x.1 x.2) ++ [.storeRaise last.1 last.2 name lane]
  | _ => [l]

/-- The own-scratchpad bytes that an interlocked access of a bundle writes at its place of execution, with its read point: none of a
compare-and-swap that fails. -/
def Access.ownWrites (r : State) (a : Access) : Option (Nat × Nat) :=
  let plain := fun (va : Word) (n : Nat) (ok : List Byte → Bool) => match ownSpot r va with
    | some (.plain off) => if ok (memBytes r.mem (Place.scratch r.active off).key n) then some (off, n) else none
    | _ => none
  match a with
  | .store va b => (ownSpot r va).map fun p => (p.off, b.length)
  | .amo _ nar va .. => plain va (if nar then 4 else 8) fun _ => true
  | .cas nar va e .. => plain va (if nar then 4 else 8) fun old => old == leBytes (if nar then 4 else 8) e.toNat
  | .cas128 va el eh .. => plain va 16 fun old => old == leBytes 8 el.toNat ++ leBytes 8 eh.toNat
  | _ => none

/-- Where both copy slots store to a byte of the own scratchpad, S7's remains (R54, R321): S6's store, which performs at t + 1, gives way
to what an interlocked access of S7 has written. -/
def higherSlotWins (r : State) (b : List (Nat × SlotOp)) (s : State) : State :=
  let done := !(s.task.owed.any fun o => o.slot == 7 && !r.task.owed.contains o) &&
    !(s.task.detected.any fun d => d.slot == 7 && !r.task.detected.contains d)
  match ((b.find? (·.1 == 7)).bind fun y => y.2.access r).bind (Access.ownWrites r) with
  | some (off, n) =>
    if done then
      { s with task := { s.task with inflight := s.task.inflight.map fun e =>
        if e.slot = 6 then { e with results := e.results.flatMap (cutStore s off n) } else e } }
    else s
  | none => s

/-- The effects of the live slots, every one reading at the read point (R97). -/
def applySlots (link : Word) (r : State) (b : List (Nat × SlotOp)) (s : State) : State :=
  higherSlotWins r b ((slotOrder r b).foldl (fun s x => x.2.eff ⟨x.1, link, claimsBelow b x.1⟩ r s) s)

/-- The wait of a `wait` or `tcwait`, which ends in p1. -/
def Wait.setsP1 (w : Wait) : Bool :=
  match w.kind with
  | .word .. | .counter .. => true
  | _ => false

/-- What the own slots of a bundle still owe of scalar registers and predicates. -/
def owedScalars (r s : State) : List Dest :=
  let ops := (s.task.owed.filter fun o => !r.task.owed.any (·.id == o.id)).filterMap fun o => match o.kind with
    | .reduction .. => none
    | .access a _ _ => some a
  let sc := s.task.waits.flatMap fun w => match w.kind with
    | .slotWheel l => l.map (·.access)
    | _ => []
  ((ops ++ sc).flatMap fun a => a.dests.filter fun d => match d with
    | .sreg _ | .pred _ => true
    | _ => false) ++ if s.task.waits.any Wait.setsP1 then [.pred 1] else []

/-- Finish the checkpoint of a `phase.begin` once every slot has written (R145): an exposed scalar result of the bundle's own slots
is in it, and what they owe is noted. -/
def takeCheckpoint (r s : State) : State :=
  if phaseOpen s.task && s.task.checkpoint.isNone then
    let regs := (s.task.inflight.drop r.task.inflight.length).foldl (fun m e => e.results.foldl (fun m l => match l with
      | .scalar d v => putS m d.toNat v
      | _ => m) m) s.task.sregs
    { s with task := { s.task with checkpoint := some ⟨owedScalars r s, regs, s.task.preds, s.task.pc, s.task.repLeft⟩ } }
  else s

/-- The accesses of a task that have still to be performed: owed, waiting at the slot wheel, detected as faulty, or replay entries. -/
def openAccesses (t : Task) : List Access :=
  (t.owed.filterMap fun o => match o.kind with
      | .reduction .. => none
      | .access a _ _ => some a)
    ++ (t.waits.flatMap fun w => match w.kind with
      | .slotWheel l => l.map (·.access)
      | _ => [])
    ++ t.detected.flatMap (fun d => d.replay.map (·.access)) ++ (t.replays ++ t.snapReplay).map (·.access)

/-- What those accesses, and the waits in progress, have still to write. -/
def openDests (t : Task) : List Dest :=
  (openAccesses t).flatMap Access.dests ++ if t.waits.any Wait.setsP1 then [.pred 1] else []

/-- The checkpoint takes a value of its own bundle's slots as it is produced (R145). -/
def syncCheckpoint (s : State) : State :=
  match s.task.checkpoint with
  | none => s
  | some c =>
    let left := openDests s.task
    let c1 := (c.awaits.filter fun d => !left.contains d).foldl (fun (c : Checkpoint) d => match d with
      | .sreg n => { c with sregs := putS c.sregs n (smGet 0 s.task.sregs n) }
      | .pred n => { c with preds := putP c.preds n (s.task.preds.getLsbD n) }
      | _ => c) c
    { s with task := { s.task with checkpoint := some { c1 with awaits := c.awaits.filter left.contains } } }

/-- The core waits for what the own slots of a `phase.begin` bundle owe (R145). -/
def checkpointOwed (t : Task) : Bool :=
  match t.checkpoint with
  | none => false
  | some c => c.awaits.any (owedDests t).contains

/-- Move to the next position: a branch target, a further issue of the reference, or on (R47, R49, R133). -/
def advance (o : Origin) (s : State) : State :=
  let t := s.task
  match t.flow with
  | .branch p => { s with task := { t with pc := p, repLeft := if o = .full then t.repLeft else 0, flow := .next } }
  | _ =>
    match o with
    | .full => { s with task := { t with pc := nextPosition o t.pc } }
    | .reference .. => if t.repLeft = 0 then { s with task := { t with pc := nextPosition o t.pc } } else s

/-- The bundle was an effective safe point (R100): nothing exposed was or is in flight and no snapshot is held. -/
def effectiveSp (sp : Bool) (r s : State) : Bool :=
  sp && r.task.inflight.isEmpty && s.task.inflight.isEmpty && snapCount r.task == 0

/-- A park-capable wait parks only in an effective safe point (R101). -/
def Wait.parkIf (eff : Bool) (w : Wait) : Wait := { w with park := w.park && eff }

/-- So does a wait that an owed operation goes on to. -/
def Owed.parkIf (eff : Bool) (o : Owed) : Owed := { o with park := o.park && eff }

/-- Whatever the running frame waits for, or will wait for, parks only where `eff` holds. -/
def parkOnly (eff : Bool) (s : State) : State :=
  { s with task := { s.task with waits := s.task.waits.map (Wait.parkIf eff), owed := s.task.owed.map (Owed.parkIf eff) } }

/-- A store in flight that raises a counter once it has performed (R392). -/
def Landing.raises : Landing → Bool
  | .storeRaise .. => true
  | _ => false

/-- Nothing of the frame's issued bundles is left to complete, what an `exit` or `eret` discards or performs itself apart. -/
def Task.idle (t : Task) : Bool :=
  t.detected.isEmpty && t.cancel.isNone && t.owed.isEmpty && t.waits.isEmpty
    && t.inflight.all fun e => !e.results.any Landing.raises

/-- One bundle time of a core that the debugger steps (R88): the last one stops it. -/
def Core.countStep (c : Core) : Core :=
  match c.stepsLeft with
  | some n => if n ≤ 1 then { c with stepsLeft := none, stopped := true } else { c with stepsLeft := some (n - 1) }
  | none => c

/-- After the slots: the clocks advance, the safe-point count is kept, a wait parks or freezes, and control goes on. An `exit`
and an `eret` wait for the frame's interlocked operations (R139, R147). -/
def finishIssue (sp : Bool) (skip : Nat) (o : Origin) (r s : State) : State :=
  let eff := effectiveSp sp r s
  let s1 := parkOnly eff { s with
    tick := s.tick + 1
    core := { s.core.countStep with fills := s.core.fills.filter (·.failed.isNone), passBreak := none }
    task := { s.task with
      bt := s.task.bt + 1
      skip := skip
      sinceSp := if eff then 0 else s.task.sinceSp + 1
      quantum := s.task.quantum + 1
      atSafe := eff
      rimWait := none
      stateWord := none
      latch := .empty } }
  match s1.task.flow with
  | .exit => if s1.task.idle then endTask none s1 else advance o s1
  | .eret => if s1.task.idle then returnTrap skip s1 else advance o s1
  | .yield => advance o (if eff then s1 else { s1 with task := { s1.task with flow := .next } })
  | _ => takeCheckpoint r (advance o s1)

/-- The slots are clear of traps: they take effect. -/
def performBundle (b : List (Nat × SlotOp)) (sp : Bool) (skip : Nat) (o : Origin) (r : State) : State :=
  let link := nextPosition o r.task.pc
  finishIssue sp skip o r (applySlots link r (live r b) (countIssue o r))

/-- Trap at issue (R107): nothing of the bundle takes effect. After `sys`, `trap` and `brk` the task resumes behind the
bundle with its SKIP. -/
def trapAtIssue (skip : Nat) (o : Origin) (slot : Nat) (c : BitVec 8) (d : BitVec 16) (va : Word) (after : Bool) (r : State) :
    State :=
  if after then
    let s1 := advance o (countIssue o r)
    raiseTrap ⟨c, d, slot, false, false, va, s1.task.pc⟩ { s1 with task := { s1.task with skip := skip } }
  else issueTrap c d slot va r

/-- A bundle fails an issue check (R416): the slot's trap, or a destination clash that tags reveal. -/
inductive IssueFault
  | check (slot : Nat) (cause : BitVec 8) (detail : BitVec 16) (va : Word) (after : Bool)
  | clash (slot : Nat)
  deriving DecidableEq, Repr

def IssueFault.slot : IssueFault → Nat
  | .check n .. | .clash n => n

/-- The failing check of the lowest slot (R416). -/
def issueFault (link : Word) (r : State) (b : List (Nat × SlotOp)) : Option IssueFault :=
  match firstTrap link r (live r b), tagClash r b with
  | some (slot, c, d, v, a), some h => if h ≤ slot then some (.clash h) else some (.check slot c d v a)
  | some (slot, c, d, v, a), none => some (.check slot c d v a)
  | none, some h => some (.clash h)
  | none, none => none

/-- A fault of a slot can be reported: no lower slot has still to read what it checks. -/
def reportable (unread : Option Nat) (f : IssueFault) : Bool :=
  match unread with
  | none => true
  | some n => decide (f.slot < n)

/-- Take an issue fault. -/
def takeIssueFault (skip : Nat) (o : Origin) (f : IssueFault) (r : State) : State :=
  match f with
  | .check slot c d v a => trapAtIssue skip o slot c d v a r
  | .clash h => issueTrap causeEncoding 0 h 0 r

/-- A bundle passes its checks and takes effect. -/
def issuesNow (b : List (Nat × SlotOp)) (o : Origin) (s : State) : Bool :=
  let r := arrive o s
  let link := nextPosition o r.task.pc
  !overrun r.task && !stalled r (live r b) && (issueFault link r b).isNone && (firstFreeze link r (live r b)).isNone

/-- Issue a decoded bundle (R43, R47): it freezes, traps (R416), or takes effect. The checks come before any wait for a rim, a
line or another operation (R171). -/
def issueBundle (b : List (Nat × SlotOp)) (sp : Bool) (skip : Nat) (o : Origin) (s : State) : State :=
  let r := arrive o s
  let link := nextPosition o r.task.pc
  let on := live r b
  if overrun r.task then issueTrap causeOverrun 0 0 0 r
  else if stalled r on then freezeStep .owed r
  else
    match (issueFault link r b).filter (reportable (firstUnread link r on)), firstFreeze link r on with
    | some f, _ => takeIssueFault skip o f r
    | none, some f => freezeStep f r
    | none, none => performBundle b sp skip o r

/-- A decode trap that the privilege or the core gives a syllable (R55, R63, R64, R129): ILLEGAL_INSTRUCTION before
PRIVILEGE. -/
def decodeTrapOf (s : State) (x : SlotOp) : Option (BitVec 8) :=
  if x.gateOnly && !isGate s.active then some causeInstruction else x.decode s.task.supervisor

/-- The meaning of a syllable on its own: the running task of the active core issues a full bundle that holds only it. -/
def issueLone (slot : Nat) (x : SlotOp) (s : State) : Result :=
  match s.core.run with
  | none => .fault .noRunningFrame
  | some _ =>
    match decodeTrapOf s x with
    | some c => .next (issueTrap c 0 slot 0 s)
    | none => .next (issueBundle [(slot, x)] false 0 .full s)

end Sys2Proof.Machine
end

