-- ==== Sys2Proof/Machine/Flags.lean ====
section
/-! DEFINITION. FPCSR (R22): raising flags, the enables, and the checks FORCED_RESOLVE, PENDING_OVERFLOW and FP_EXCEPTION that
decide whether a result is written (R23, R166, R168, R170). -/

namespace Sys2Proof.Machine

/-- The rounding mode (R21). -/
def roundMode (t : Task) : Nat := bits t.fpcsr 0 2

/-- FPCSR with flags ORed into the sticky field [6:2] (R23). -/
def orFlags (f : Word) (x : Flags) : Word := f ||| (x.setWidth 64 <<< 2)

/-- A raised flag has its enable in [12:8] set. -/
def trapsOn (f : Word) (x : Flags) : Bool := (BitVec.ofNat 5 (bits f 8 5)) &&& x != 0

/-- FRT and POE (R22). -/
def frt (f : Word) : Bool := bits f 14 1 = 1
def poe (f : Word) : Bool := bits f 15 1 = 1

/-- Why a result is not written: the cause and DETAIL of its completion-class trap. -/
def verdict (f : Word) (forced ovpHit : Bool) (x : Flags) : Option (BitVec 8 × BitVec 16) :=
  if forced && frt f then some (causeForced, 0)
  else if ovpHit && poe f then some (causePendingOverflow, 0)
  else if trapsOn f x then some (causeFp, x.setWidth 16)
  else none

/-- The flags that rise: none where FORCED_RESOLVE or PENDING_OVERFLOW stopped the operation before its resolve (R170). -/
def risen (f : Word) (forced ovpHit : Bool) (x : Flags) : Flags :=
  if (forced && frt f) || (ovpHit && poe f) then 0 else x

/-- Complete an operation under FPCSR as it stands (R23): flags rise, and it writes or takes its trap, with TRAPVA the PC of
its bundle. -/
def complete (slot : Nat) (pc : Word) (forced ovpHit : Bool) (x : Flags) (write : State → State) (s : State) : State :=
  let f := s.task.fpcsr
  let s1 := { s with task := { s.task with fpcsr := orFlags f (risen f forced ovpHit x) } }
  match verdict f forced ovpHit x with
  | some (c, d) => detect s1 ⟨c, d, slot, pc, []⟩
  | none => write s1

/-- Issue an exposed operation: its results land `lat` bundle times after the read point (R94). -/
def expose (c : Ctx) (r : State) (lat : Nat) (forced ovpHit : Bool) (x : Flags) (results : List Landing) (s : State) : State :=
  { s with task := { s.task with inflight := s.task.inflight ++
      [⟨r.task.bt.toNat + lat, r.task.pc, c.slot, forced, ovpHit, x, false, results⟩] } }

end Sys2Proof.Machine
end

