-- ==== Sys2Proof/Machine/Special.lean ====
section
/-! DEFINITION. The special functions (R37 to R39): exact values by enclosures of growing precision, correctly rounded, and the
NA-840 compatibility mode. -/

namespace Sys2Proof.Machine

/-- An enclosure of a positive real: it lies strictly between lo * 2^e and hi * 2^e. -/
structure Encl where
  lo : Nat
  hi : Nat
  e : Int
  deriving DecidableEq, Repr

/-- An enclosure scaled by 2^-w, with the width kept apart. -/
structure Iv where
  lo : Nat
  hi : Nat
  deriving DecidableEq, Repr

def Iv.mul (w : Nat) (a b : Iv) : Iv := ⟨a.lo * b.lo / 2 ^ w, a.hi * b.hi / 2 ^ w + 1⟩
def Iv.div (w : Nat) (a b : Iv) : Iv := ⟨a.lo * 2 ^ w / b.hi, a.hi * 2 ^ w / max 1 b.lo + 1⟩
def Iv.add (a b : Iv) : Iv := ⟨a.lo + b.lo, a.hi + b.hi⟩
def Iv.sub (a b : Iv) : Iv := ⟨a.lo - b.hi, a.hi - b.lo⟩

/-- m * 2^e at scale 2^-w. -/
def Iv.ofDyadic (w m : Nat) (e : Int) : Iv :=
  let k := e + w
  if 0 ≤ k then ⟨m * 2 ^ k.toNat, m * 2 ^ k.toNat⟩ else ⟨m / 2 ^ (-k).toNat, m / 2 ^ (-k).toNat + 1⟩

/-- ln 2 = sum of 1 / (k 2^k). -/
def lnTwo (w : Nat) : Iv :=
  let s := (List.range (w + 2)).foldl (fun a k => a + 2 ^ w / ((k + 1) * 2 ^ (k + 1))) 0
  ⟨s, s + w + 4⟩

/-- The sum of a power series from below and above: term k + 1 is term k times `y` and `num k / den k`. -/
def seriesIv (w : Nat) (y : Iv) (num den : Nat → Nat) : Nat → Nat → Nat → Nat → Iv → Iv
  | 0, _, _, th, s => ⟨s.lo, s.hi + 2 * th + 2⟩
  | n + 1, k, tl, th, s =>
    let tl' := tl * y.lo * num k / (den k * 2 ^ w)
    let th' := th * y.hi * num k / (den k * 2 ^ w) + 1
    seriesIv w y num den n (k + 1) tl' th' ⟨s.lo + tl', s.hi + th'⟩

/-- e^y for y in [0, 1). -/
def expIv (w : Nat) (y : Iv) : Iv :=
  seriesIv w y (fun _ => 1) (fun k => k + 1) (w / 3 + 20) 0 (2 ^ w) (2 ^ w) ⟨2 ^ w, 2 ^ w⟩

/-- e^-y for y = m * 2^e at least 0. -/
def expNeg (w m : Nat) (e : Int) : Iv :=
  let y := Iv.ofDyadic w m e
  let l := lnTwo w
  let n := y.lo / l.hi
  let r : Iv := ⟨y.lo - n * l.hi, y.hi - n * l.lo⟩
  let x := Iv.div w ⟨2 ^ w, 2 ^ w⟩ (expIv w r)
  ⟨x.lo / 2 ^ n, x.hi / 2 ^ n + 1⟩

/-- arctan(1/q) by its alternating series. -/
def atanInv (w q : Nat) : Iv :=
  let s := (List.range (w / 4 + 4)).foldl (fun (a : Int) k =>
    let t : Int := (2 ^ w / (q ^ (2 * k + 1) * (2 * k + 1)) : Nat)
    if k % 2 = 0 then a + t else a - t) 0
  ⟨(s - (w / 4 + 6 : Nat)).toNat, (s + (w / 4 + 6 : Nat)).toNat⟩

/-- pi, by Machin's formula. -/
def piIv (w : Nat) : Iv :=
  let a := atanInv w 5
  let b := atanInv w 239
  ⟨16 * a.lo - 4 * b.hi, 16 * a.hi - 4 * b.lo⟩

/-- The square root of an enclosure. -/
def Iv.sqrt (w : Nat) (a : Iv) : Iv := ⟨isqrt (a.lo * 2 ^ w), isqrt (a.hi * 2 ^ w) + 1⟩

/-- The sum of v^n / (2n+1)!!, for v = m * 2^e. -/
def erfSeries (w m : Nat) (e : Int) : Iv :=
  let v := Iv.ofDyadic w m e
  seriesIv w v (fun _ => 1) (fun k => 2 * k + 3) (v.hi / 2 ^ w + w) 0 (2 ^ w) (2 ^ w) ⟨2 ^ w, 2 ^ w⟩

/-- A value too small to reach any format: only its sign and that it is not zero matter. -/
def tinyEncl : Encl := ⟨1, 2, -1300⟩

/-- A value just below m * 2^e. -/
def justBelow (m : Nat) (e : Int) (n : Nat) : Encl := ⟨m * 2 ^ n - 1, m * 2 ^ n, e - n⟩

/-- An enclosure at scale 2^-w times m * 2^e. -/
def Iv.times (w : Nat) (a : Iv) (m : Nat) (e : Int) : Encl := ⟨a.lo * m, a.hi * m, e - w⟩

/-- m * 2^e is at least the integer k. -/
def atLeast (m : Nat) (e : Int) (k : Nat) : Bool :=
  if 0 ≤ e then decide (k ≤ m * 2 ^ (min e 64).toNat) else decide (k * 2 ^ (-e).toNat ≤ m)

/-- 2^x for x not an integer. -/
def exp2Encl (neg : Bool) (m : Nat) (e : Int) (n : Nat) : Encl :=
  if atLeast m e 2000 then (if neg then tinyEncl else ⟨1, 2, 1999⟩)
  else
    let w := n + 64
    let d := 2 ^ (-e).toNat
    let i := m / d
    let f := m % d
    -- x = i + f / d, or -(i + 1) + (d - f) / d
    let f' := if neg then d - f else f
    let i' : Int := if neg then -(i + 1 : Nat) else i
    let x := expIv w (Iv.mul w (Iv.ofDyadic w f' e) (lnTwo w))
    ⟨x.lo, x.hi, i' - w⟩

/-- log2 of m * 2^e, not a power of two: the sign and the magnitude. -/
def log2Neg (m : Nat) (e : Int) : Bool := e + (Nat.log2 m : Nat) < 0

def log2Encl (m : Nat) (e : Int) (n : Nat) : Encl :=
  let w := n + 64
  let l := Nat.log2 m
  let k := e + (l : Nat)
  let z : Iv := Iv.div w ⟨(m - 2 ^ l) * 2 ^ w, (m - 2 ^ l) * 2 ^ w⟩ ⟨(m + 2 ^ l) * 2 ^ w, (m + 2 ^ l) * 2 ^ w⟩
  let s := seriesIv w (Iv.mul w z z) (fun k => 2 * k + 1) (fun k => 2 * k + 3) (w / 3 + 10) 0 z.lo z.hi z
  let q := Iv.div w ⟨2 * s.lo, 2 * s.hi⟩ (lnTwo w)
  if 0 ≤ k then ⟨q.lo + k.toNat * 2 ^ w, q.hi + k.toNat * 2 ^ w, -w⟩
  else ⟨(-k).toNat * 2 ^ w - q.hi, (-k).toNat * 2 ^ w - q.lo, -w⟩

/-- tanh of m * 2^e > 0. -/
def tanhEncl (m : Nat) (e : Int) (n : Nat) : Encl :=
  if atLeast m e 100 then justBelow 1 0 n
  else
    let w := n + 64
    let v := expNeg w m (e + 1)
    let q := Iv.div w (Iv.sub ⟨2 ^ w, 2 ^ w⟩ v) (Iv.add ⟨2 ^ w, 2 ^ w⟩ v)
    ⟨q.lo, q.hi, -w⟩

/-- 1 / (1 + e^-x) at scale 2^-w, for |x| = m * 2^e below 400. -/
def sigmoidIv (w : Nat) (neg : Bool) (m : Nat) (e : Int) : Iv :=
  let v := expNeg w m e
  Iv.div w (if neg then v else ⟨2 ^ w, 2 ^ w⟩) (Iv.add ⟨2 ^ w, 2 ^ w⟩ v)

/-- The sigmoid. -/
def sigmoidEncl (neg : Bool) (m : Nat) (e : Int) (n : Nat) : Encl :=
  if atLeast m e 400 then (if neg then tinyEncl else justBelow 1 0 n)
  else (sigmoidIv (n + 64) neg m e).times (n + 64) 1 0

/-- The magnitude of SiLU. -/
def siluEncl (neg : Bool) (m : Nat) (e : Int) (n : Nat) : Encl :=
  if atLeast m e 400 then (if neg then tinyEncl else justBelow m e n)
  else (sigmoidIv (n + 64) neg m e).times (n + 64) m e

/-- erf of m * 2^e > 0 at scale 2^-w: 2/sqrt(pi) * x * e^(-x^2) * T(2 x^2). -/
def erfIv (w m : Nat) (e : Int) : Iv :=
  let c := Iv.div w ⟨2 * 2 ^ w, 2 * 2 ^ w⟩ (Iv.sqrt w (piIv w))
  Iv.mul w (Iv.mul w c (Iv.ofDyadic w m e)) (Iv.mul w (expNeg w (m * m) (2 * e)) (erfSeries w (m * m) (2 * e + 1)))

def erfEncl (m : Nat) (e : Int) (n : Nat) : Encl :=
  if atLeast m e 12 then justBelow 1 0 n else (erfIv (n + 64) m e).times (n + 64) 1 0

/-- erf(x / sqrt 2) of x = m * 2^e > 0 at scale 2^-w: sqrt(2/pi) * x * e^(-x^2/2) * T(x^2). -/
def erfHalfIv (w m : Nat) (e : Int) : Iv :=
  let c := Iv.sqrt w (Iv.div w ⟨2 * 2 ^ w, 2 * 2 ^ w⟩ (piIv w))
  Iv.mul w (Iv.mul w c (Iv.ofDyadic w m e)) (Iv.mul w (expNeg w (m * m) (2 * e - 1)) (erfSeries w (m * m) (2 * e)))

/-- The magnitude of GELU. -/
def geluEncl (neg : Bool) (m : Nat) (e : Int) (n : Nat) : Encl :=
  if atLeast m e 20 then (if neg then tinyEncl else justBelow m e n)
  else
    let w := n + 64
    let x := erfHalfIv w m e
    let one : Iv := ⟨2 ^ w, 2 ^ w⟩
    (if neg then Iv.sub one x else Iv.add one x).times w m (e - 1)

/-- The value of a special function: an exact value with flags; a magnitude with a sticky part; or a real number known by
enclosures. -/
inductive SfValue
  | exact (x : Fp) (flags : Flags)
  | sticky (neg : Bool) (m : Nat) (e : Int) (below : Bool)
  | real (neg : Bool) (encl : Nat → Encl)

/-- Round a real number: enclosures of growing precision until both ends round alike. `fuel` bounds the doublings. -/
def zivRound (f : FFmt) (rm : Nat) (neg : Bool) (encl : Nat → Encl) : Nat → Nat → Rounded
  | 0, n => let a := encl n; roundFinite f rm neg (max 1 a.lo) a.e true
  | fuel + 1, n =>
    let a := encl n
    let lo := roundFinite f rm neg a.lo a.e true
    if a.lo ≠ 0 ∧ a.lo < a.hi ∧ lo = roundFinite f rm neg (a.hi - 1) a.e true then lo
    else zivRound f rm neg encl fuel (2 * n)

/-- Round the value of a special function once. -/
def SfValue.round (f : FFmt) (rm : Nat) : SfValue → Rounded
  | .exact x fl => roundWith f rm (x, fl)
  | .sticky neg m e below => roundFinite f rm neg m e below
  | .real neg encl => zivRound f rm neg encl 5 80

/-- The special functions (R37, R179). -/
inductive Sf
  | exp2 | log2 | rcp | rsqrt | sqrt | tanh | sigmoid | silu | gelu | erf
  deriving DecidableEq, Repr

/-- The exact value of a function with the special operands of R38. -/
def sfValue (fn : Sf) (x : Fp) : SfValue :=
  match x with
  | .nan q => .exact (.nan false) (signalFlag [.nan q])
  | .inf n =>
    match fn with
    | .exp2 => .exact (if n then .zero else .inf false) 0
    | .log2 => if n then .exact (.nan false) flagNV else .exact (.inf false) 0
    | .rcp => .exact (.fin n 0 0) 0
    | .rsqrt => if n then .exact (.nan false) flagNV else .exact .zero 0
    | .sqrt => if n then .exact (.nan false) flagNV else .exact (.inf false) 0
    | .tanh | .erf => .exact (.fin n 1 0) 0
    | .sigmoid => .exact (if n then .zero else .fin false 1 0) 0
    | .silu | .gelu => .exact (if n then .fin true 0 0 else .inf false) 0
  | .fin n 0 _ =>
    match fn with
    | .exp2 => .exact (.fin false 1 0) 0
    | .log2 => .exact (.inf true) flagDZ
    | .rcp | .rsqrt => .exact (.inf n) flagDZ
    | .sqrt | .tanh | .erf | .silu | .gelu => .exact (.fin n 0 0) 0
    | .sigmoid => .exact (.fin false 1 (-1)) 0
  | .fin n m e =>
    match fn with
    | .exp2 =>
      if 0 ≤ e ∨ m % 2 ^ (-e).toNat = 0 then
        let k : Int := if 0 ≤ e then (m * 2 ^ (min e 16).toNat : Nat) else (m / 2 ^ (-e).toNat : Nat)
        .exact (.fin false 1 (if n then -(min k 4000) else min k 4000)) 0
      else .real false (exp2Encl n m e)
    | .log2 =>
      if n then .exact (.nan false) flagNV
      else if m = 2 ^ Nat.log2 m then .exact (fpOfInt (e + (Nat.log2 m : Nat)) 0 false) 0
      else .real (log2Neg m e) (log2Encl m e)
    | .rcp => .sticky n (2 ^ (200 + Nat.log2 m) / m) (-e - (200 + Nat.log2 m : Nat)) (2 ^ (200 + Nat.log2 m) % m != 0)
    | .rsqrt =>
      if n then .exact (.nan false) flagNV
      else
        let odd := (e.toNat + (-e).toNat) % 2
        let m' := m * 2 ^ odd
        let k := 100 + Nat.log2 m
        let r := isqrt (2 ^ (2 * k) / m')
        .sticky false r (-((e - odd) / 2) - k) (r * r * m' != 2 ^ (2 * k))
    | .sqrt =>
      if n then .exact (.nan false) flagNV
      else
        let k := 120 + (e.toNat + (-e).toNat) % 2
        let r := isqrt (m * 2 ^ k)
        .sticky false r ((e - k) / 2) (r * r != m * 2 ^ k)
    | .tanh => .real n (tanhEncl m e)
    | .erf => .real n (erfEncl m e)
    | .sigmoid => .real false (sigmoidEncl n m e)
    | .silu => .real n (siluEncl n m e)
    | .gelu => .real n (geluEncl n m e)

/-- A special function in native mode: one rounding under RM directly to the format (R37). -/
def sfNative (fn : Sf) (f : FFmt) (rm : Nat) (x : Fp) : Rounded := (sfValue fn x).round f rm

/-- A value rounded to the 20-bit grid of R39, with the flags of that rounding. -/
def compatGrid (v : SfValue) : Fp × Flags :=
  let r := v.round f32Compat 0
  (fpDecode f32Compat r.bits, r.flags)

/-- A special function in compatibility mode: the grid, then a 16-bit tile's format (R39). -/
def sfCompat (fn : Sf) (f : FFmt) (x : Fp) : Rounded :=
  let g := compatGrid (sfValue fn x)
  roundWith f 0 g

/-- A special function as SFCM selects. -/
def sfEval (fn : Sf) (compat : Bool) (f : FFmt) (rm : Nat) (x : Fp) : Rounded :=
  if compat then sfCompat fn f x else sfNative fn f rm x

/-- The activations of `vgact` and `vbas` (R180, R181). -/
inductive Act
  | none | silu | gelu | sigm | relu
  deriving DecidableEq, Repr

/-- The value of an activation; ReLU gives +0 for every number that is not positive (R180). -/
def actValue (a : Act) (x : Fp) : SfValue :=
  match a with
  | .none => .exact x (signalFlag [x])
  | .silu => sfValue .silu x
  | .gelu => sfValue .gelu x
  | .sigm => sfValue .sigmoid x
  | .relu =>
    match x with
    | .nan q => .exact (.nan false) (signalFlag [.nan q])
    | y => .exact (if y.neg? || y.isZero then .zero else y) 0

/-- A value times an exact factor. -/
def SfValue.times (v : SfValue) (b : Fp) : SfValue :=
  match v, b with
  | .exact x fl, y => let p := fpMul x y; .exact p.1 (fl ||| p.2)
  | _, .nan q => .exact (.nan false) (signalFlag [.nan q])
  | .sticky n _ _ _, .inf k => .exact (.inf (n != k)) 0
  | .real n _, .inf k => .exact (.inf (n != k)) 0
  | .sticky n _ _ _, .fin k 0 _ => .exact (.fin (n != k) 0 0) 0
  | .real n _, .fin k 0 _ => .exact (.fin (n != k) 0 0) 0
  | .sticky n m e below, .fin k m' e' =>
    -- the sticky part grows with the factor: keep it as an enclosure
    if below then .real (n != k) (fun w => ⟨m * m' * 2 ^ w, (m + 1) * m' * 2 ^ w, e + e' - w⟩)
    else .sticky (n != k) (m * m') (e + e') false
  | .real n encl, .fin k m' e' => .real (n != k) fun w => let a := encl w; ⟨a.lo * m', a.hi * m', a.e + e'⟩

/-- The gated activation act(a) * b (R180). -/
def gatedAct (act : Act) (compat : Bool) (f : FFmt) (rm : Nat) (a b : Fp) : Rounded :=
  if compat then
    let g := compatGrid (actValue act a)
    let p := roundWith f32 0 (fpMul g.1 b)
    let r := fpConvert f 0 (fpDecode f32 p.bits)
    ⟨r.bits, g.2 ||| p.flags ||| r.flags⟩
  else ((actValue act a).times b).round f rm

end Sys2Proof.Machine
end

