-- ==== Sys2Proof/Machine/Operands.lean ====
section
/-! DEFINITION. The operand forms of the tile and rim instructions: format tags (R13 to R17), elements of a tile, QB blocks
(R26 to R31), resolving factors (R161, R162), and the checks and waits of R160, R170 and R171. -/

namespace Sys2Proof.Machine

/-! ## Format tags -/

/-- The floating-point format of a tag. -/
def tagFmt (t : Nat) : FFmt :=
  if t = 1 then f32 else if t = 2 then f16 else if t = 3 then bf16 else f64

def isFloatTag (t : Nat) : Bool := 1 ≤ t && t ≤ 4
def isIntTag (t : Nat) : Bool := (5 ≤ t && t ≤ 7) || t == 0xB || t == 0xC
def isQbTag (t : Nat) : Bool := 8 ≤ t && t ≤ 0xA

/-- The tags of the special functions (R37). -/
def isSfTag (t : Nat) : Bool := 1 ≤ t && t ≤ 3

/-- The width of an element in bits; a QB or untagged container counts whole. -/
def tagWidth (t : Nat) : Nat :=
  if t = 4 then 64 else if t = 2 || t = 3 || t = 7 then 16 else if t = 0xB || t = 0xC then 8 else 32

/-- An integer tag is signed (R25). -/
def tagSigned (t : Nat) : Bool := t == 5 || t == 7 || t == 0xB

/-- An element's bits read as an integer under its tag. -/
def intOf (t bits : Nat) : Int :=
  let w := tagWidth t
  let x := bits % 2 ^ w
  if tagSigned t && decide (2 ^ (w - 1) ≤ x) then (x : Int) - 2 ^ w else x

/-- An integer wrapped to a tag's width (R24). -/
def wrapInt (t : Nat) (v : Int) : Nat := (v % 2 ^ tagWidth t).toNat

/-- The least and greatest integers of a tag. -/
def intMin (t : Nat) : Int := if tagSigned t then -(2 ^ (tagWidth t - 1)) else 0
def intMax (t : Nat) : Int := if tagSigned t then 2 ^ (tagWidth t - 1) - 1 else 2 ^ tagWidth t - 1

/-- An element of a float or integer tag as an exact value. -/
def elemValue (t bits : Nat) : Fp :=
  if isFloatTag t then fpDecode (tagFmt t) (bits % 2 ^ tagWidth t) else fpOfInt (intOf t bits) 0 false

/-! ## Operands -/

/-- A tile operand as read at a read point: tag, slots, OVP and the 256 elements in row order. An f64 operand holds 64-bit
elements of its pair (R17). -/
structure Opnd where
  tag : Nat
  slots : Slots
  ovp : Bool
  elems : Array Nat
  deriving DecidableEq, Repr

/-- Container (i, j) at index 16 i + j. -/
def container (t : Tile) (k : Nat) : Nat := (smGet 0 t.data k).toNat

/-- The containers of a tile. -/
def containers (t : Tile) : Array Nat := (Array.range 256).map (container t)

/-- Read a tile operand; a pair when it is tagged f64, whatever tag its odd tile has been given since (DESIGN CHOICE, log 68). -/
def readOpnd (s : State) (n : Nat) : Opnd :=
  let t := getTile s n
  let tag := t.tag.toNat
  let lo := containers t
  let elems :=
    if tag = 4 then
      let hi := containers (getTile s (n + 1))
      (Array.range 256).map fun k => lo.getD k 0 + hi.getD k 0 * 2 ^ 32
    else if isQbTag tag || tag = 0 then lo
    else lo.map fun x => x % 2 ^ tagWidth tag
  ⟨tag, t.slots, t.ovp, elems⟩

/-- Element (i, j). -/
def Opnd.at (o : Opnd) (i j : Nat) : Nat := o.elems.getD (16 * i + j) 0

/-- A tile register from containers in row order. -/
def mkTile (tag : Nat) (slots : Slots) (ovp : Bool) (c : Array Nat) : Tile :=
  ⟨BitVec.ofNat 4 tag, slots, ovp, smOfFn 0 256 fun k => BitVec.ofNat 32 (c.getD k 0)⟩

/-- The registers that a result writes: one tile, or the pair of an f64 result. OVP is kept only with a factor (R153). -/
def resultTiles (n tag : Nat) (slots : Slots) (ovp : Bool) (e : Array Nat) : List (Nat × Tile) :=
  let keep := ovp && slots != Slots.identity
  if tag = 4 then
    [(n, mkTile 4 slots keep (e.map fun x => x % 2 ^ 32)), (n + 1, mkTile 4 Slots.identity false (e.map fun x => x / 2 ^ 32))]
  else [(n, mkTile tag slots keep e)]

/-- The landings of a result. -/
def landTiles (l : List (Nat × Tile)) : List Landing := l.map fun x => .tile x.1 x.2

/-- The tile or tiles that a destination of a tag names. -/
def tileDests (n tag : Nat) : List Nat := if tag = 4 then [n / 2 * 2, n / 2 * 2 + 1] else [n]

/-- The odd tile that an even destination `n` of f64 width names as well (R415). -/
def oddDest (n : Nat) : List Nat := if n % 2 = 0 then [n + 1] else []

/-! ## Factor slots -/

/-- Slot position 1 to 4: RSH, RSC, CSH, CSC. -/
def Slots.pos (x : Slots) : Nat → BitVec 7
  | 1 => x.rsh
  | 2 => x.rsc
  | 3 => x.csh
  | _ => x.csc

/-- A code that names a rim. -/
def isFactor (c : BitVec 7) : Bool := c != 0x7F

/-- The slots with a position set. -/
def Slots.setPos (x : Slots) (p : Nat) (c : BitVec 7) : Slots :=
  if p = 1 then { x with rsh := c } else if p = 2 then { x with rsc := c }
  else if p = 3 then { x with csh := c } else { x with csc := c }

/-- The positions up to `m` that name a rim. -/
def factorsUpTo (x : Slots) (m : Nat) : List Nat := [1, 2, 3, 4].filter fun p => p ≤ m && isFactor (x.pos p)

/-- The slots with positions up to `m` identity. -/
def clearUpTo (x : Slots) (m : Nat) : Slots := [1, 2, 3, 4].foldl (fun x p => if p ≤ m then x.setPos p 0x7F else x) x

/-- Some slot names a rim. -/
def factored (x : Slots) : Bool := x != Slots.identity

/-- The last shift position (1 or 3) that names a rim; 0 if none. -/
def lastShift (x : Slots) : Nat := if isFactor x.csh then 3 else if isFactor x.rsh then 1 else 0

/-- Value e of a rim, as a binary32 pattern. -/
def rimVal (s : State) (k e : Nat) : Nat := (smGet 0 (getRim s k).vals e).toNat

/-- The value e of the rim a code names. -/
def codeVal (s : State) (c : BitVec 7) (e : Nat) : Fp := fpDecode f32 (rimVal s c.toNat e)

/-- The 16 values of a code's rim. -/
def codeVals (s : State) (c : BitVec 7) : Array Fp := if isFactor c then (Array.range 16).map (codeVal s c) else #[]

/-- The working format of a resolve (R161). -/
def workFmt (tag : Nat) : FFmt := if tag = 4 then f64 else f32

/-- One step of a resolve: skip it, or round under RNE and keep the flags. -/
def resolveStep (w : FFmt) (mul : Bool) (c : Option Fp) (x : Fp × Flags) : Fp × Flags :=
  match c with
  | none => x
  | some f =>
    let r := if mul then fpMulR w 0 f x.1 else fpAdd w 0 x.1 f
    (fpDecode w r.bits, x.2 ||| r.flags)

/-- Resolve one element through the given factors and round it to a format (R161). -/
def resolveElem (w dst : FFmt) (rsh rsc csh csc : Option Fp) (x : Fp) : Nat × Flags :=
  let y := resolveStep w true csc (resolveStep w false csh (resolveStep w true rsc (resolveStep w false rsh (x, signalFlag [x]))))
  let r := fpRound dst 0 y.1
  (r.bits, r.flags ||| y.2)

/-- resolve(X, m) with its flags (R161, R162). A resolve that applies no factor leaves the operand as it is. -/
def resolve (s : State) (o : Opnd) (m : Nat) : Opnd × Flags :=
  if (factorsUpTo o.slots m).isEmpty then (o, 0)
  else
    let f := tagFmt o.tag
    let rsh := codeVals s (if 1 ≤ m then o.slots.rsh else 0x7F)
    let rsc := codeVals s (if 2 ≤ m then o.slots.rsc else 0x7F)
    let csh := codeVals s (if 3 ≤ m then o.slots.csh else 0x7F)
    let csc := codeVals s (if 4 ≤ m then o.slots.csc else 0x7F)
    let r := (Array.range 256).map fun k =>
      resolveElem (workFmt o.tag) f rsh[k / 16]? rsc[k / 16]? csh[k % 16]? csc[k % 16]? (fpDecode f (o.elems.getD k 0))
    let slots := clearUpTo o.slots m
    (⟨o.tag, slots, o.ovp && factored slots, r.map Prod.fst⟩, r.foldl (fun a x => a ||| x.2) 0)

/-- Operands after the resolves an instruction makes: whether one was made at all, whether one met OVP (R168), and the flags. -/
structure Resolved where
  opnds : List Opnd
  forced : Bool
  ovpHit : Bool
  flags : Flags
  deriving DecidableEq, Repr

/-- Resolve each operand through its position. -/
def resolveAll (s : State) (l : List (Opnd × Nat)) : Resolved :=
  l.foldl (fun a x =>
    let hit := !(factorsUpTo x.1.slots x.2).isEmpty
    let r := resolve s x.1 x.2
    ⟨a.opnds ++ [r.1], a.forced || hit, a.ovpHit || (hit && x.1.ovp), a.flags ||| r.2⟩) ⟨[], false, false, 0⟩

/-- The rims that resolving each operand through its position reads. -/
def rimsOf (l : List (Opnd × Nat)) : List Nat :=
  l.flatMap fun x => (factorsUpTo x.1.slots x.2).map fun p => (x.1.slots.pos p).toNat

/-- A rim is not READY (R157). -/
def rimPending (s : State) (k : Nat) : Bool :=
  match (getRim s k).state with
  | .ready => false
  | .pending _ _ => true

/-- A rim is PENDING on a local reduction. -/
def rimReducing (s : State) (k : Nat) : Bool :=
  match (getRim s k).state with
  | .pending p _ => p != 6
  | .ready => false

/-- Wait until rims are READY (R160). -/
def waitRims (s : State) (park : Bool) (l : List Nat) : Pre :=
  match l.find? (rimPending s) with
  | some k => .freeze (.rim k park)
  | none => .ok

/-- A local write of a rim waits while a reduction into it is in flight (R158). -/
def waitWrite (s : State) (l : List Nat) : Pre :=
  match l.find? (rimReducing s) with
  | some k => .freeze (.rim k false)
  | none => .ok

/-! ## Checks (R171) -/

/-- QUOTA for tiles. -/
def needTiles (s : State) (l : List Nat) : Pre := .need (l.all fun n => n < tileQuota s.task) causeQuota 0

/-- QUOTA for rims. -/
def needRims (s : State) (l : List Nat) : Pre := .need (l.all fun k => k < rimQuota s.task) causeQuota 0

/-- QUOTA for accumulators. -/
def needAccs (s : State) (l : List Nat) : Pre := .need (l.all fun a => a < accQuota s.task) causeQuota 0

/-- The tag of a tile. -/
def tagOf (s : State) (n : Nat) : Nat := (getTile s n).tag.toNat

/-- FORMAT_MISMATCH for an f64 operand that names an odd tile (R17). -/
def needEvenTile (tag n : Nat) : Pre := .need (tag ≠ 4 || n % 2 == 0) causeFormat 0

/-- FORMAT_MISMATCH for source tiles that are not of one allowed tag, or an odd tile of an f64 pair. -/
def needTags (s : State) (allowed : Nat → Bool) (l : List Nat) : Pre :=
  .need (l.all fun n => allowed (tagOf s n) && tagOf s n == tagOf s (l.headD 0) && (tagOf s n ≠ 4 || n % 2 == 0)) causeFormat 0

/-- Float and integer tags. -/
def isNumTag (t : Nat) : Bool := isFloatTag t || isIntTag t

/-- FRCNT counts an instruction that forces a resolve (R165). -/
def countForced (forced : Bool) (s : State) : State :=
  if forced then { s with task := { s.task with frcnt := word ((s.task.frcnt.toNat + 1) % 2 ^ 32) } } else s

/-! ## QB blocks (R26 to R30) -/

/-- The magnitude bits of a QB tag. -/
def qbBits (tag : Nat) : Nat := if tag = 8 then 2 else if tag = 9 then 4 else 7

/-- round_rne_int(|x| * 2^(k-1) / 2^(E - 127 - mu)) of a finite value (R30). -/
def qbGrid (k e mu : Nat) (m : Nat) (ex : Int) : Nat :=
  (fpToInteger 0 false m (ex + (k - 1 : Nat) - ((e : Int) - 127 - mu))).1.toNat

/-- A finite value's magnitude on the grid; an infinity is beyond any. -/
def qbMag (k e mu : Nat) : Fp → Nat
  | .fin _ m ex => qbGrid k e mu m ex
  | _ => 2 ^ k

/-- One QB block: its header and its (sign, magnitude) fields. -/
structure QbBlock where
  header : Nat
  fields : List Nat
  sat : Bool
  deriving DecidableEq, Repr

/-- `round_qb` (R30). -/
def roundQb (k e : Nat) (x : List Fp) : QbBlock :=
  if e = 255 ∨ x.any Fp.isNan then ⟨0xFF, List.replicate 16 0, false⟩
  else
    let lim := 2 ^ k - 1
    let at' := fun i => x.getD i .zero
    let mu := fun p => if qbMag k e 1 (at' (2 * p)) ≤ lim ∧ qbMag k e 1 (at' (2 * p + 1)) ≤ lim then 1 else 0
    let mag := fun i => qbMag k e (mu (i / 2)) (at' i)
    ⟨e + (List.range 8).foldl (fun a p => a + mu p * 2 ^ (8 + p)) 0,
     (List.range 16).map fun i => min (mag i) lim + (if (at' i).neg? then 2 ^ k else 0),
     (List.range 16).any fun i => lim < mag i⟩

/-- The containers of a block's row (R29). -/
def qbRow (k : Nat) (b : QbBlock) : List Nat :=
  let payload := (List.range 16).foldl (fun a i => a + b.fields.getD i 0 * 2 ^ (i * (k + 1))) 0
  (List.range 16).map fun c => if c = 0 then b.header else payload / 2 ^ (32 * (c - 1)) % 2 ^ 32

/-- The value of element `j` of a block with header `h` and payload `p` (R26). -/
def qbValue (k h p j : Nat) : Fp :=
  let e := h % 256
  if e = 255 then .nan false
  else
    let mu := h / 2 ^ (8 + j / 2) % 2
    let f := p / 2 ^ (j * (k + 1)) % 2 ^ (k + 1)
    .fin (f / 2 ^ k == 1) (f % 2 ^ k) ((e : Int) - 127 - mu - (k - 1 : Nat))

/-- The value of element (i, j) of a QB tile (R29). -/
def qbElem (o : Opnd) (i j : Nat) : Fp :=
  let p := o.at i 1 + o.at i 2 * 2 ^ 32 + o.at i 3 * 2 ^ 64 + o.at i 4 * 2 ^ 96
  qbValue (qbBits o.tag) (o.at i 0 % 2 ^ 16) p j

end Sys2Proof.Machine
end

