-- ==== Sys2Proof/Machine/Vector.lean ====
section
/-! DEFINITION. The vector slots S3 and S4 on tiles: elementwise arithmetic, compares, conversions, quantisation, special
functions, movement, broadcasts, tags, resolving and inspecting, with the factor rules of R164 (R170 to R193). -/

namespace Sys2Proof.Machine

/-! ## The commutation rules (R164) -/

/-- What an operation makes of its operands: the position each is resolved through, and the slots of its result. -/
structure Plan where
  opnds : List (Opnd × Nat)
  slots : Slots
  deriving DecidableEq, Repr

/-- The largest of the positions that fail. -/
def largestFailing (l : List (Nat × Bool)) : Nat := l.foldl (fun m x => if x.2 then max m x.1 else m) 0

/-- Every operand resolved in full, and a result without factors. -/
def fullPlan (l : List Opnd) : Plan := ⟨l.map fun o => (o, 4), Slots.identity⟩

/-- The one shift of two operands. -/
def oneShift (a b : BitVec 7) : BitVec 7 := if isFactor a then a else b

/-- `vadd`, and `vsub` with the shifts of TB identity. -/
def addPlan (sub : Bool) (a b : Opnd) : Plan :=
  let m := largestFailing
    [(1, isFactor b.slots.rsh && (sub || isFactor a.slots.rsh)), (2, a.slots.rsc != b.slots.rsc),
     (3, isFactor b.slots.csh && (sub || isFactor a.slots.csh)), (4, a.slots.csc != b.slots.csc)]
  let x := clearUpTo a.slots m
  let y := clearUpTo b.slots m
  ⟨[(a, m), (b, m)], ⟨oneShift x.rsh y.rsh, x.rsc, oneShift x.csh y.csh, x.csc⟩⟩

/-- `vmul`: one factored operand without shifts passes. -/
def mulPlan (a b : Opnd) : Plan :=
  if factored a.slots then
    let m := lastShift a.slots
    ⟨[(a, m), (b, if factored b.slots then 4 else 0)], clearUpTo a.slots m⟩
  else
    let m := lastShift b.slots
    ⟨[(a, 0), (b, m)], clearUpTo b.slots m⟩

/-- `vneg`: shifts are resolved, scales pass. -/
def negPlan (a : Opnd) : Plan := ⟨[(a, lastShift a.slots)], clearUpTo a.slots (lastShift a.slots)⟩

/-- All 16 values of a code's rim are strictly greater than +0. -/
def scalePositive (s : State) (c : BitVec 7) : Bool :=
  !isFactor c || (List.range 16).all fun e =>
    match codeVal s c e with
    | .inf n => !n
    | .fin n m _ => !n && m != 0
    | .nan _ => false

/-- `vabs`: positive scales pass. -/
def absPlan (s : State) (a : Opnd) : Plan :=
  let m := largestFailing [(1, isFactor a.slots.rsh), (2, !scalePositive s a.slots.rsc), (3, isFactor a.slots.csh),
    (4, !scalePositive s a.slots.csc)]
  ⟨[(a, m)], clearUpTo a.slots m⟩

/-- `vmin`, `vmax`: the same slots, with positive scales, pass. -/
def minPlan (s : State) (a b : Opnd) : Plan :=
  let m := largestFailing [(1, a.slots.rsh != b.slots.rsh),
    (2, a.slots.rsc != b.slots.rsc || !scalePositive s a.slots.rsc || !scalePositive s b.slots.rsc),
    (3, a.slots.csh != b.slots.csh),
    (4, a.slots.csc != b.slots.csc || !scalePositive s a.slots.csc || !scalePositive s b.slots.csc)]
  ⟨[(a, m), (b, m)], clearUpTo a.slots m⟩

/-- The scale rims whose values the positivity test reads (R242). -/
def scaleRims (l : List Opnd) : List Nat :=
  l.flatMap fun o => ([o.slots.rsc, o.slots.csc].filter isFactor).map (·.toNat)

/-- `vxpose`: shifts are resolved, the scales change places. -/
def xposePlan (a : Opnd) : Plan :=
  let x := clearUpTo a.slots (lastShift a.slots)
  ⟨[(a, lastShift a.slots)], ⟨0x7F, x.csc, 0x7F, x.rsc⟩⟩

/-- `vxrot`, `vxbrow`: row factors are resolved, column factors pass. -/
def rotPlan (a : Opnd) : Plan :=
  let m := if isFactor a.slots.rsh || isFactor a.slots.rsc then 2 else 0
  ⟨[(a, m)], clearUpTo a.slots m⟩

/-! ## Shapes -/

/-- The result of a tile operation before it lands. `moved`: its elements are the operand's, so only the operand's OVP counts
(R167). -/
structure TileResult where
  tag : Nat
  elems : Array Nat
  flags : Flags
  moved : Bool
  deriving DecidableEq, Repr

/-- Elementwise results with their flags. -/
def eachElem (tag : Nat) (f : Nat → Nat × Flags) : TileResult :=
  let r := (Array.range 256).map f
  ⟨tag, r.map Prod.fst, r.foldl (fun a x => a ||| x.2) 0, false⟩

/-- An element's raw value is beyond a finite operand (R167): infinite from finite operands, or NaN from none. -/
def overflowed (f : FFmt) (res : Nat) (ops : List Nat) : Bool :=
  let x := fpDecode f res
  let o := ops.map (fpDecode f)
  (x.isInf && o.all fun y => !y.isInf && !y.isNan) || (x.isNan && o.all fun y => !y.isNan)

/-- OVP of a result (R167). -/
def resultOvp (slots : Slots) (res : TileResult) (ops : List Opnd) : Bool :=
  factored slots && isFloatTag res.tag &&
    (ops.any (·.ovp) || !res.moved &&
      (List.range 256).any fun k => overflowed (tagFmt res.tag) (res.elems.getD k 0) (ops.map fun o => o.elems.getD k 0))

/-- A tile operation: sources of allowed tags, the tag of the result, the plan of R164, the rims its test reads, the latency
and the result from the resolved operands. An f64 result in an odd tile at quota - 1 traps FORMAT_MISMATCH, for its parity, where `tld`
and `tst` trap QUOTA for the pair's second tile: R90 leaves open which it is (DESIGN CHOICE, log 74). -/
def tileOp (g : BitVec 4) (d : BitVec 5) (srcs : List (BitVec 5)) (allowed : Nat → Bool) (dstTag : State → Nat)
    (plan : State → Plan) (test : State → List Nat) (lat : Nat) (f : State → List Opnd → TileResult) : SlotOp :=
  { guard := g
    decode := fun _ => none
    gateOnly := false
    reads := srcs.map fun x => .tile x.toNat
    dests := [.tile d.toNat]
    tagDests := fun r => if dstTag r = 4 then oddDest d.toNat else []
    memory := fun _ => false
    check := fun _ r =>
      (needTiles r (d.toNat :: srcs.map (·.toNat))).and fun _ =>
      (needTags r allowed (srcs.map (·.toNat))).and fun _ =>
      (needEvenTile (dstTag r) d.toNat).and fun _ =>
      (waitRims r true (test r)).and fun _ => waitRims r true (rimsOf (plan r).opnds)
    eff := fun c r s =>
      let p := plan r
      let q := resolveAll r p.opnds
      let res := f r q.opnds
      let out := resultTiles d.toNat res.tag p.slots (resultOvp p.slots res q.opnds) res.elems
      countForced q.forced (expose c r lat q.forced q.ovpHit (q.flags ||| res.flags) (landTiles out) s) }

/-- No rim is read by a test. -/
def noTest (_ : State) : List Nat := []

/-- Operand `i` of a list. -/
def opnd (l : List Opnd) (i : Nat) : Opnd := l.getD i ⟨0, Slots.identity, false, #[]⟩

/-- A two-source elementwise operation on float and integer tags. -/
def arithOp (g : BitVec 4) (d a b : BitVec 5) (lat : Nat) (plan : State → Opnd → Opnd → Plan) (test : State → List Nat)
    (allowed : Nat → Bool) (f : Nat → Nat → Nat → Nat → Nat × Flags) : SlotOp :=
  tileOp g d [a, b] allowed (fun r => tagOf r a.toNat) (fun r => plan r (readOpnd r a.toNat) (readOpnd r b.toNat)) test lat
    fun r l =>
      let x := opnd l 0
      let y := opnd l 1
      eachElem x.tag fun k => f x.tag (roundMode r.task) (x.elems.getD k 0) (y.elems.getD k 0)

/-- A one-source elementwise operation that keeps its tag. -/
def mapOp (g : BitVec 4) (d a : BitVec 5) (lat : Nat) (plan : State → Opnd → Plan) (test : State → List Nat)
    (allowed : Nat → Bool) (f : State → Nat → Nat → Nat × Flags) : SlotOp :=
  tileOp g d [a] allowed (fun r => tagOf r a.toNat) (fun r => plan r (readOpnd r a.toNat)) test lat
    fun r l =>
      let x := opnd l 0
      eachElem x.tag fun k => f r x.tag (x.elems.getD k 0)

/-- A rounded result as an element with flags. -/
def Rounded.pair (r : Rounded) : Nat × Flags := (r.bits, r.flags)

/-- Float by one function, integer by another, wrapped (R172). -/
def arith (ff : FFmt → Nat → Fp → Fp → Rounded) (fi : Int → Int → Int) (t rm a b : Nat) : Nat × Flags :=
  if isFloatTag t then (ff (tagFmt t) rm (fpDecode (tagFmt t) a) (fpDecode (tagFmt t) b)).pair
  else (wrapInt t (fi (intOf t a) (intOf t b)), 0)

/-- Minimum or maximum of two elements. -/
def minMaxElem (isMax : Bool) (t _rm a b : Nat) : Nat × Flags :=
  if isFloatTag t then (fpMinMax (tagFmt t) isMax a b).pair
  else
    let x := intOf t a
    let y := intOf t b
    (wrapInt t (if isMax then max x y else min x y), 0)

/-- Absolute value and negation of an element (R173). -/
def signElem (f : Fp → Fp) (fi : Int → Int) (t a : Nat) : Nat × Flags :=
  if isFloatTag t then
    let x := fpDecode (tagFmt t) a
    if x.isNan then (defaultNan (tagFmt t), signalFlag [x]) else ((fpRound (tagFmt t) 0 (f x)).bits, 0)
  else (wrapInt t (fi (intOf t a)), 0)

/-- `vadd` (R173). -/
def opVadd (g : BitVec 4) (d a b : BitVec 5) : SlotOp :=
  arithOp g d a b 2 (fun _ => addPlan false) noTest isNumTag (arith fpAdd (· + ·))

/-- The meaning of `vadd`: its issue alone in a bundle. -/
def execVadd (g : BitVec 4) (d a b : BitVec 5) (st : State) : Result :=
  issueLone 3 (opVadd g d a b) st

/-- `vsub` (R173). -/
def opVsub (g : BitVec 4) (d a b : BitVec 5) : SlotOp :=
  arithOp g d a b 2 (fun _ => addPlan true) noTest isNumTag (arith fpSub (· - ·))

/-- The meaning of `vsub`: its issue alone in a bundle. -/
def execVsub (g : BitVec 4) (d a b : BitVec 5) (st : State) : Result :=
  issueLone 3 (opVsub g d a b) st

/-- `vmul` (R173). -/
def opVmul (g : BitVec 4) (d a b : BitVec 5) : SlotOp :=
  arithOp g d a b 4 (fun _ => mulPlan) noTest isNumTag (arith fpMulR (· * ·))

/-- The meaning of `vmul`: its issue alone in a bundle. -/
def execVmul (g : BitVec 4) (d a b : BitVec 5) (st : State) : Result :=
  issueLone 3 (opVmul g d a b) st

/-- `vfma` (R173): a * b + d, rounded once; every factored operand is resolved. -/
def opVfma (g : BitVec 4) (d a b : BitVec 5) : SlotOp :=
  tileOp g d [a, b, d] isNumTag (fun r => tagOf r a.toNat)
    (fun r => fullPlan [readOpnd r a.toNat, readOpnd r b.toNat, readOpnd r d.toNat]) noTest 4 fun r l =>
      let x := opnd l 0
      let f := tagFmt x.tag
      eachElem x.tag fun k =>
        let p := x.elems.getD k 0
        let q := (opnd l 1).elems.getD k 0
        let c := (opnd l 2).elems.getD k 0
        if isFloatTag x.tag then (fpFma f (roundMode r.task) (fpDecode f p) (fpDecode f q) (fpDecode f c)).pair
        else (wrapInt x.tag (intOf x.tag p * intOf x.tag q + intOf x.tag c), 0)

/-- The meaning of `vfma`: its issue alone in a bundle. -/
def execVfma (g : BitVec 4) (d a b : BitVec 5) (st : State) : Result :=
  issueLone 3 (opVfma g d a b) st

/-- The scale rims of both sources (R242). -/
def scaleTest2 (a b : BitVec 5) (r : State) : List Nat := scaleRims [readOpnd r a.toNat, readOpnd r b.toNat]

/-- `vmin` (R173, R242). -/
def opVmin (g : BitVec 4) (d a b : BitVec 5) : SlotOp :=
  arithOp g d a b 2 minPlan (scaleTest2 a b) isNumTag (minMaxElem false)

/-- The meaning of `vmin`: its issue alone in a bundle. -/
def execVmin (g : BitVec 4) (d a b : BitVec 5) (st : State) : Result :=
  issueLone 3 (opVmin g d a b) st

/-- `vmax` (R173, R242). -/
def opVmax (g : BitVec 4) (d a b : BitVec 5) : SlotOp :=
  arithOp g d a b 2 minPlan (scaleTest2 a b) isNumTag (minMaxElem true)

/-- The meaning of `vmax`: its issue alone in a bundle. -/
def execVmax (g : BitVec 4) (d a b : BitVec 5) (st : State) : Result :=
  issueLone 3 (opVmax g d a b) st

/-- `vabs` (R173, R242). -/
def opVabs (g : BitVec 4) (d a : BitVec 5) : SlotOp :=
  mapOp g d a 2 absPlan (fun r => scaleRims [readOpnd r a.toNat]) isNumTag fun _ => signElem Fp.abs fun v => (v.natAbs : Int)

/-- The meaning of `vabs`: its issue alone in a bundle. -/
def execVabs (g : BitVec 4) (d a : BitVec 5) (st : State) : Result :=
  issueLone 3 (opVabs g d a) st

/-- `vneg` (R173). -/
def opVneg (g : BitVec 4) (d a : BitVec 5) : SlotOp :=
  mapOp g d a 2 (fun _ => negPlan) noTest isNumTag fun _ => signElem Fp.negate fun v => -v

/-- The meaning of `vneg`: its issue alone in a bundle. -/
def execVneg (g : BitVec 4) (d a : BitVec 5) (st : State) : Result :=
  issueLone 3 (opVneg g d a) st

/-- The tiles that copying an operand writes: the register as it stands, and the odd one of an f64 pair. -/
def copyTiles (r : State) (d a : Nat) : List (Nat × Tile) :=
  if tagOf r a = 4 then [(d, getTile r a), (d + 1, getTile r (a + 1))] else [(d, getTile r a)]

/-- `vmov` (R173): containers, tag, slots and OVP, bit for bit. -/
def opVmov (g : BitVec 4) (d a : BitVec 5) : SlotOp :=
  { guard := g
    decode := fun _ => none
    gateOnly := false
    reads := [.tile a.toNat]
    dests := [.tile d.toNat]
    tagDests := fun r => if tagOf r a.toNat = 4 then oddDest d.toNat else []
    memory := fun _ => false
    check := fun _ r => (needTiles r [d.toNat, a.toNat]).and fun _ => (needTags r (· ≠ 0) [a.toNat]).and fun _ =>
      needEvenTile (tagOf r a.toNat) d.toNat
    eff := fun c r s => expose c r 2 false false 0 (landTiles (copyTiles r d.toNat a.toNat)) s }

/-- The meaning of `vmov`: its issue alone in a bundle. -/
def execVmov (g : BitVec 4) (d a : BitVec 5) (st : State) : Result :=
  issueLone 3 (opVmov g d a) st

/-- A logic operation on the elements' bits; every factored operand is resolved. -/
def logicOp (g : BitVec 4) (d a b : BitVec 5) (f : Nat → Nat → Nat) : SlotOp :=
  arithOp g d a b 2 (fun _ x y => fullPlan [x, y]) noTest isNumTag fun _ _ x y => (f x y, 0)

/-- `vand` (R173). -/
def opVand (g : BitVec 4) (d a b : BitVec 5) : SlotOp :=
  logicOp g d a b Nat.land

/-- The meaning of `vand`: its issue alone in a bundle. -/
def execVand (g : BitVec 4) (d a b : BitVec 5) (st : State) : Result :=
  issueLone 3 (opVand g d a b) st

/-- `vor` (R173). -/
def opVor (g : BitVec 4) (d a b : BitVec 5) : SlotOp :=
  logicOp g d a b Nat.lor

/-- The meaning of `vor`: its issue alone in a bundle. -/
def execVor (g : BitVec 4) (d a b : BitVec 5) (st : State) : Result :=
  issueLone 3 (opVor g d a b) st

/-- `vxor` (R173). -/
def opVxor (g : BitVec 4) (d a b : BitVec 5) : SlotOp :=
  logicOp g d a b Nat.xor

/-- The meaning of `vxor`: its issue alone in a bundle. -/
def execVxor (g : BitVec 4) (d a b : BitVec 5) (st : State) : Result :=
  issueLone 3 (opVxor g d a b) st

/-- `vshl` (R173). -/
def opVshl (g : BitVec 4) (d a b : BitVec 5) : SlotOp :=
  arithOp g d a b 2 (fun _ x y => fullPlan [x, y]) noTest isIntTag fun t _ x y => (x * 2 ^ (y % tagWidth t) % 2 ^ tagWidth t, 0)

/-- The meaning of `vshl`: its issue alone in a bundle. -/
def execVshl (g : BitVec 4) (d a b : BitVec 5) (st : State) : Result :=
  issueLone 3 (opVshl g d a b) st

/-- `vshr` (R173). -/
def opVshr (g : BitVec 4) (d a b : BitVec 5) : SlotOp :=
  arithOp g d a b 2 (fun _ x y => fullPlan [x, y]) noTest isIntTag fun t _ x y => (wrapInt t (intOf t x / 2 ^ (y % tagWidth t)), 0)

/-- The meaning of `vshr`: its issue alone in a bundle. -/
def execVshr (g : BitVec 4) (d a b : BitVec 5) (st : State) : Result :=
  issueLone 3 (opVshr g d a b) st

/-- A compare into a mask tile tagged n32 (R174). `ordered`: any NaN raises NV. -/
def compareOp (g : BitVec 4) (d a b : BitVec 5) (ordered : Bool) (ff : Fp → Fp → Bool) (fi : Int → Int → Bool) : SlotOp :=
  tileOp g d [a, b] isNumTag (fun _ => 6) (fun r => fullPlan [readOpnd r a.toNat, readOpnd r b.toNat]) noTest 2 fun _ l =>
    let x := opnd l 0
    let y := opnd l 1
    eachElem 6 fun k =>
      let p := x.elems.getD k 0
      let q := y.elems.getD k 0
      if isFloatTag x.tag then
        let u := fpDecode (tagFmt x.tag) p
        let v := fpDecode (tagFmt x.tag) q
        (if ff u v then 0xFFFFFFFF else 0, if ordered && (u.isNan || v.isNan) then flagNV else signalFlag [u, v])
      else (if fi (intOf x.tag p) (intOf x.tag q) then 0xFFFFFFFF else 0, 0)

/-- `vcmpeq` (R174). -/
def opVcmpeq (g : BitVec 4) (d a b : BitVec 5) : SlotOp :=
  compareOp g d a b false fpEq (· == ·)

/-- The meaning of `vcmpeq`: its issue alone in a bundle. -/
def execVcmpeq (g : BitVec 4) (d a b : BitVec 5) (st : State) : Result :=
  issueLone 3 (opVcmpeq g d a b) st

/-- `vcmplt` (R174). -/
def opVcmplt (g : BitVec 4) (d a b : BitVec 5) : SlotOp :=
  compareOp g d a b true fpLt fun x y => decide (x < y)

/-- The meaning of `vcmplt`: its issue alone in a bundle. -/
def execVcmplt (g : BitVec 4) (d a b : BitVec 5) (st : State) : Result :=
  issueLone 3 (opVcmplt g d a b) st

/-- `vcmple` (R174). -/
def opVcmple (g : BitVec 4) (d a b : BitVec 5) : SlotOp :=
  compareOp g d a b true (fun x y => fpLt x y || fpEq x y) fun x y => decide (x ≤ y)

/-- The meaning of `vcmple`: its issue alone in a bundle. -/
def execVcmple (g : BitVec 4) (d a b : BitVec 5) (st : State) : Result :=
  issueLone 3 (opVcmple g d a b) st

/-- `vsel` (R174): the mask is td, tagged n32, the even tile for an f64 result. -/
def opVsel (g : BitVec 4) (d a b : BitVec 5) : SlotOp :=
  let o := tileOp g d [a, b] (· ≠ 0) (fun r => tagOf r a.toNat)
      (fun r => fullPlan [readOpnd r a.toNat, readOpnd r b.toNat]) noTest 2 fun r l =>
        let x := opnd l 0
        let m := containers (getTile r d.toNat)
        eachElem x.tag fun k => ((if m.getD k 0 ≠ 0 then x else opnd l 1).elems.getD k 0, 0)
  { o with
    reads := .tile d.toNat :: o.reads
    check := fun c r => (needTiles r [d.toNat, a.toNat, b.toNat]).and fun _ =>
      (Pre.need (tagOf r d.toNat == 6) causeFormat 0).and fun _ => o.check c r }

/-- The meaning of `vsel`: its issue alone in a bundle. -/
def execVsel (g : BitVec 4) (d a b : BitVec 5) (st : State) : Result :=
  issueLone 3 (opVsel g d a b) st


/-! ## Conversions -/

/-- The conversion of one element (R24, R175): an integer to a narrower integer saturates with NV. -/
def convElem (src dst rm x : Nat) : Nat × Flags :=
  if isFloatTag src then
    if isFloatTag dst then
      (fpConvert (tagFmt dst) rm (fpDecode (tagFmt src) x)).pair
    else
      let r := fpToInt rm (intMin dst) (intMax dst) (fpDecode (tagFmt src) x)
      (wrapInt dst r.1, r.2)
  else if isFloatTag dst then (fpFromInt (tagFmt dst) rm (intOf src x)).pair
  else
    let v := intOf src x
    if intMax dst < v then (wrapInt dst (intMax dst), flagNV)
    else if v < intMin dst then (wrapInt dst (intMin dst), flagNV)
    else (wrapInt dst v, 0)

/-- The tile destinations that an encoded format names at decode (R54). -/
def encodedDests (n f : Nat) : List Dest := (tileDests n f).map .tile

/-- `vcvt.fmt` (R175). -/
def opVcvt (g : BitVec 4) (d a : BitVec 5) (f : BitVec 4) : SlotOp :=
  { tileOp g d [a] isNumTag (fun _ => f.toNat) (fun r => fullPlan [readOpnd r a.toNat]) noTest 3 (fun r l =>
      let x := opnd l 0
      eachElem f.toNat fun k => convElem x.tag f.toNat (roundMode r.task) (x.elems.getD k 0)) with
    dests := encodedDests d.toNat f.toNat
    tagDests := fun _ => [] }

/-- The meaning of `vcvt`: its issue alone in a bundle. -/
def execVcvt (g : BitVec 4) (d a : BitVec 5) (f : BitVec 4) (st : State) : Result :=
  issueLone 3 (opVcvt g d a f) st


/-! ## Quantisation -/

/-- The scale latch entry of a row (R176): floor(log2) of the largest finite nonzero magnitude, biased and clamped. -/
def scaleEntry (x : List Fp) : Nat :=
  let e : Option Int := x.foldl (fun acc v =>
    match v with
    | .fin _ m ex =>
      if m = 0 then acc
      else
        let t : Int := ex + (Nat.log2 m : Nat)
        match acc with
        | none => some t
        | some y => some (max t y)
    | _ => acc) none
  match e with
  | none => 0
  | some t => (min (max (t + 127) 0) 254).toNat

/-- Row i of an operand as values. -/
def rowValues (o : Opnd) (i : Nat) : List Fp := (List.range 16).map fun j => elemValue o.tag (o.at i j)

/-- Column j of an operand as values. -/
def colValues (o : Opnd) (j : Nat) : List Fp := (List.range 16).map fun i => elemValue o.tag (o.at i j)

/-- The checks of an instruction that reads one tile and writes no tile. -/
def readTile (r : State) (a : BitVec 5) (allowed : Nat → Bool) : Pre :=
  (needTiles r [a.toNat]).and fun _ => (needTags r allowed [a.toNat]).and fun _ =>
    waitRims r true (rimsOf [(readOpnd r a.toNat, 4)])

/-- `vmaxe` (R176): the scale latch, exactly 3 bundle times after issue. -/
def opVmaxe (g : BitVec 4) (a : BitVec 5) : SlotOp :=
  .simple g [.tile a.toNat] [.latch] (fun _ r => readTile r a isSfTag) fun c r s =>
    let q := resolveAll r [(readOpnd r a.toNat, 4)]
    let rows := (List.range 16).map fun i => BitVec.ofNat 8 (scaleEntry (rowValues (opnd q.opnds 0) i))
    countForced q.forced (expose c r 3 q.forced q.ovpHit q.flags [.latch rows] s)

/-- The meaning of `vmaxe`: its issue alone in a bundle. -/
def execVmaxe (g : BitVec 4) (a : BitVec 5) (st : State) : Result :=
  issueLone 3 (opVmaxe g a) st

/-- The largest magnitude of the inputs that are not NaN, as a binary32 pattern (R177). -/
def largestMag (l : List Fp) : BitVec 32 :=
  BitVec.ofNat 32 (l.foldl (fun n x => if x.isNan then n else max n (fpRound f32 0 x.abs).bits) 0)

/-- `vcvq` to a QB tag with the latch as it stands at issue (R177). -/
def vcvqOp (qtag : Nat) (g : BitVec 4) (d a : BitVec 5) : SlotOp :=
  .simple g [.tile a.toNat] [.tile d.toNat]
    (fun _ r => (needTiles r [d.toNat, a.toNat]).and fun _ => readTile r a isSfTag) fun c r s =>
    let q := resolveAll r [(readOpnd r a.toNat, 4)]
    let x := opnd q.opnds 0
    let k := qbBits qtag
    let blocks := (List.range 16).map fun i => roundQb k (smGet 0 r.task.slatch i).toNat (rowValues x i)
    let cont := (blocks.flatMap (qbRow k)).toArray
    let all := (List.range 16).flatMap (rowValues x)
    countForced q.forced (expose c r 3 q.forced q.ovpHit q.flags
      [.tile d.toNat (mkTile qtag Slots.identity false cont),
       .quant (all.any Fp.isNan) (largestMag all) (blocks.any (·.sat))] s)

/-- `vcvq.q3` (R177). -/
def opVcvqQ3 (g : BitVec 4) (d a : BitVec 5) : SlotOp :=
  vcvqOp 8 g d a

/-- The meaning of `vcvqQ3`: its issue alone in a bundle. -/
def execVcvqQ3 (g : BitVec 4) (d a : BitVec 5) (st : State) : Result :=
  issueLone 3 (opVcvqQ3 g d a) st

/-- `vcvq.q5` (R177). -/
def opVcvqQ5 (g : BitVec 4) (d a : BitVec 5) : SlotOp :=
  vcvqOp 9 g d a

/-- The meaning of `vcvqQ5`: its issue alone in a bundle. -/
def execVcvqQ5 (g : BitVec 4) (d a : BitVec 5) (st : State) : Result :=
  issueLone 3 (opVcvqQ5 g d a) st

/-- `vcvq.q8` (R177). -/
def opVcvqQ8 (g : BitVec 4) (d a : BitVec 5) : SlotOp :=
  vcvqOp 0xA g d a

/-- The meaning of `vcvqQ8`: its issue alone in a bundle. -/
def execVcvqQ8 (g : BitVec 4) (d a : BitVec 5) (st : State) : Result :=
  issueLone 3 (opVcvqQ8 g d a) st

/-- `vdq` (R178). -/
def opVdq (g : BitVec 4) (d a : BitVec 5) : SlotOp :=
  tileOp g d [a] isQbTag (fun _ => 1) (fun r => fullPlan [readOpnd r a.toNat]) noTest 3 fun _ l =>
    eachElem 1 fun k => ((fpRound f32 0 (qbElem (opnd l 0) (k / 16) (k % 16))).bits, 0)

/-- The meaning of `vdq`: its issue alone in a bundle. -/
def execVdq (g : BitVec 4) (d a : BitVec 5) (st : State) : Result :=
  issueLone 3 (opVdq g d a) st


/-! ## Special functions -/

/-- SFCM.MODE (R132). -/
def compatMode (t : Task) : Bool := bits t.sfcm 0 1 = 1

/-- A special function on a tile (R179). -/
def sfOp (fn : Sf) (g : BitVec 4) (d a : BitVec 5) : SlotOp :=
  mapOp g d a 8 (fun _ x => fullPlan [x]) noTest isSfTag fun r t x =>
    (sfEval fn (compatMode r.task) (tagFmt t) (roundMode r.task) (fpDecode (tagFmt t) x)).pair

/-- `vexp2` (R179). -/
def opVexp2 (g : BitVec 4) (d a : BitVec 5) : SlotOp :=
  sfOp .exp2 g d a

/-- The meaning of `vexp2`: its issue alone in a bundle. -/
def execVexp2 (g : BitVec 4) (d a : BitVec 5) (st : State) : Result :=
  issueLone 3 (opVexp2 g d a) st

/-- `vlog2` (R179). -/
def opVlog2 (g : BitVec 4) (d a : BitVec 5) : SlotOp :=
  sfOp .log2 g d a

/-- The meaning of `vlog2`: its issue alone in a bundle. -/
def execVlog2 (g : BitVec 4) (d a : BitVec 5) (st : State) : Result :=
  issueLone 3 (opVlog2 g d a) st

/-- `vrcp` (R179). -/
def opVrcp (g : BitVec 4) (d a : BitVec 5) : SlotOp :=
  sfOp .rcp g d a

/-- The meaning of `vrcp`: its issue alone in a bundle. -/
def execVrcp (g : BitVec 4) (d a : BitVec 5) (st : State) : Result :=
  issueLone 3 (opVrcp g d a) st

/-- `vrsqrt` (R179). -/
def opVrsqrt (g : BitVec 4) (d a : BitVec 5) : SlotOp :=
  sfOp .rsqrt g d a

/-- The meaning of `vrsqrt`: its issue alone in a bundle. -/
def execVrsqrt (g : BitVec 4) (d a : BitVec 5) (st : State) : Result :=
  issueLone 3 (opVrsqrt g d a) st

/-- `vsqrt` (R179). -/
def opVsqrt (g : BitVec 4) (d a : BitVec 5) : SlotOp :=
  sfOp .sqrt g d a

/-- The meaning of `vsqrt`: its issue alone in a bundle. -/
def execVsqrt (g : BitVec 4) (d a : BitVec 5) (st : State) : Result :=
  issueLone 3 (opVsqrt g d a) st

/-- `vtanh` (R179). -/
def opVtanh (g : BitVec 4) (d a : BitVec 5) : SlotOp :=
  sfOp .tanh g d a

/-- The meaning of `vtanh`: its issue alone in a bundle. -/
def execVtanh (g : BitVec 4) (d a : BitVec 5) (st : State) : Result :=
  issueLone 3 (opVtanh g d a) st

/-- `vsigm` (R179). -/
def opVsigm (g : BitVec 4) (d a : BitVec 5) : SlotOp :=
  sfOp .sigmoid g d a

/-- The meaning of `vsigm`: its issue alone in a bundle. -/
def execVsigm (g : BitVec 4) (d a : BitVec 5) (st : State) : Result :=
  issueLone 3 (opVsigm g d a) st

/-- `vsilu` (R179). -/
def opVsilu (g : BitVec 4) (d a : BitVec 5) : SlotOp :=
  sfOp .silu g d a

/-- The meaning of `vsilu`: its issue alone in a bundle. -/
def execVsilu (g : BitVec 4) (d a : BitVec 5) (st : State) : Result :=
  issueLone 3 (opVsilu g d a) st

/-- `vgelu` (R179). -/
def opVgelu (g : BitVec 4) (d a : BitVec 5) : SlotOp :=
  sfOp .gelu g d a

/-- The meaning of `vgelu`: its issue alone in a bundle. -/
def execVgelu (g : BitVec 4) (d a : BitVec 5) (st : State) : Result :=
  issueLone 3 (opVgelu g d a) st

/-- `verf` (R179). -/
def opVerf (g : BitVec 4) (d a : BitVec 5) : SlotOp :=
  sfOp .erf g d a

/-- The meaning of `verf`: its issue alone in a bundle. -/
def execVerf (g : BitVec 4) (d a : BitVec 5) (st : State) : Result :=
  issueLone 3 (opVerf g d a) st

/-- A gated activation (R180). -/
def gactOp (act : Act) (g : BitVec 4) (d a b : BitVec 5) : SlotOp :=
  tileOp g d [a, b] isSfTag (fun r => tagOf r a.toNat) (fun r => fullPlan [readOpnd r a.toNat, readOpnd r b.toNat]) noTest 10
    fun r l =>
      let x := opnd l 0
      let f := tagFmt x.tag
      eachElem x.tag fun k => (gatedAct act (compatMode r.task) f (roundMode r.task) (fpDecode f (x.elems.getD k 0))
        (fpDecode f ((opnd l 1).elems.getD k 0))).pair

/-- `vgact.silu` (R180). -/
def opVgactSilu (g : BitVec 4) (d a b : BitVec 5) : SlotOp :=
  gactOp .silu g d a b

/-- The meaning of `vgactSilu`: its issue alone in a bundle. -/
def execVgactSilu (g : BitVec 4) (d a b : BitVec 5) (st : State) : Result :=
  issueLone 3 (opVgactSilu g d a b) st

/-- `vgact.gelu` (R180). -/
def opVgactGelu (g : BitVec 4) (d a b : BitVec 5) : SlotOp :=
  gactOp .gelu g d a b

/-- The meaning of `vgactGelu`: its issue alone in a bundle. -/
def execVgactGelu (g : BitVec 4) (d a b : BitVec 5) (st : State) : Result :=
  issueLone 3 (opVgactGelu g d a b) st

/-- `vgact.sigm` (R180). -/
def opVgactSigm (g : BitVec 4) (d a b : BitVec 5) : SlotOp :=
  gactOp .sigm g d a b

/-- The meaning of `vgactSigm`: its issue alone in a bundle. -/
def execVgactSigm (g : BitVec 4) (d a b : BitVec 5) (st : State) : Result :=
  issueLone 3 (opVgactSigm g d a b) st

/-- `vgact.relu` (R180). -/
def opVgactRelu (g : BitVec 4) (d a b : BitVec 5) : SlotOp :=
  gactOp .relu g d a b

/-- The meaning of `vgactRelu`: its issue alone in a bundle. -/
def execVgactRelu (g : BitVec 4) (d a b : BitVec 5) (st : State) : Result :=
  issueLone 3 (opVgactRelu g d a b) st

/-- One element of `vbas`: bias, activation, scale (R181). -/
def vbasElem (act : Act) (compat : Bool) (f : FFmt) (rm : Nat) (x bias scale : Fp) : Nat × Flags :=
  let u := fpAdd f32 rm x bias
  let v : Fp × Flags :=
    match act with
    | .none => (fpDecode f32 u.bits, 0)
    | a =>
      let y := actValue a (fpDecode f32 u.bits)
      if compat then compatGrid y
      else
        let w := y.round f32 rm
        (fpDecode f32 w.bits, w.flags)
  let p := fpMulR f32 rm v.1 scale
  let q := fpConvert f rm (fpDecode f32 p.bits)
  (q.bits, u.flags ||| v.2 ||| p.flags ||| q.flags)

/-- `vbas`: bias rim K, scale rim K + 1, on gate cores only; the pair is written back when the result lands (R181). -/
def vbasOp (act : Act) (g : BitVec 4) (d a : BitVec 5) (k : BitVec 6) : SlotOp :=
  { guard := g
    decode := fun _ => none
    gateOnly := true
    reads := [.tile a.toNat, .rim k.toNat, .rim (k.toNat + 1)]
    dests := [.tile d.toNat, .rim k.toNat, .rim (k.toNat + 1)]
    tagDests := fun _ => []
    memory := fun _ => false
    check := fun _ r => (needTiles r [d.toNat, a.toNat]).and fun _ => (needRims r [k.toNat, k.toNat + 1]).and fun _ =>
      (needTags r isSfTag [a.toNat]).and fun _ => (waitRims r false [k.toNat, k.toNat + 1]).and fun _ =>
      waitRims r true (rimsOf [(readOpnd r a.toNat, 4)])
    eff := fun c r s =>
      let q := resolveAll r [(readOpnd r a.toNat, 4)]
      let x := opnd q.opnds 0
      let f := tagFmt x.tag
      let bias := (Array.range 16).map fun j => fpDecode f32 (rimVal r k.toNat j)
      let scale := (Array.range 16).map fun j => fpDecode f32 (rimVal r (k.toNat + 1) j)
      let res := eachElem x.tag fun e => vbasElem act (compatMode r.task) f (roundMode r.task)
        (fpDecode f (x.elems.getD e 0)) (bias.getD (e % 16) .zero) (scale.getD (e % 16) .zero)
      countForced q.forced (expose c r 12 q.forced q.ovpHit (q.flags ||| res.flags)
        (landTiles (resultTiles d.toNat x.tag Slots.identity false res.elems)
          ++ [.rim k.toNat (getRim r k.toNat).vals, .rim (k.toNat + 1) (getRim r (k.toNat + 1)).vals]) s) }

/-- `vbas` (R181). -/
def opVbas (g : BitVec 4) (d a : BitVec 5) (k : BitVec 6) : SlotOp :=
  vbasOp .none g d a k

/-- The meaning of `vbas`: its issue alone in a bundle. -/
def execVbas (g : BitVec 4) (d a : BitVec 5) (k : BitVec 6) (st : State) : Result :=
  issueLone 3 (opVbas g d a k) st

/-- `vbas.silu` (R181). -/
def opVbasSilu (g : BitVec 4) (d a : BitVec 5) (k : BitVec 6) : SlotOp :=
  vbasOp .silu g d a k

/-- The meaning of `vbasSilu`: its issue alone in a bundle. -/
def execVbasSilu (g : BitVec 4) (d a : BitVec 5) (k : BitVec 6) (st : State) : Result :=
  issueLone 3 (opVbasSilu g d a k) st

/-- `vbas.gelu` (R181). -/
def opVbasGelu (g : BitVec 4) (d a : BitVec 5) (k : BitVec 6) : SlotOp :=
  vbasOp .gelu g d a k

/-- The meaning of `vbasGelu`: its issue alone in a bundle. -/
def execVbasGelu (g : BitVec 4) (d a : BitVec 5) (k : BitVec 6) (st : State) : Result :=
  issueLone 3 (opVbasGelu g d a k) st

/-- `vbas.sigm` (R181). -/
def opVbasSigm (g : BitVec 4) (d a : BitVec 5) (k : BitVec 6) : SlotOp :=
  vbasOp .sigm g d a k

/-- The meaning of `vbasSigm`: its issue alone in a bundle. -/
def execVbasSigm (g : BitVec 4) (d a : BitVec 5) (k : BitVec 6) (st : State) : Result :=
  issueLone 3 (opVbasSigm g d a k) st

/-- `vbas.relu` (R181). -/
def opVbasRelu (g : BitVec 4) (d a : BitVec 5) (k : BitVec 6) : SlotOp :=
  vbasOp .relu g d a k

/-- The meaning of `vbasRelu`: its issue alone in a bundle. -/
def execVbasRelu (g : BitVec 4) (d a : BitVec 5) (k : BitVec 6) (st : State) : Result :=
  issueLone 3 (opVbasRelu g d a k) st


/-! ## Movement and broadcasts -/

/-- A tag that movement accepts: any but none and the QB tags (R183). -/
def isMoveTag (t : Nat) : Bool := t != 0 && !isQbTag t

/-- A movement of one tile: element k of the result is element `f k` of the source (R183). -/
def moveOp (g : BitVec 4) (d a : BitVec 5) (plan : Opnd → Plan) (f : Nat → Nat) : SlotOp :=
  tileOp g d [a] isMoveTag (fun r => tagOf r a.toNat) (fun r => plan (readOpnd r a.toNat)) noTest 6 fun _ l =>
    let x := opnd l 0
    ⟨x.tag, (Array.range 256).map fun k => x.elems.getD (f k) 0, 0, true⟩

/-- `vxpose` (R183). -/
def opVxpose (g : BitVec 4) (d a : BitVec 5) : SlotOp :=
  moveOp g d a xposePlan fun k => k % 16 * 16 + k / 16

/-- The meaning of `vxpose`: its issue alone in a bundle. -/
def execVxpose (g : BitVec 4) (d a : BitVec 5) (st : State) : Result :=
  issueLone 3 (opVxpose g d a) st

/-- `vxrot` (R183). -/
def opVxrot (g : BitVec 4) (d a : BitVec 5) (n : BitVec 4) : SlotOp :=
  moveOp g d a rotPlan fun k => (k / 16 + n.toNat) % 16 * 16 + k % 16

/-- The meaning of `vxrot`: its issue alone in a bundle. -/
def execVxrot (g : BitVec 4) (d a : BitVec 5) (n : BitVec 4) (st : State) : Result :=
  issueLone 3 (opVxrot g d a n) st

/-- `vxbrow` (R183). -/
def opVxbrow (g : BitVec 4) (d a : BitVec 5) (n : BitVec 4) : SlotOp :=
  moveOp g d a rotPlan fun k => n.toNat * 16 + k % 16

/-- The meaning of `vxbrow`: its issue alone in a bundle. -/
def execVxbrow (g : BitVec 4) (d a : BitVec 5) (n : BitVec 4) (st : State) : Result :=
  issueLone 3 (opVxbrow g d a n) st

/-- `vperm` (R183): gather by an index tile tagged n32 or i32. -/
def opVperm (g : BitVec 4) (d a b : BitVec 5) : SlotOp :=
  let o := tileOp g d [a] isMoveTag (fun r => tagOf r a.toNat) (fun r => fullPlan [readOpnd r a.toNat]) noTest 6 fun r l =>
      let x := opnd l 0
      let ix := containers (getTile r b.toNat)
      ⟨x.tag, (Array.range 256).map fun k => x.elems.getD (ix.getD k 0 % 256) 0, 0, true⟩
  { o with
    reads := .tile b.toNat :: o.reads
    check := fun c r => (needTiles r [d.toNat, a.toNat, b.toNat]).and fun _ =>
      (Pre.need (tagOf r b.toNat == 5 || tagOf r b.toNat == 6) causeFormat 0).and fun _ => o.check c r }

/-- The meaning of `vperm`: its issue alone in a bundle. -/
def execVperm (g : BitVec 4) (d a b : BitVec 5) (st : State) : Result :=
  issueLone 3 (opVperm g d a b) st

/-- A broadcast into a tile that keeps its tag (R184). -/
def bcastOp (g : BitVec 4) (t : BitVec 5) (reads : List Dest) (rims : List Nat) (allowed : Nat → Bool)
    (f : State → Nat → Nat → Nat × Flags) : SlotOp :=
  { guard := g
    decode := fun _ => none
    gateOnly := false
    reads := .tile t.toNat :: reads
    dests := [.tile t.toNat]
    tagDests := fun r => if tagOf r t.toNat = 4 then oddDest t.toNat else []
    memory := fun _ => false
    check := fun _ r => (needTiles r [t.toNat]).and fun _ => (needRims r rims).and fun _ =>
      (needTags r allowed [t.toNat]).and fun _ => waitRims r false rims
    eff := fun c r s =>
      let tag := tagOf r t.toNat
      let res := eachElem tag fun k => f r tag k
      expose c r 2 false false res.flags (landTiles (resultTiles t.toNat tag Slots.identity false res.elems)) s }

/-- A rim value converted to a float tag: f32 unchanged, f64 exact, 16-bit rounded (R184). -/
def rimElem (r : State) (k tag e : Nat) : Nat × Flags :=
  if tag = 1 then (rimVal r k e, 0)
  else (fpConvert (tagFmt tag) (roundMode r.task) (fpDecode f32 (rimVal r k e))).pair

/-- `vbcast` (R184). -/
def opVbcast (g : BitVec 4) (s : BitVec 6) (t : BitVec 5) : SlotOp :=
  bcastOp g t [.sreg s.toNat] [] (· ≠ 0) fun r tag _ => ((getS r s).toNat % 2 ^ tagWidth tag, 0)

/-- The meaning of `vbcast`: its issue alone in a bundle. -/
def execVbcast (g : BitVec 4) (s : BitVec 6) (t : BitVec 5) (st : State) : Result :=
  issueLone 3 (opVbcast g s t) st

/-- `vbrow` (R184). -/
def opVbrow (g : BitVec 4) (t : BitVec 5) (k : BitVec 6) : SlotOp :=
  bcastOp g t [.rim k.toNat] [k.toNat] isFloatTag fun r tag e => rimElem r k.toNat tag (e % 16)

/-- The meaning of `vbrow`: its issue alone in a bundle. -/
def execVbrow (g : BitVec 4) (t : BitVec 5) (k : BitVec 6) (st : State) : Result :=
  issueLone 3 (opVbrow g t k) st

/-- `vbcol` (R184). -/
def opVbcol (g : BitVec 4) (t : BitVec 5) (k : BitVec 6) : SlotOp :=
  bcastOp g t [.rim k.toNat] [k.toNat] isFloatTag fun r tag e => rimElem r k.toNat tag (e / 16)

/-- The meaning of `vbcol`: its issue alone in a bundle. -/
def execVbcol (g : BitVec 4) (t : BitVec 5) (k : BitVec 6) (st : State) : Result :=
  issueLone 3 (opVbcol g t k) st


/-! ## Resolving, inspecting, tags -/

/-- `tres` and `tres.part`: resolve in place through a position, interlocked (R189). -/
def tresOp (m : Nat) (g : BitVec 4) (d : BitVec 5) : SlotOp :=
  { guard := g
    decode := fun _ => none
    gateOnly := false
    reads := [.tile d.toNat]
    dests := [.tile d.toNat]
    tagDests := fun r => if tagOf r d.toNat = 4 then oddDest d.toNat else []
    memory := fun _ => false
    check := fun _ r => (needTiles r [d.toNat]).and fun _ => (needEvenTile (tagOf r d.toNat) d.toNat).and fun _ =>
      waitRims r true (rimsOf [(readOpnd r d.toNat, m)])
    eff := fun c r s =>
      let o := readOpnd r d.toNat
      if (factorsUpTo o.slots m).isEmpty then s
      else
        let q := resolve r o m
        complete c.slot r.task.pc false o.ovp q.2 (fun s =>
          (resultTiles d.toNat o.tag q.1.slots q.1.ovp q.1.elems).foldl (fun s x => setTile s x.1 x.2) s) s }

/-- `tres` (R189). -/
def opTres (g : BitVec 4) (d : BitVec 5) : SlotOp :=
  tresOp 4 g d

/-- The meaning of `tres`: its issue alone in a bundle. -/
def execTres (g : BitVec 4) (d : BitVec 5) (st : State) : Result :=
  issueLone 3 (opTres g d) st

/-- `tres.part` (R189). -/
def opTresPart (g : BitVec 4) (d : BitVec 5) (s : BitVec 2) : SlotOp :=
  tresOp (s.toNat + 1) g d

/-- The meaning of `tresPart`: its issue alone in a bundle. -/
def execTresPart (g : BitVec 4) (d : BitVec 5) (s : BitVec 2) (st : State) : Result :=
  issueLone 3 (opTresPart g d s) st

/-- The tile state word (R156). -/
def stateWordOf (t : Tile) (busy : Bool) : Word :=
  word (t.tag.toNat + t.slots.rsh.toNat * 2 ^ 4 + t.slots.rsc.toNat * 2 ^ 11 + t.slots.csh.toNat * 2 ^ 18
    + t.slots.csc.toNat * 2 ^ 25 + (if t.ovp then 2 ^ 32 else 0) + (if busy then 2 ^ 33 else 0))

/-- An exposed result to a tile is in flight. -/
def tileBusy (t : Task) (n : Nat) : Bool := t.inflight.any fun e => e.results.any (Landing.toTile n)

/-- `tstat` (R190). -/
def opTstat (g : BitVec 4) (d : BitVec 6) (t : BitVec 5) : SlotOp :=
  .simple g [.tile t.toNat] [.sreg d.toNat] (fun _ r => needTiles r [t.toNat]) fun _ r s =>
    setS s d (stateWordOf (getTile r t.toNat) (tileBusy r.task t.toNat))

/-- The meaning of `tstat`: its issue alone in a bundle. -/
def execTstat (g : BitVec 4) (d : BitVec 6) (t : BitVec 5) (st : State) : Result :=
  issueLone 3 (opTstat g d t) st

/-- The tags between which `vtag` lets factors pass (R192). -/
def tagsPass (old new : Nat) : Bool :=
  ((old == 2 || old == 3) && (new == 2 || new == 3)) || (old == 1 && new == 1) || (old == 4 && new == 4)

/-- A tile with a new tag and the given factors, its containers as they are. -/
def retag (t : Tile) (tag : Nat) (keep : Bool) : Tile :=
  if keep then { t with tag := BitVec.ofNat 4 tag } else ⟨BitVec.ofNat 4 tag, Slots.identity, false, t.data⟩

/-- `vtag.fmt` (R192). Of an operand that is not f64, only tile `a` is resolved: under `vtag.f64` the containers of the odd tile are taken
as they are, and factors of its own are dropped, of which the spec says nothing (DESIGN CHOICE, log 68). -/
def opVtag (g : BitVec 4) (d a : BitVec 5) (f : BitVec 4) : SlotOp :=
  { guard := g
    decode := fun _ => none
    gateOnly := false
    reads := if f = 4 then [.tile a.toNat, .tile (a.toNat + 1)] else [.tile a.toNat]
    dests := encodedDests d.toNat f.toNat
    tagDests := fun _ => []
    memory := fun _ => false
    check := fun _ r => (needTiles r [d.toNat, a.toNat]).and fun _ =>
      (needEvenTile (tagOf r a.toNat) a.toNat).and fun _ => (needEvenTile f.toNat a.toNat).and fun _ =>
      (needEvenTile f.toNat d.toNat).and fun _ =>
      if tagsPass (tagOf r a.toNat) f.toNat then .ok else waitRims r true (rimsOf [(readOpnd r a.toNat, 4)])
    eff := fun c r s =>
      let o := readOpnd r a.toNat
      let pass := tagsPass o.tag f.toNat
      let q := resolveAll r [(o, if pass then 0 else 4)]
      let even :=
        if q.forced then
          ((resultTiles d.toNat o.tag Slots.identity false (opnd q.opnds 0).elems).map Prod.snd).headD Tile.initial
        else getTile r a.toNat
      let odd := getTile r (a.toNat + 1)
      let tiles := (d.toNat, retag even f.toNat pass) ::
        (if f = 4 then [(d.toNat + 1, retag odd f.toNat false)] else [])
      countForced q.forced (expose c r 1 q.forced q.ovpHit q.flags (landTiles tiles) s) }

/-- The meaning of `vtag`: its issue alone in a bundle. -/
def execVtag (g : BitVec 4) (d a : BitVec 5) (f : BitVec 4) (st : State) : Result :=
  issueLone 3 (opVtag g d a f) st

/-- `vzero` (R193). -/
def opVzero (g : BitVec 4) (d : BitVec 5) : SlotOp :=
  { guard := g
    decode := fun _ => none
    gateOnly := false
    reads := [.tile d.toNat]
    dests := [.tile d.toNat]
    tagDests := fun r => if tagOf r d.toNat = 4 then oddDest d.toNat else []
    memory := fun _ => false
    check := fun _ r => (needTiles r [d.toNat]).and fun _ => needEvenTile (tagOf r d.toNat) d.toNat
    eff := fun c r s => expose c r 1 false false 0
      (landTiles ((tileDests d.toNat (tagOf r d.toNat)).map fun n => (n, mkTile (tagOf r d.toNat) Slots.identity false #[]))) s }

/-- The meaning of `vzero`: its issue alone in a bundle. -/
def execVzero (g : BitVec 4) (d : BitVec 5) (st : State) : Result :=
  issueLone 3 (opVzero g d) st


end Sys2Proof.Machine
end

