-- ==== Sys2Proof/Machine/Rim.lean ====
section
/-! DEFINITION. The vector slots S3 and S4 on rims: reductions, rim arithmetic, log-sum-exp, binding, `kset`, `kpend` and
`kwait` (R157 to R160, R182 to R191). -/

namespace Sys2Proof.Machine

/-! ## Reductions (R182) -/

/-- A producer number of a rim: the FN of the reduction, or 6 for `kpend` (R264). -/
def producerKpend : Nat := 6

/-- The exact sum of terms, rounded once to binary32 (R35). -/
def sumRound (rm : Nat) (l : List Fp) : Nat × Flags := (roundWith f32 rm (fpSum rm l)).pair

/-- The exact squares of terms. -/
def squares (l : List Fp) : List Fp := l.map fun x => (fpMul x x).1

/-- The extreme of terms, -0 below +0, rounded to binary32; NaN if any is, NV if one signals. -/
def extremeRound (isMax : Bool) (rm : Nat) (l : List Fp) : Nat × Flags :=
  if l.any Fp.isNan then (defaultNan f32, signalFlag l)
  else
    let m := l.foldl (fun a x => if isMax then (if fpBelow a x then x else a) else (if fpBelow x a then x else a))
      (l.headD .zero)
    (fpRound f32 rm m).pair

/-- Sixteen values with their flags. -/
structure RimResult where
  vals : SMap (BitVec 32)
  flags : Flags
  deriving DecidableEq, Repr

/-- Compute the 16 elements of a rim. -/
def eachRim (f : Nat → Nat × Flags) : RimResult :=
  let r := (List.range 16).map f
  ⟨smOfFn 0 16 fun e => BitVec.ofNat 32 (r.getD e (0, 0)).1, r.foldl (fun a x => a ||| x.2) 0⟩

/-- A reduction into a rim: PENDING from issue until it lands (R158). -/
def reduceOp (producer : Nat) (g : BitVec 4) (t : BitVec 5) (k : BitVec 6) (f : Nat → Opnd → Nat → Nat × Flags) : SlotOp :=
  .simple g [.tile t.toNat] [.rim k.toNat]
    (fun _ r => (needTiles r [t.toNat]).and fun _ => (needRims r [k.toNat]).and fun _ =>
      (needTags r isNumTag [t.toNat]).and fun _ => (waitWrite r [k.toNat]).and fun _ =>
      waitRims r true (rimsOf [(readOpnd r t.toNat, 4)]))
    fun c r s =>
      let q := resolveAll r [(readOpnd r t.toNat, 4)]
      let res := eachRim (f (roundMode r.task) (opnd q.opnds 0))
      let old := (getRim s k.toNat).vals
      let s1 := countForced q.forced (setRim s k.toNat ⟨.pending producer r.task.bt.toNat, old⟩)
      { s1 with nextOwed := s1.nextOwed + 1
                task := { s1.task with owed := s1.task.owed ++
                  [⟨s1.nextOwed + 1, r.task.pc, c.slot, false, false, .fixed 0,
                    false, .reduction k.toNat res.vals old (q.flags ||| res.flags) q.forced q.ovpHit⟩] } }

/-- `vrsum` (R182). -/
def opVrsum (g : BitVec 4) (t : BitVec 5) (k : BitVec 6) : SlotOp :=
  reduceOp 0 g t k fun rm o i => sumRound rm (rowValues o i)

/-- The meaning of `vrsum`: its issue alone in a bundle. -/
def execVrsum (g : BitVec 4) (t : BitVec 5) (k : BitVec 6) (st : State) : Result :=
  issueLone 3 (opVrsum g t k) st

/-- `vrmax` (R182). -/
def opVrmax (g : BitVec 4) (t : BitVec 5) (k : BitVec 6) : SlotOp :=
  reduceOp 1 g t k fun rm o i => extremeRound true rm (rowValues o i)

/-- The meaning of `vrmax`: its issue alone in a bundle. -/
def execVrmax (g : BitVec 4) (t : BitVec 5) (k : BitVec 6) (st : State) : Result :=
  issueLone 3 (opVrmax g t k) st

/-- `vrmin` (R182). -/
def opVrmin (g : BitVec 4) (t : BitVec 5) (k : BitVec 6) : SlotOp :=
  reduceOp 2 g t k fun rm o i => extremeRound false rm (rowValues o i)

/-- The meaning of `vrmin`: its issue alone in a bundle. -/
def execVrmin (g : BitVec 4) (t : BitVec 5) (k : BitVec 6) (st : State) : Result :=
  issueLone 3 (opVrmin g t k) st

/-- `vrsumsq` (R182). -/
def opVrsumsq (g : BitVec 4) (t : BitVec 5) (k : BitVec 6) : SlotOp :=
  reduceOp 3 g t k fun rm o i => ((sumRound rm (squares (rowValues o i))).1, (sumRound rm (squares (rowValues o i))).2 ||| signalFlag (rowValues o i))

/-- The meaning of `vrsumsq`: its issue alone in a bundle. -/
def execVrsumsq (g : BitVec 4) (t : BitVec 5) (k : BitVec 6) (st : State) : Result :=
  issueLone 3 (opVrsumsq g t k) st

/-- `vcsum` (R182). -/
def opVcsum (g : BitVec 4) (t : BitVec 5) (k : BitVec 6) : SlotOp :=
  reduceOp 4 g t k fun rm o j => sumRound rm (colValues o j)

/-- The meaning of `vcsum`: its issue alone in a bundle. -/
def execVcsum (g : BitVec 4) (t : BitVec 5) (k : BitVec 6) (st : State) : Result :=
  issueLone 3 (opVcsum g t k) st

/-- `vcmax` (R182). -/
def opVcmax (g : BitVec 4) (t : BitVec 5) (k : BitVec 6) : SlotOp :=
  reduceOp 5 g t k fun rm o j => extremeRound true rm (colValues o j)

/-- The meaning of `vcmax`: its issue alone in a bundle. -/
def execVcmax (g : BitVec 4) (t : BitVec 5) (k : BitVec 6) (st : State) : Result :=
  issueLone 3 (opVcmax g t k) st


/-! ## Rim arithmetic (R185) -/

/-- The 16 values of a rim at the read point. -/
def rimValues (r : State) (k : Nat) : Array Fp := (Array.range 16).map fun e => fpDecode f32 (rimVal r k e)

/-- A rim instruction: sources READY, destination not under a reduction, results after 3 bundle times. -/
def rimOp (g : BitVec 4) (dests srcs : List Nat) (f : State → List (Nat × SMap (BitVec 32)) × Flags) : SlotOp :=
  .simple g (srcs.map .rim) (dests.map .rim)
    (fun _ r => (needRims r (dests ++ srcs)).and fun _ => (waitRims r false srcs).and fun _ => waitWrite r dests)
    fun c r s =>
      let x := f r
      expose c r 3 false false x.2 (x.1.map fun y => .rim y.1 y.2) s

/-- One result rim. -/
def rim1 (d : Nat) (x : RimResult) : List (Nat × SMap (BitVec 32)) × Flags := ([(d, x.vals)], x.flags)

/-- `kadd` (R185). -/
def opKadd (g : BitVec 4) (d a b : BitVec 6) : SlotOp :=
  rimOp g [d.toNat] [a.toNat, b.toNat] fun r => rim1 d.toNat (eachRim fun e =>
    (fpAdd f32 (roundMode r.task) ((rimValues r a.toNat).getD e .zero) ((rimValues r b.toNat).getD e .zero)).pair)

/-- The meaning of `kadd`: its issue alone in a bundle. -/
def execKadd (g : BitVec 4) (d a b : BitVec 6) (st : State) : Result :=
  issueLone 3 (opKadd g d a b) st

/-- `kmul` (R185). -/
def opKmul (g : BitVec 4) (d a b : BitVec 6) : SlotOp :=
  rimOp g [d.toNat] [a.toNat, b.toNat] fun r => rim1 d.toNat (eachRim fun e =>
    (fpMulR f32 (roundMode r.task) ((rimValues r a.toNat).getD e .zero) ((rimValues r b.toNat).getD e .zero)).pair)

/-- The meaning of `kmul`: its issue alone in a bundle. -/
def execKmul (g : BitVec 4) (d a b : BitVec 6) (st : State) : Result :=
  issueLone 3 (opKmul g d a b) st

/-- `kmax` (R185). -/
def opKmax (g : BitVec 4) (d a b : BitVec 6) : SlotOp :=
  rimOp g [d.toNat] [a.toNat, b.toNat] fun r => rim1 d.toNat (eachRim fun e =>
    (fpMinMax f32 true (rimVal r a.toNat e) (rimVal r b.toNat e)).pair)

/-- The meaning of `kmax`: its issue alone in a bundle. -/
def execKmax (g : BitVec 4) (d a b : BitVec 6) (st : State) : Result :=
  issueLone 3 (opKmax g d a b) st

/-- `krcp` (R185). -/
def opKrcp (g : BitVec 4) (d a : BitVec 6) : SlotOp :=
  rimOp g [d.toNat] [a.toNat] fun r => rim1 d.toNat (eachRim fun e =>
    (sfEval .rcp (compatMode r.task) f32 (roundMode r.task) ((rimValues r a.toNat).getD e .zero)).pair)

/-- The meaning of `krcp`: its issue alone in a bundle. -/
def execKrcp (g : BitVec 4) (d a : BitVec 6) (st : State) : Result :=
  issueLone 3 (opKrcp g d a) st

/-- `krsqrt` (R185). -/
def opKrsqrt (g : BitVec 4) (d a : BitVec 6) : SlotOp :=
  rimOp g [d.toNat] [a.toNat] fun r => rim1 d.toNat (eachRim fun e =>
    (sfEval .rsqrt (compatMode r.task) f32 (roundMode r.task) ((rimValues r a.toNat).getD e .zero)).pair)

/-- The meaning of `krsqrt`: its issue alone in a bundle. -/
def execKrsqrt (g : BitVec 4) (d a : BitVec 6) (st : State) : Result :=
  issueLone 3 (opKrsqrt g d a) st

/-- `kneg` (R185). -/
def opKneg (g : BitVec 4) (d a : BitVec 6) : SlotOp :=
  rimOp g [d.toNat] [a.toNat] fun r => rim1 d.toNat (eachRim fun e =>
    signElem Fp.negate (fun v => -v) 1 (rimVal r a.toNat e))

/-- The meaning of `kneg`: its issue alone in a bundle. -/
def execKneg (g : BitVec 4) (d a : BitVec 6) (st : State) : Result :=
  issueLone 3 (opKneg g d a) st

/-- `kmov` (R185). -/
def opKmov (g : BitVec 4) (d a : BitVec 6) : SlotOp :=
  rimOp g [d.toNat] [a.toNat] fun r => ([(d.toNat, (getRim r a.toNat).vals)], 0)

/-- The meaning of `kmov`: its issue alone in a bundle. -/
def execKmov (g : BitVec 4) (d a : BitVec 6) (st : State) : Result :=
  issueLone 3 (opKmov g d a) st


/-- The larger of two values that are not NaN, -0 below +0. -/
def fpMax (a b : Fp) : Fp := if fpBelow a b then b else a

/-- l + l2 * 2^(-d) for finite l, l2 and d > 0 finite (R186): exact where d is an integer, an enclosure otherwise. -/
def lseSum (rm : Nat) (l l2 : Fp) (m : Nat) (e : Int) : SfValue :=
  match sfValue .exp2 (.fin true m e), l, l2 with
  | .real _ encl, .fin n ml el, .fin n2 (m2 + 1) e2 =>
    let term := fun w => let a := encl w; Encl.mk (a.lo * (m2 + 1)) (a.hi * (m2 + 1)) (a.e + e2)
    let sum := fun w =>
      let b := term w
      let c := min el b.e
      let x := ml * 2 ^ (el - c).toNat
      let lo := b.lo * 2 ^ (b.e - c).toNat
      let hi := b.hi * 2 ^ (b.e - c).toNat
      if n = n2 then Encl.mk (x + lo) (x + hi) c
      else if hi ≤ x then Encl.mk (x - hi) (x - lo) c
      else Encl.mk (lo - x) (hi - x) c
    let far := term 640
    let c := min el far.e
    let bigger := far.hi * 2 ^ (far.e - c).toNat ≤ ml * 2 ^ (el - c).toNat
    .real (if n = n2 then n else if bigger then n else n2) sum
  | .exact f _, l, l2 => let x := fpSum rm [l, (fpMul l2 f).1]; .exact x.1 x.2
  | _, l, .fin n2 0 e2 => let x := fpSum rm [l, .fin n2 0 e2]; .exact x.1 x.2
  | _, l, l2 => let x := fpSum rm [l, l2]; .exact x.1 x.2

/-- l * f + l2 * f2 where one of the exponents is the maximum: `d` is the other's distance below it. -/
def lseTerm (rm : Nat) (l l2 m2 top : Fp) : Rounded :=
  if fpEq m2 top then roundWith f32 rm (fpSum rm [l, l2])
  else if m2.isInf || top.isInf then
    let p := fpMul l2 .zero
    let x := fpSum rm [l, p.1]
    roundWith f32 rm (x.1, x.2 ||| p.2)
  else
    match fpSum rm [top, m2.negate] with
    | (.fin _ m e, _) => (lseSum rm l l2 m e).round f32 rm
    | _ => ⟨defaultNan f32, 0⟩

/-- The neutral element of the merge: a maximum of minus infinity with the sum +0 (R186). -/
def lseNeutral (m l : Fp) : Bool := m == .inf true && l.isZero && !l.neg?

/-- One lane of `klse` (R186): M, L and the flags. The neutral element leaves the other pair exactly as it is, under every mode. -/
def lseLane (rm : Nat) (m l m2 l2 : Nat) : Nat × Nat × Flags :=
  let x := fpDecode f32 m
  let y := fpDecode f32 l
  let x2 := fpDecode f32 m2
  let y2 := fpDecode f32 l2
  if [x, y, x2, y2].any Fp.isNan then (defaultNan f32, defaultNan f32, signalFlag [x, y, x2, y2])
  else if lseNeutral x y then (m2, l2, 0)
  else if lseNeutral x2 y2 then (m, l, 0)
  else
    let top := fpMax x x2
    let r := if fpEq x top then lseTerm rm y y2 x2 top else lseTerm rm y2 y x top
    ((fpRound f32 0 top).bits, r.bits, r.flags)

/-- `klse` (R186): rim pairs; SFCM is ignored. -/
def opKlse (g : BitVec 4) (d a b : BitVec 6) : SlotOp :=
  rimOp g [d.toNat, d.toNat + 1] [a.toNat, a.toNat + 1, b.toNat, b.toNat + 1] fun r =>
    let lane := fun e => lseLane (roundMode r.task) (rimVal r a.toNat e) (rimVal r (a.toNat + 1) e)
      (rimVal r b.toNat e) (rimVal r (b.toNat + 1) e)
    let m := eachRim fun e => ((lane e).1, 0)
    let l := eachRim fun e => (lane e).2
    ([(d.toNat, m.vals), (d.toNat + 1, l.vals)], l.flags)

/-- The meaning of `klse`: its issue alone in a bundle. -/
def execKlse (g : BitVec 4) (d a b : BitVec 6) (st : State) : Result :=
  issueLone 3 (opKlse g d a b) st


/-! ## Binding and filling -/

/-- Write one factor slot of a tile, landing after 1 bundle time (R155, R187). -/
def slotOp (g : BitVec 4) (t : BitVec 5) (check : State → Pre) (sel : Nat) (code : BitVec 7) : SlotOp :=
  .simple g [.tile t.toNat] [.tile t.toNat] (fun _ r => (needTiles r [t.toNat]).and fun _ => check r)
    fun c r s => expose c r 1 false false 0 [.slotCode t.toNat sel code] s

/-- `kbind` (R187). -/
def opKbind (g : BitVec 4) (t : BitVec 5) (k : BitVec 6) (s : BitVec 4) : SlotOp :=
  slotOp g t (fun r => (needRims r [k.toNat]).and fun _ => needTags r isFloatTag [t.toNat]) s.toNat
    (BitVec.ofNat 7 k.toNat)

/-- The meaning of `kbind`: its issue alone in a bundle. -/
def execKbind (g : BitVec 4) (t : BitVec 5) (k : BitVec 6) (s : BitVec 4) (st : State) : Result :=
  issueLone 3 (opKbind g t k s) st

/-- `kunbind` (R187). -/
def opKunbind (g : BitVec 4) (t : BitVec 5) (s : BitVec 4) : SlotOp :=
  slotOp g t (fun r => needEvenTile (tagOf r t.toNat) t.toNat) s.toNat 0x7F

/-- The meaning of `kunbind`: its issue alone in a bundle. -/
def execKunbind (g : BitVec 4) (t : BitVec 5) (s : BitVec 4) (st : State) : Result :=
  issueLone 3 (opKunbind g t s) st

/-- A row or column of a tile written into a rim, as a rim instruction writes (R188). -/
def ksetOp (g : BitVec 4) (t : BitVec 5) (k : BitVec 6) (pick : Opnd → List Fp) : SlotOp :=
  .simple g [.tile t.toNat] [.rim k.toNat]
    (fun _ r => (needTiles r [t.toNat]).and fun _ => (needRims r [k.toNat]).and fun _ =>
      (needTags r isNumTag [t.toNat]).and fun _ => (waitWrite r [k.toNat]).and fun _ =>
      waitRims r true (rimsOf [(readOpnd r t.toNat, 4)]))
    fun c r s =>
      let q := resolveAll r [(readOpnd r t.toNat, 4)]
      let v := pick (opnd q.opnds 0)
      let res := eachRim fun e => (fpConvert f32 (roundMode r.task) (v.getD e .zero)).pair
      countForced q.forced (expose c r 3 q.forced q.ovpHit (q.flags ||| res.flags) [.rim k.toNat res.vals] s)

/-- `kset.row` (R188). -/
def opKsetRow (g : BitVec 4) (t : BitVec 5) (k : BitVec 6) (n : BitVec 4) : SlotOp :=
  ksetOp g t k fun o => rowValues o n.toNat

/-- The meaning of `ksetRow`: its issue alone in a bundle. -/
def execKsetRow (g : BitVec 4) (t : BitVec 5) (k : BitVec 6) (n : BitVec 4) (st : State) : Result :=
  issueLone 3 (opKsetRow g t k n) st

/-- `kset.col` (R188). -/
def opKsetCol (g : BitVec 4) (t : BitVec 5) (k : BitVec 6) (n : BitVec 4) : SlotOp :=
  ksetOp g t k fun o => colValues o n.toNat

/-- The meaning of `ksetCol`: its issue alone in a bundle. -/
def execKsetCol (g : BitVec 4) (t : BitVec 5) (k : BitVec 6) (n : BitVec 4) (st : State) : Result :=
  issueLone 3 (opKsetCol g t k n) st

/-- A write of a rim that leaves results in flight to it alone. -/
def putRim (s : State) (k : Nat) (x : Rim) : State :=
  { s with task := { s.task with rims := smSet Rim.initial s.task.rims k x } }

/-- `kpend` (R191): PENDING on an external producer, values as they are. -/
def opKpend (g : BitVec 4) (k : BitVec 6) : SlotOp :=
  .simple g [] [.rim k.toNat]
    (fun _ r => (needRims r [k.toNat]).and fun _ => waitWrite r [k.toNat])
    fun _ r s => putRim s k.toNat ⟨.pending producerKpend r.task.bt.toNat, (getRim s k.toNat).vals⟩

/-- The meaning of `kpend`: its issue alone in a bundle. -/
def execKpend (g : BitVec 4) (k : BitVec 6) (st : State) : Result :=
  issueLone 3 (opKpend g k) st

/-- `kwait` (R191). -/
def opKwait (g : BitVec 4) (k : BitVec 6) : SlotOp :=
  .simple g [] [] (fun _ r => (needRims r [k.toNat]).and fun _ => waitRims r true [k.toNat]) fun _ _ s => s

/-- The meaning of `kwait`: its issue alone in a bundle. -/
def execKwait (g : BitVec 4) (k : BitVec 6) (st : State) : Result :=
  issueLone 3 (opKwait g k) st


end Sys2Proof.Machine
end

