-- ==== Sys2Proof/Machine/Scalar.lean ====
section
/-! DEFINITION. The scalar slot S1: integer arithmetic and logic, bit fields, compares, predicate logic, scalar floating point
and the system registers (R115 to R132). -/

namespace Sys2Proof.Machine

/-! ## Shapes -/

/-- A scalar instruction of two sources: s[D] := f(s[A], s[B]). -/
def aluOp (g : BitVec 4) (d a b : BitVec 6) (f : Word → Word → Word) : SlotOp :=
  .simple g [.sreg a.toNat, .sreg b.toNat] [.sreg d.toNat] noCheck fun _ r s => setS s d (f (getS r a) (getS r b))

/-- A scalar instruction of one source. -/
def unaryOp (g : BitVec 4) (d a : BitVec 6) (f : Word → Word) : SlotOp :=
  .simple g [.sreg a.toNat] [.sreg d.toNat] noCheck fun _ r s => setS s d (f (getS r a))

/-- An instruction that sets a predicate from two scalar registers. -/
def cmpOp (g pd : BitVec 4) (a b : BitVec 6) (f : Word → Word → Bool) : SlotOp :=
  .simple g [.sreg a.toNat, .sreg b.toNat] [.pred pd.toNat] noCheck fun _ r s => setP s pd (f (getS r a) (getS r b))

/-- Predicate logic: p[PD] := f(p[PA], p[PB]) (R123). -/
def predOp (g pd pa pb : BitVec 4) (f : Bool → Bool → Bool) : SlotOp :=
  .simple g [.pred pa.toNat, .pred pb.toNat] [.pred pd.toNat] noCheck fun _ r s => setP s pd (f (getP r pa) (getP r pb))

/-- Scalar floating point: the rounded result, with flags, under R23 (R125). -/
def fpOp (g : BitVec 4) (d : BitVec 6) (reads : List (BitVec 6)) (f : State → Rounded) : SlotOp :=
  .simple g (reads.map fun x => .sreg x.toNat) [.sreg d.toNat] noCheck fun c r s =>
    let x := f r
    complete c.slot r.task.pc false false x.flags (fun s => setS s d (word x.bits)) s

/-- A floating-point compare into a predicate (R128). -/
def fcmpOp (g pd : BitVec 4) (a b : BitVec 6) (fmt : FFmt) (cc : BitVec 2) : SlotOp :=
  .simple g [.sreg a.toNat, .sreg b.toNat] [.pred pd.toNat] noCheck fun c r s =>
    let x := fpDecode fmt ((getS r a).toNat % 2 ^ fmt.width)
    let y := fpDecode fmt ((getS r b).toNat % 2 ^ fmt.width)
    let ordered := cc == 1 || cc == 2
    let flags := if ordered && (x.isNan || y.isNan) then flagNV else signalFlag [x, y]
    let v := match cc.toNat with
      | 0 => fpEq x y
      | 1 => fpLt x y
      | 2 => fpLt x y || fpEq x y
      | _ => x.isNan || y.isNan
    complete c.slot r.task.pc false false flags (fun s => setP s pd v) s

/-! ## Arithmetic -/

/-- The shift or rotate amount (R116). -/
def amount (b : Word) : Nat := b.toNat % 64

/-- Signed minimum and maximum. -/
def minI (a b : Word) : Word := if b.slt a then b else a
def maxI (a b : Word) : Word := if a.slt b then b else a

/-- Unsigned minimum and maximum. -/
def minN (a b : Word) : Word := if b.ult a then b else a
def maxN (a b : Word) : Word := if a.ult b then b else a

/-- An immediate extended to a word (R56). -/
def immWord (imm : BitVec 42) : Word := imm.signExtend 64

/-- Bits [127:64] of an exact product. -/
def highHalf (p : Int) : Word := BitVec.ofInt 64 (p / 2 ^ 64)

/-- Division truncating toward zero, with the values of R119 for a zero divisor. -/
def divI (a b : Word) : Word := if b = 0 then BitVec.ofInt 64 (-1) else BitVec.ofInt 64 (a.toInt.tdiv b.toInt)
def divN (a b : Word) : Word := if b = 0 then BitVec.ofInt 64 (-1) else word (a.toNat / b.toNat)
def remI (a b : Word) : Word := if b = 0 then a else BitVec.ofInt 64 (a.toInt.tmod b.toInt)
def remN (a b : Word) : Word := if b = 0 then a else word (a.toNat % b.toNat)

/-- Leading and trailing zero bits, and one bits (R120). -/
def clzW (a : Word) : Word := word (if a = 0 then 64 else 63 - Nat.log2 a.toNat)
def ctzW (a : Word) : Word := word (((List.range 64).find? fun i => a.getLsbD i).getD 64)
def popcW (a : Word) : Word := word ((List.range 64).filter fun i => a.getLsbD i).length

/-- Bits and bytes reversed (R120). -/
def brevW (a : Word) : Word := a.reverse
def bswapW (a : Word) : Word := word (leNat (leBytes 8 a.toNat).reverse)

/-- The low `w` bits of `x` shifted right by `o`, the source filled with its sign or with zeros (R121). -/
def bfx (signed : Bool) (x : Word) (o w : Nat) : Word :=
  if signed then ((x.sshiftRight o).setWidth w).signExtend 64 else ((x >>> o).setWidth w).setWidth 64

/-- Insert the low `w` bits of `x` at bit `o` of `old`; positions from 64 up are dropped (R121). -/
def bfi (old x : Word) (o w : Nat) : Word :=
  (old &&& ~~~ ((BitVec.allOnes w).setWidth 64 <<< o)) ||| ((x.setWidth w).setWidth 64 <<< o)

/-- The eight conditions of `cmp` (R122). -/
def condHolds (cc : BitVec 4) (a b : Word) : Bool :=
  match cc.toNat with
  | 0 => a == b
  | 1 => a != b
  | 2 => a.slt b
  | 3 => b.sle a
  | 4 => a.ult b
  | 5 => b.ule a
  | 6 => a.sle b
  | _ => a.ule b

/-- IMM8 of `cmpi`: sign-extended for CC 0, 1, 2, 3 and 6, zero-extended for the unsigned conditions (R56, R122). -/
def imm8 (cc : BitVec 4) (imm : BitVec 8) : Word :=
  if cc = 4 || cc = 5 || cc = 7 then imm.setWidth 64 else imm.signExtend 64

/-- `add` (R116). -/
def opAdd (g : BitVec 4) (d a b : BitVec 6) : SlotOp :=
  aluOp g d a b fun x y => x + y

/-- The meaning of `add`: its issue alone in a bundle. -/
def execAdd (g : BitVec 4) (d a b : BitVec 6) (st : State) : Result :=
  issueLone 1 (opAdd g d a b) st

/-- `sub` (R116). -/
def opSub (g : BitVec 4) (d a b : BitVec 6) : SlotOp :=
  aluOp g d a b fun x y => x - y

/-- The meaning of `sub`: its issue alone in a bundle. -/
def execSub (g : BitVec 4) (d a b : BitVec 6) (st : State) : Result :=
  issueLone 1 (opSub g d a b) st

/-- `and` (R116). -/
def opAnd (g : BitVec 4) (d a b : BitVec 6) : SlotOp :=
  aluOp g d a b fun x y => x &&& y

/-- The meaning of `and`: its issue alone in a bundle. -/
def execAnd (g : BitVec 4) (d a b : BitVec 6) (st : State) : Result :=
  issueLone 1 (opAnd g d a b) st

/-- `or` (R116). -/
def opOr (g : BitVec 4) (d a b : BitVec 6) : SlotOp :=
  aluOp g d a b fun x y => x ||| y

/-- The meaning of `or`: its issue alone in a bundle. -/
def execOr (g : BitVec 4) (d a b : BitVec 6) (st : State) : Result :=
  issueLone 1 (opOr g d a b) st

/-- `xor` (R116). -/
def opXor (g : BitVec 4) (d a b : BitVec 6) : SlotOp :=
  aluOp g d a b fun x y => x ^^^ y

/-- The meaning of `xor`: its issue alone in a bundle. -/
def execXor (g : BitVec 4) (d a b : BitVec 6) (st : State) : Result :=
  issueLone 1 (opXor g d a b) st

/-- `andn` (R116). -/
def opAndn (g : BitVec 4) (d a b : BitVec 6) : SlotOp :=
  aluOp g d a b fun x y => x &&& ~~~ y

/-- The meaning of `andn`: its issue alone in a bundle. -/
def execAndn (g : BitVec 4) (d a b : BitVec 6) (st : State) : Result :=
  issueLone 1 (opAndn g d a b) st

/-- `shl` (R116). -/
def opShl (g : BitVec 4) (d a b : BitVec 6) : SlotOp :=
  aluOp g d a b fun x y => x <<< amount y

/-- The meaning of `shl`: its issue alone in a bundle. -/
def execShl (g : BitVec 4) (d a b : BitVec 6) (st : State) : Result :=
  issueLone 1 (opShl g d a b) st

/-- `shr.n` (R116). -/
def opShrN (g : BitVec 4) (d a b : BitVec 6) : SlotOp :=
  aluOp g d a b fun x y => x >>> amount y

/-- The meaning of `shrN`: its issue alone in a bundle. -/
def execShrN (g : BitVec 4) (d a b : BitVec 6) (st : State) : Result :=
  issueLone 1 (opShrN g d a b) st

/-- `shr.i` (R116). -/
def opShrI (g : BitVec 4) (d a b : BitVec 6) : SlotOp :=
  aluOp g d a b fun x y => x.sshiftRight (amount y)

/-- The meaning of `shrI`: its issue alone in a bundle. -/
def execShrI (g : BitVec 4) (d a b : BitVec 6) (st : State) : Result :=
  issueLone 1 (opShrI g d a b) st

/-- `rot` (R116). -/
def opRot (g : BitVec 4) (d a b : BitVec 6) : SlotOp :=
  aluOp g d a b fun x y => x.rotateLeft (amount y)

/-- The meaning of `rot`: its issue alone in a bundle. -/
def execRot (g : BitVec 4) (d a b : BitVec 6) (st : State) : Result :=
  issueLone 1 (opRot g d a b) st

/-- `min.i` (R116). -/
def opMinI (g : BitVec 4) (d a b : BitVec 6) : SlotOp :=
  aluOp g d a b minI

/-- The meaning of `minI`: its issue alone in a bundle. -/
def execMinI (g : BitVec 4) (d a b : BitVec 6) (st : State) : Result :=
  issueLone 1 (opMinI g d a b) st

/-- `min.n` (R116). -/
def opMinN (g : BitVec 4) (d a b : BitVec 6) : SlotOp :=
  aluOp g d a b minN

/-- The meaning of `minN`: its issue alone in a bundle. -/
def execMinN (g : BitVec 4) (d a b : BitVec 6) (st : State) : Result :=
  issueLone 1 (opMinN g d a b) st

/-- `max.i` (R116). -/
def opMaxI (g : BitVec 4) (d a b : BitVec 6) : SlotOp :=
  aluOp g d a b maxI

/-- The meaning of `maxI`: its issue alone in a bundle. -/
def execMaxI (g : BitVec 4) (d a b : BitVec 6) (st : State) : Result :=
  issueLone 1 (opMaxI g d a b) st

/-- `max.n` (R116). -/
def opMaxN (g : BitVec 4) (d a b : BitVec 6) : SlotOp :=
  aluOp g d a b maxN

/-- The meaning of `maxN`: its issue alone in a bundle. -/
def execMaxN (g : BitVec 4) (d a b : BitVec 6) (st : State) : Result :=
  issueLone 1 (opMaxN g d a b) st

/-- `addi` (R117). -/
def opAddi (g : BitVec 4) (d a : BitVec 6) (imm : BitVec 42) : SlotOp :=
  unaryOp g d a fun x => x + immWord imm

/-- The meaning of `addi`: its issue alone in a bundle. -/
def execAddi (g : BitVec 4) (d a : BitVec 6) (imm : BitVec 42) (st : State) : Result :=
  issueLone 1 (opAddi g d a imm) st

/-- `andi` (R117). -/
def opAndi (g : BitVec 4) (d a : BitVec 6) (imm : BitVec 42) : SlotOp :=
  unaryOp g d a fun x => x &&& immWord imm

/-- The meaning of `andi`: its issue alone in a bundle. -/
def execAndi (g : BitVec 4) (d a : BitVec 6) (imm : BitVec 42) (st : State) : Result :=
  issueLone 1 (opAndi g d a imm) st

/-- `ori` (R117). -/
def opOri (g : BitVec 4) (d a : BitVec 6) (imm : BitVec 42) : SlotOp :=
  unaryOp g d a fun x => x ||| immWord imm

/-- The meaning of `ori`: its issue alone in a bundle. -/
def execOri (g : BitVec 4) (d a : BitVec 6) (imm : BitVec 42) (st : State) : Result :=
  issueLone 1 (opOri g d a imm) st

/-- `xori` (R117). -/
def opXori (g : BitVec 4) (d a : BitVec 6) (imm : BitVec 42) : SlotOp :=
  unaryOp g d a fun x => x ^^^ immWord imm

/-- The meaning of `xori`: its issue alone in a bundle. -/
def execXori (g : BitVec 4) (d a : BitVec 6) (imm : BitVec 42) (st : State) : Result :=
  issueLone 1 (opXori g d a imm) st

/-- `shli` (R117). -/
def opShli (g : BitVec 4) (d a : BitVec 6) (imm : BitVec 42) : SlotOp :=
  unaryOp g d a fun x => x <<< amount (immWord imm)

/-- The meaning of `shli`: its issue alone in a bundle. -/
def execShli (g : BitVec 4) (d a : BitVec 6) (imm : BitVec 42) (st : State) : Result :=
  issueLone 1 (opShli g d a imm) st

/-- `shri.n` (R117). -/
def opShriN (g : BitVec 4) (d a : BitVec 6) (imm : BitVec 42) : SlotOp :=
  unaryOp g d a fun x => x >>> amount (immWord imm)

/-- The meaning of `shriN`: its issue alone in a bundle. -/
def execShriN (g : BitVec 4) (d a : BitVec 6) (imm : BitVec 42) (st : State) : Result :=
  issueLone 1 (opShriN g d a imm) st

/-- `shri.i` (R117). -/
def opShriI (g : BitVec 4) (d a : BitVec 6) (imm : BitVec 42) : SlotOp :=
  unaryOp g d a fun x => x.sshiftRight (amount (immWord imm))

/-- The meaning of `shriI`: its issue alone in a bundle. -/
def execShriI (g : BitVec 4) (d a : BitVec 6) (imm : BitVec 42) (st : State) : Result :=
  issueLone 1 (opShriI g d a imm) st

/-- `li` (R118). -/
def opLi (g : BitVec 4) (d : BitVec 6) (imm : BitVec 42) : SlotOp :=
  .simple g [] [.sreg d.toNat] noCheck fun _ _ s => setS s d (immWord imm)

/-- The meaning of `li`: its issue alone in a bundle. -/
def execLi (g : BitVec 4) (d : BitVec 6) (imm : BitVec 42) (st : State) : Result :=
  issueLone 1 (opLi g d imm) st

/-- `lih` (R118). -/
def opLih (g : BitVec 4) (d a : BitVec 6) (imm : BitVec 42) : SlotOp :=
  unaryOp g d a fun x => (immWord imm <<< 42) ||| (x &&& 0x000003FFFFFFFFFF)

/-- The meaning of `lih`: its issue alone in a bundle. -/
def execLih (g : BitVec 4) (d a : BitVec 6) (imm : BitVec 42) (st : State) : Result :=
  issueLone 1 (opLih g d a imm) st

/-- `mul` (R119). -/
def opMul (g : BitVec 4) (d a b : BitVec 6) : SlotOp :=
  aluOp g d a b fun x y => x * y

/-- The meaning of `mul`: its issue alone in a bundle. -/
def execMul (g : BitVec 4) (d a b : BitVec 6) (st : State) : Result :=
  issueLone 1 (opMul g d a b) st

/-- `mulh.i` (R119). -/
def opMulhI (g : BitVec 4) (d a b : BitVec 6) : SlotOp :=
  aluOp g d a b fun x y => highHalf (x.toInt * y.toInt)

/-- The meaning of `mulhI`: its issue alone in a bundle. -/
def execMulhI (g : BitVec 4) (d a b : BitVec 6) (st : State) : Result :=
  issueLone 1 (opMulhI g d a b) st

/-- `mulh.n` (R119). -/
def opMulhN (g : BitVec 4) (d a b : BitVec 6) : SlotOp :=
  aluOp g d a b fun x y => highHalf (x.toNat * y.toNat : Nat)

/-- The meaning of `mulhN`: its issue alone in a bundle. -/
def execMulhN (g : BitVec 4) (d a b : BitVec 6) (st : State) : Result :=
  issueLone 1 (opMulhN g d a b) st

/-- `mulh.in` (R119). -/
def opMulhIn (g : BitVec 4) (d a b : BitVec 6) : SlotOp :=
  aluOp g d a b fun x y => highHalf (x.toInt * (y.toNat : Int))

/-- The meaning of `mulhIn`: its issue alone in a bundle. -/
def execMulhIn (g : BitVec 4) (d a b : BitVec 6) (st : State) : Result :=
  issueLone 1 (opMulhIn g d a b) st

/-- `div.i` (R119). -/
def opDivI (g : BitVec 4) (d a b : BitVec 6) : SlotOp :=
  aluOp g d a b divI

/-- The meaning of `divI`: its issue alone in a bundle. -/
def execDivI (g : BitVec 4) (d a b : BitVec 6) (st : State) : Result :=
  issueLone 1 (opDivI g d a b) st

/-- `div.n` (R119). -/
def opDivN (g : BitVec 4) (d a b : BitVec 6) : SlotOp :=
  aluOp g d a b divN

/-- The meaning of `divN`: its issue alone in a bundle. -/
def execDivN (g : BitVec 4) (d a b : BitVec 6) (st : State) : Result :=
  issueLone 1 (opDivN g d a b) st

/-- `rem.i` (R119). -/
def opRemI (g : BitVec 4) (d a b : BitVec 6) : SlotOp :=
  aluOp g d a b remI

/-- The meaning of `remI`: its issue alone in a bundle. -/
def execRemI (g : BitVec 4) (d a b : BitVec 6) (st : State) : Result :=
  issueLone 1 (opRemI g d a b) st

/-- `rem.n` (R119). -/
def opRemN (g : BitVec 4) (d a b : BitVec 6) : SlotOp :=
  aluOp g d a b remN

/-- The meaning of `remN`: its issue alone in a bundle. -/
def execRemN (g : BitVec 4) (d a b : BitVec 6) (st : State) : Result :=
  issueLone 1 (opRemN g d a b) st

/-- `clz` (R120). -/
def opClz (g : BitVec 4) (d a : BitVec 6) : SlotOp :=
  unaryOp g d a clzW

/-- The meaning of `clz`: its issue alone in a bundle. -/
def execClz (g : BitVec 4) (d a : BitVec 6) (st : State) : Result :=
  issueLone 1 (opClz g d a) st

/-- `ctz` (R120). -/
def opCtz (g : BitVec 4) (d a : BitVec 6) : SlotOp :=
  unaryOp g d a ctzW

/-- The meaning of `ctz`: its issue alone in a bundle. -/
def execCtz (g : BitVec 4) (d a : BitVec 6) (st : State) : Result :=
  issueLone 1 (opCtz g d a) st

/-- `popc` (R120). -/
def opPopc (g : BitVec 4) (d a : BitVec 6) : SlotOp :=
  unaryOp g d a popcW

/-- The meaning of `popc`: its issue alone in a bundle. -/
def execPopc (g : BitVec 4) (d a : BitVec 6) (st : State) : Result :=
  issueLone 1 (opPopc g d a) st

/-- `brev` (R120). -/
def opBrev (g : BitVec 4) (d a : BitVec 6) : SlotOp :=
  unaryOp g d a brevW

/-- The meaning of `brev`: its issue alone in a bundle. -/
def execBrev (g : BitVec 4) (d a : BitVec 6) (st : State) : Result :=
  issueLone 1 (opBrev g d a) st

/-- `bswap` (R120). -/
def opBswap (g : BitVec 4) (d a : BitVec 6) : SlotOp :=
  unaryOp g d a bswapW

/-- The meaning of `bswap`: its issue alone in a bundle. -/
def execBswap (g : BitVec 4) (d a : BitVec 6) (st : State) : Result :=
  issueLone 1 (opBswap g d a) st

/-- The pair register after an even one. -/
def pairReg (a : BitVec 6) : BitVec 6 := a + 1

/-- A bit-field extract: offset and width in the pair named by B (R121). -/
def bfxOp (signed : Bool) (g : BitVec 4) (d a b : BitVec 6) : SlotOp :=
  .simple g [.sreg a.toNat, .sreg b.toNat, .sreg (b.toNat + 1)] [.sreg d.toNat] noCheck fun _ r s =>
    setS s d (bfx signed (getS r a) ((getS r b).toNat % 128) ((getS r (pairReg b)).toNat % 128))

/-- A funnel shift of the 128 bits that the pair named by A holds (R121). -/
def funnelOp (g : BitVec 4) (d a b : BitVec 6) (f : BitVec 128 → Nat → Word) : SlotOp :=
  .simple g [.sreg a.toNat, .sreg (a.toNat + 1), .sreg b.toNat] [.sreg d.toNat] noCheck fun _ r s =>
    setS s d (f (getS r (pairReg a) ++ getS r a) ((getS r b).toNat % 128))

/-- `bfx.i` (R121). -/
def opBfxI (g : BitVec 4) (d a b : BitVec 6) : SlotOp :=
  bfxOp true g d a b

/-- The meaning of `bfxI`: its issue alone in a bundle. -/
def execBfxI (g : BitVec 4) (d a b : BitVec 6) (st : State) : Result :=
  issueLone 1 (opBfxI g d a b) st

/-- `bfx.n` (R121). -/
def opBfxN (g : BitVec 4) (d a b : BitVec 6) : SlotOp :=
  bfxOp false g d a b

/-- The meaning of `bfxN`: its issue alone in a bundle. -/
def execBfxN (g : BitVec 4) (d a b : BitVec 6) (st : State) : Result :=
  issueLone 1 (opBfxN g d a b) st

/-- `bfi` (R121): D is read and written. -/
def opBfi (g : BitVec 4) (d a b : BitVec 6) : SlotOp :=
  .simple g [.sreg d.toNat, .sreg a.toNat, .sreg b.toNat, .sreg (b.toNat + 1)] [.sreg d.toNat] noCheck fun _ r s =>
    setS s d (bfi (getS r d) (getS r a) ((getS r b).toNat % 128) ((getS r (pairReg b)).toNat % 128))

/-- The meaning of `bfi`: its issue alone in a bundle. -/
def execBfi (g : BitVec 4) (d a b : BitVec 6) (st : State) : Result :=
  issueLone 1 (opBfi g d a b) st

/-- `fshl` (R121). -/
def opFshl (g : BitVec 4) (d a b : BitVec 6) : SlotOp :=
  funnelOp g d a b fun v n => (v <<< n).extractLsb' 64 64

/-- The meaning of `fshl`: its issue alone in a bundle. -/
def execFshl (g : BitVec 4) (d a b : BitVec 6) (st : State) : Result :=
  issueLone 1 (opFshl g d a b) st

/-- `fshr` (R121). -/
def opFshr (g : BitVec 4) (d a b : BitVec 6) : SlotOp :=
  funnelOp g d a b fun v n => (v >>> n).setWidth 64

/-- The meaning of `fshr`: its issue alone in a bundle. -/
def execFshr (g : BitVec 4) (d a b : BitVec 6) (st : State) : Result :=
  issueLone 1 (opFshr g d a b) st

/-- `cmp` (R122). -/
def opCmp (g : BitVec 4) (p : BitVec 4) (a b : BitVec 6) (c : BitVec 4) : SlotOp :=
  cmpOp g p a b (condHolds c)

/-- The meaning of `cmp`: its issue alone in a bundle. -/
def execCmp (g : BitVec 4) (p : BitVec 4) (a b : BitVec 6) (c : BitVec 4) (st : State) : Result :=
  issueLone 1 (opCmp g p a b c) st

/-- `cmpi` (R122). -/
def opCmpi (g : BitVec 4) (p c : BitVec 4) (a : BitVec 6) (imm : BitVec 8) : SlotOp :=
  .simple g [.sreg a.toNat] [.pred p.toNat] noCheck fun _ r s => setP s p (condHolds c (getS r a) (imm8 c imm))

/-- The meaning of `cmpi`: its issue alone in a bundle. -/
def execCmpi (g : BitVec 4) (p c : BitVec 4) (a : BitVec 6) (imm : BitVec 8) (st : State) : Result :=
  issueLone 1 (opCmpi g p c a imm) st

/-- `pand` (R123). -/
def opPand (g : BitVec 4) (d a b : BitVec 4) : SlotOp :=
  predOp g d a b fun x y => x && y

/-- The meaning of `pand`: its issue alone in a bundle. -/
def execPand (g : BitVec 4) (d a b : BitVec 4) (st : State) : Result :=
  issueLone 1 (opPand g d a b) st

/-- `por` (R123). -/
def opPor (g : BitVec 4) (d a b : BitVec 4) : SlotOp :=
  predOp g d a b fun x y => x || y

/-- The meaning of `por`: its issue alone in a bundle. -/
def execPor (g : BitVec 4) (d a b : BitVec 4) (st : State) : Result :=
  issueLone 1 (opPor g d a b) st

/-- `pxor` (R123). -/
def opPxor (g : BitVec 4) (d a b : BitVec 4) : SlotOp :=
  predOp g d a b fun x y => x != y

/-- The meaning of `pxor`: its issue alone in a bundle. -/
def execPxor (g : BitVec 4) (d a b : BitVec 4) (st : State) : Result :=
  issueLone 1 (opPxor g d a b) st

/-- `pandn` (R123). -/
def opPandn (g : BitVec 4) (d a b : BitVec 4) : SlotOp :=
  predOp g d a b fun x y => x && !y

/-- The meaning of `pandn`: its issue alone in a bundle. -/
def execPandn (g : BitVec 4) (d a b : BitVec 4) (st : State) : Result :=
  issueLone 1 (opPandn g d a b) st

/-- `pmov` (R123). -/
def opPmov (g : BitVec 4) (d a : BitVec 4) : SlotOp :=
  .simple g [.pred a.toNat] [.pred d.toNat] noCheck fun _ r s => setP s d (getP r a)

/-- The meaning of `pmov`: its issue alone in a bundle. -/
def execPmov (g : BitVec 4) (d a : BitVec 4) (st : State) : Result :=
  issueLone 1 (opPmov g d a) st

/-- `pset` (R123). -/
def opPset (g : BitVec 4) (d : BitVec 4) : SlotOp :=
  .simple g [] [.pred d.toNat] noCheck fun _ _ s => setP s d true

/-- The meaning of `pset`: its issue alone in a bundle. -/
def execPset (g : BitVec 4) (d : BitVec 4) (st : State) : Result :=
  issueLone 1 (opPset g d) st

/-- `pclr` (R123). -/
def opPclr (g : BitVec 4) (d : BitVec 4) : SlotOp :=
  .simple g [] [.pred d.toNat] noCheck fun _ _ s => setP s d false

/-- The meaning of `pclr`: its issue alone in a bundle. -/
def execPclr (g : BitVec 4) (d : BitVec 4) (st : State) : Result :=
  issueLone 1 (opPclr g d) st

/-- `sel` (R124). -/
def opSel (g : BitVec 4) (d a b : BitVec 6) (p : BitVec 4) : SlotOp :=
  .simple g [.sreg a.toNat, .sreg b.toNat, .pred p.toNat] [.sreg d.toNat] noCheck fun _ r s =>
    setS s d (if getP r p then getS r a else getS r b)

/-- The meaning of `sel`: its issue alone in a bundle. -/
def execSel (g : BitVec 4) (d a b : BitVec 6) (p : BitVec 4) (st : State) : Result :=
  issueLone 1 (opSel g d a b p) st


/-! ## Scalar floating point -/

/-- A binary64 operand, and a binary32 operand in bits [31:0] (R125). -/
def s64 (r : State) (a : BitVec 6) : Fp := fpDecode f64 (getS r a).toNat
def s32 (r : State) (a : BitVec 6) : Fp := fpDecode f32 ((getS r a).toNat % 2 ^ 32)

/-- A floating-point instruction of two operands in one format. -/
def fp2Op (fmt : FFmt) (g : BitVec 4) (d a b : BitVec 6) (f : Nat → Fp → Fp → Rounded) : SlotOp :=
  fpOp g d [a, b] fun r => f (roundMode r.task) (fpDecode fmt ((getS r a).toNat % 2 ^ fmt.width))
    (fpDecode fmt ((getS r b).toNat % 2 ^ fmt.width))

/-- Minimum or maximum in one format (R126). -/
def fpMinOp (fmt : FFmt) (isMax : Bool) (g : BitVec 4) (d a b : BitVec 6) : SlotOp :=
  fpOp g d [a, b] fun r => fpMinMax fmt isMax ((getS r a).toNat % 2 ^ fmt.width) ((getS r b).toNat % 2 ^ fmt.width)

/-- A conversion to an integer register (R127). -/
def toIntOp (g : BitVec 4) (d a : BitVec 6) (src : State → BitVec 6 → Fp) (lo hi : Int) : SlotOp :=
  fpOp g d [a] fun r =>
    let x := fpToInt (roundMode r.task) lo hi (src r a)
    ⟨(BitVec.ofInt 64 x.1).toNat, x.2⟩

/-- `fadd.f64` (R126). -/
def opFaddF64 (g : BitVec 4) (d a b : BitVec 6) : SlotOp :=
  fp2Op f64 g d a b (fpAdd f64)

/-- The meaning of `faddF64`: its issue alone in a bundle. -/
def execFaddF64 (g : BitVec 4) (d a b : BitVec 6) (st : State) : Result :=
  issueLone 1 (opFaddF64 g d a b) st

/-- `fsub.f64` (R126). -/
def opFsubF64 (g : BitVec 4) (d a b : BitVec 6) : SlotOp :=
  fp2Op f64 g d a b (fpSub f64)

/-- The meaning of `fsubF64`: its issue alone in a bundle. -/
def execFsubF64 (g : BitVec 4) (d a b : BitVec 6) (st : State) : Result :=
  issueLone 1 (opFsubF64 g d a b) st

/-- `fmul.f64` (R126). -/
def opFmulF64 (g : BitVec 4) (d a b : BitVec 6) : SlotOp :=
  fp2Op f64 g d a b (fpMulR f64)

/-- The meaning of `fmulF64`: its issue alone in a bundle. -/
def execFmulF64 (g : BitVec 4) (d a b : BitVec 6) (st : State) : Result :=
  issueLone 1 (opFmulF64 g d a b) st

/-- `fdiv.f64` (R126). -/
def opFdivF64 (g : BitVec 4) (d a b : BitVec 6) : SlotOp :=
  fp2Op f64 g d a b (fpDiv f64)

/-- The meaning of `fdivF64`: its issue alone in a bundle. -/
def execFdivF64 (g : BitVec 4) (d a b : BitVec 6) (st : State) : Result :=
  issueLone 1 (opFdivF64 g d a b) st

/-- `fsqrt.f64` (R126). -/
def opFsqrtF64 (g : BitVec 4) (d a : BitVec 6) : SlotOp :=
  fpOp g d [a] fun r => fpSqrt f64 (roundMode r.task) (s64 r a)

/-- The meaning of `fsqrtF64`: its issue alone in a bundle. -/
def execFsqrtF64 (g : BitVec 4) (d a : BitVec 6) (st : State) : Result :=
  issueLone 1 (opFsqrtF64 g d a) st

/-- `fmin.f64` (R126). -/
def opFminF64 (g : BitVec 4) (d a b : BitVec 6) : SlotOp :=
  fpMinOp f64 false g d a b

/-- The meaning of `fminF64`: its issue alone in a bundle. -/
def execFminF64 (g : BitVec 4) (d a b : BitVec 6) (st : State) : Result :=
  issueLone 1 (opFminF64 g d a b) st

/-- `fmax.f64` (R126). -/
def opFmaxF64 (g : BitVec 4) (d a b : BitVec 6) : SlotOp :=
  fpMinOp f64 true g d a b

/-- The meaning of `fmaxF64`: its issue alone in a bundle. -/
def execFmaxF64 (g : BitVec 4) (d a b : BitVec 6) (st : State) : Result :=
  issueLone 1 (opFmaxF64 g d a b) st

/-- `fadd.f32` (R126). -/
def opFaddF32 (g : BitVec 4) (d a b : BitVec 6) : SlotOp :=
  fp2Op f32 g d a b (fpAdd f32)

/-- The meaning of `faddF32`: its issue alone in a bundle. -/
def execFaddF32 (g : BitVec 4) (d a b : BitVec 6) (st : State) : Result :=
  issueLone 1 (opFaddF32 g d a b) st

/-- `fsub.f32` (R126). -/
def opFsubF32 (g : BitVec 4) (d a b : BitVec 6) : SlotOp :=
  fp2Op f32 g d a b (fpSub f32)

/-- The meaning of `fsubF32`: its issue alone in a bundle. -/
def execFsubF32 (g : BitVec 4) (d a b : BitVec 6) (st : State) : Result :=
  issueLone 1 (opFsubF32 g d a b) st

/-- `fmul.f32` (R126). -/
def opFmulF32 (g : BitVec 4) (d a b : BitVec 6) : SlotOp :=
  fp2Op f32 g d a b (fpMulR f32)

/-- The meaning of `fmulF32`: its issue alone in a bundle. -/
def execFmulF32 (g : BitVec 4) (d a b : BitVec 6) (st : State) : Result :=
  issueLone 1 (opFmulF32 g d a b) st

/-- `fdiv.f32` (R126). -/
def opFdivF32 (g : BitVec 4) (d a b : BitVec 6) : SlotOp :=
  fp2Op f32 g d a b (fpDiv f32)

/-- The meaning of `fdivF32`: its issue alone in a bundle. -/
def execFdivF32 (g : BitVec 4) (d a b : BitVec 6) (st : State) : Result :=
  issueLone 1 (opFdivF32 g d a b) st

/-- `fsqrt.f32` (R126). -/
def opFsqrtF32 (g : BitVec 4) (d a : BitVec 6) : SlotOp :=
  fpOp g d [a] fun r => fpSqrt f32 (roundMode r.task) (s32 r a)

/-- The meaning of `fsqrtF32`: its issue alone in a bundle. -/
def execFsqrtF32 (g : BitVec 4) (d a : BitVec 6) (st : State) : Result :=
  issueLone 1 (opFsqrtF32 g d a) st

/-- `fmin.f32` (R126). -/
def opFminF32 (g : BitVec 4) (d a b : BitVec 6) : SlotOp :=
  fpMinOp f32 false g d a b

/-- The meaning of `fminF32`: its issue alone in a bundle. -/
def execFminF32 (g : BitVec 4) (d a b : BitVec 6) (st : State) : Result :=
  issueLone 1 (opFminF32 g d a b) st

/-- `fmax.f32` (R126). -/
def opFmaxF32 (g : BitVec 4) (d a b : BitVec 6) : SlotOp :=
  fpMinOp f32 true g d a b

/-- The meaning of `fmaxF32`: its issue alone in a bundle. -/
def execFmaxF32 (g : BitVec 4) (d a b : BitVec 6) (st : State) : Result :=
  issueLone 1 (opFmaxF32 g d a b) st

/-- `fcvt.f64.i64` (R127). -/
def opFcvtF64I64 (g : BitVec 4) (d a : BitVec 6) : SlotOp :=
  fpOp g d [a] fun r => fpFromInt f64 (roundMode r.task) (getS r a).toInt

/-- The meaning of `fcvtF64I64`: its issue alone in a bundle. -/
def execFcvtF64I64 (g : BitVec 4) (d a : BitVec 6) (st : State) : Result :=
  issueLone 1 (opFcvtF64I64 g d a) st

/-- `fcvt.f64.n64` (R127). -/
def opFcvtF64N64 (g : BitVec 4) (d a : BitVec 6) : SlotOp :=
  fpOp g d [a] fun r => fpFromInt f64 (roundMode r.task) (getS r a).toNat

/-- The meaning of `fcvtF64N64`: its issue alone in a bundle. -/
def execFcvtF64N64 (g : BitVec 4) (d a : BitVec 6) (st : State) : Result :=
  issueLone 1 (opFcvtF64N64 g d a) st

/-- `fcvt.i64.f64` (R127). -/
def opFcvtI64F64 (g : BitVec 4) (d a : BitVec 6) : SlotOp :=
  toIntOp g d a s64 (-(2 ^ 63)) (2 ^ 63 - 1)

/-- The meaning of `fcvtI64F64`: its issue alone in a bundle. -/
def execFcvtI64F64 (g : BitVec 4) (d a : BitVec 6) (st : State) : Result :=
  issueLone 1 (opFcvtI64F64 g d a) st

/-- `fcvt.n64.f64` (R127). -/
def opFcvtN64F64 (g : BitVec 4) (d a : BitVec 6) : SlotOp :=
  toIntOp g d a s64 0 (2 ^ 64 - 1)

/-- The meaning of `fcvtN64F64`: its issue alone in a bundle. -/
def execFcvtN64F64 (g : BitVec 4) (d a : BitVec 6) (st : State) : Result :=
  issueLone 1 (opFcvtN64F64 g d a) st

/-- `fcvt.f32.f64` (R127). -/
def opFcvtF32F64 (g : BitVec 4) (d a : BitVec 6) : SlotOp :=
  fpOp g d [a] fun r => fpConvert f32 (roundMode r.task) (s64 r a)

/-- The meaning of `fcvtF32F64`: its issue alone in a bundle. -/
def execFcvtF32F64 (g : BitVec 4) (d a : BitVec 6) (st : State) : Result :=
  issueLone 1 (opFcvtF32F64 g d a) st

/-- `fcvt.f64.f32` (R127). -/
def opFcvtF64F32 (g : BitVec 4) (d a : BitVec 6) : SlotOp :=
  fpOp g d [a] fun r => fpConvert f64 (roundMode r.task) (s32 r a)

/-- The meaning of `fcvtF64F32`: its issue alone in a bundle. -/
def execFcvtF64F32 (g : BitVec 4) (d a : BitVec 6) (st : State) : Result :=
  issueLone 1 (opFcvtF64F32 g d a) st

/-- `fcvt.f32.i64` (R127). -/
def opFcvtF32I64 (g : BitVec 4) (d a : BitVec 6) : SlotOp :=
  fpOp g d [a] fun r => fpFromInt f32 (roundMode r.task) (getS r a).toInt

/-- The meaning of `fcvtF32I64`: its issue alone in a bundle. -/
def execFcvtF32I64 (g : BitVec 4) (d a : BitVec 6) (st : State) : Result :=
  issueLone 1 (opFcvtF32I64 g d a) st

/-- `fcvt.i64.f32` (R127). -/
def opFcvtI64F32 (g : BitVec 4) (d a : BitVec 6) : SlotOp :=
  toIntOp g d a s32 (-(2 ^ 63)) (2 ^ 63 - 1)

/-- The meaning of `fcvtI64F32`: its issue alone in a bundle. -/
def execFcvtI64F32 (g : BitVec 4) (d a : BitVec 6) (st : State) : Result :=
  issueLone 1 (opFcvtI64F32 g d a) st

/-- `fcmp.f64` (R128). -/
def opFcmpF64 (g : BitVec 4) (p : BitVec 4) (a b : BitVec 6) (c : BitVec 2) : SlotOp :=
  fcmpOp g p a b f64 c

/-- The meaning of `fcmpF64`: its issue alone in a bundle. -/
def execFcmpF64 (g : BitVec 4) (p : BitVec 4) (a b : BitVec 6) (c : BitVec 2) (st : State) : Result :=
  issueLone 1 (opFcmpF64 g p a b c) st

/-- `fcmp.f32` (R128). -/
def opFcmpF32 (g : BitVec 4) (p : BitVec 4) (a b : BitVec 6) (c : BitVec 2) : SlotOp :=
  fcmpOp g p a b f32 c

/-- The meaning of `fcmpF32`: its issue alone in a bundle. -/
def execFcmpF32 (g : BitVec 4) (p : BitVec 4) (a b : BitVec 6) (c : BitVec 2) (st : State) : Result :=
  issueLone 1 (opFcmpF32 g p a b c) st

/-! ## System registers (R129 to R132) -/

/-- COREID (R131). -/
def coreId (s : State) : Word :=
  word (s.moduleId.toNat * 2 ^ 12 + dieOf s.active * 2 ^ 8 + clusterOf s.active % 4 * 2 ^ 6 + coreNoOf s.active)

/-- CAPS (R351). -/
def capsOf (s : State) (g : Nat) : Word :=
  let d := dieOf g
  let online := (List.range 4).foldl (fun n k => if (getDie s k).online then n + 2 ^ k else n) 0
  let cores := (List.range 48).foldl (fun n k => if present s (clusterOf g * 48 + k) then n + 2 ^ k else n) 0
  word ((getDie s d).chan * 2 ^ 56 + online * 2 ^ 52 + (if (getCluster s (clusterOf g)).lockstep then 2 ^ 51 else 0)
    + (if isGate g then 2 ^ 50 else 0) + cores)

/-- SLATCH: rows 0 to 7 of the scale latch (R176). -/
def slatchView (t : Task) : Word := word (leNat ((List.range 8).map fun i => smGet 0 t.slatch i))

/-- What `mfs` reads (R129). -/
def sysRead (s : State) (n : Nat) : Word :=
  let t := s.task
  if n = 0x000 then t.taskId.setWidth 64
  else if n = 0x001 then coreId s
  else if n = 0x002 then word t.tbase
  else if n = 0x003 then word t.kbase
  else if n = 0x004 then word t.abase
  else if n = 0x005 then t.quota.setWidth 64
  else if n = 0x008 then t.fpcsr
  else if n = 0x009 then t.amax
  else if n = 0x00A then slatchView t
  else if n = 0x00B then t.frcnt
  else if n = 0x00C then t.mfmt
  else if n = 0x00D then t.discards
  else if n = 0x010 then t.prebound
  else if n = 0x011 then t.bt
  else if n = 0x012 then word t.weight
  else if n = 0x013 then t.launchId.setWidth 64
  else if n = 0x014 then t.repLeft
  else if n = 0x015 then t.taskctl
  else if n = 0x016 then t.streamsel
  else if n = 0x020 then t.trapcause
  else if n = 0x021 then t.trappc
  else if n = 0x022 then t.trapva
  else if n = 0x023 then t.trapinfo
  else if n = 0x024 then t.tvec
  else if n = 0x025 then word (snapReplayCount t * 2 ^ 8 + snapExposedCount t)
  else if 0x030 ≤ n ∧ n ≤ 0x03F then smGet 0 s.core.smap (n - 0x030)
  else if 0x040 ≤ n ∧ n ≤ 0x043 then smGet 0 t.ofs (n - 0x040)
  else if 0x048 ≤ n ∧ n ≤ 0x04B then smGet 0 t.ofstep (n - 0x048)
  else if n = 0x050 then t.phasectl
  else if n = 0x060 then s.core.slotmap
  else if n = 0x061 then capsOf s s.active
  else if n = 0x070 then t.sfcm
  else 0

/-- A value with the bits of a mask taken from `v` and the others from `old`. -/
def merge (old v mask : Word) : Word := (old &&& ~~~ mask) ||| (v &&& mask)

/-- The writable bits of OFSn (R211). -/
def ofsMask (n : Nat) : Word := if n = 0 then 0x033F07FF else 0xFF

/-- What `mts` does (R129, R130): reserved bits become zero, read-only fields keep their values. -/
def sysWrite (s : State) (n : Nat) (v : Word) : State :=
  let t := s.task
  if n = 0x008 then { s with task := { t with fpcsr := v &&& 0xFF7F } }
  else if n = 0x009 then { s with task := { t with amax := v &&& 0x1FFFFFFFF } }
  else if n = 0x00B then { s with task := { t with frcnt := v &&& 0xFFFFFFFF } }
  else if n = 0x00D then { s with task := { t with discards := v &&& 0xFFFFFFFF } }
  else if n = 0x010 then { s with task := { t with prebound := v &&& 0xFFFFFFFF } }
  else if n = 0x014 then { s with task := { t with repLeft := v } }
  else if n = 0x015 then { s with task := { t with taskctl := v &&& 1 } }
  else if n = 0x016 then { s with task := { t with streamsel := v &&& 0x3F } }
  else if n = 0x020 then { s with task := { t with trapcause := merge (t.trapcause &&& 0x7FF) v 0x5FF } }
  else if n = 0x021 then { s with task := { t with trappc := v } }
  else if n = 0x022 then { s with task := { t with trapva := v } }
  else if n = 0x024 then { s with task := { t with tvec := v &&& ~~~ (0x1F : Word) } }
  else if 0x040 ≤ n ∧ n ≤ 0x043 then
    { s with task := { t with ofs := smSet 0 t.ofs (n - 0x040) (v &&& ofsMask (n - 0x040)) } }
  else if 0x048 ≤ n ∧ n ≤ 0x04B then
    { s with task := { t with ofstep := smSet 0 t.ofstep (n - 0x048) (v &&& 0xFFFFFF) } }
  else if n = 0x050 then { s with task := { t with phasectl := merge t.phasectl v 0xF0F000FFF00 &&& 0xF0F0E0FFF00 } }
  else if n = 0x070 then { s with task := { t with sfcm := v &&& 1 } }
  else s

/-- The registers of R92 that only S reaches. -/
def sysPrivileged (n : Nat) : Bool := n == 0x010 || (0x020 ≤ n && n ≤ 0x025) || n == 0x060

/-- The registers that `mts` may not write at S. -/
def sysReadOnly (n : Nat) : Bool :=
  n ≤ 5 || n == 0x00A || n == 0x00C || (0x011 ≤ n && n ≤ 0x013) || n == 0x023 || n == 0x025
    || (0x030 ≤ n && n ≤ 0x03F) || n == 0x060 || n == 0x061

/-- The decode traps of `mfs` and `mts` (R63, R129). -/
def sysDecode (write : Bool) (n : Nat) (supervisor : Bool) : Option (BitVec 8) :=
  if sysPrivileged n && !supervisor then some causePrivilege
  else if write && sysReadOnly n then some causeInstruction
  else none

/-- The destination that a system register counts as (R54). -/
def sysDest (n : Nat) : Dest :=
  if 0x040 ≤ n ∧ n ≤ 0x043 then .ofs (n - 0x040) else if 0x048 ≤ n ∧ n ≤ 0x04B then .ofs (n - 0x048 + 4) else .sys n

/-- `mfs` (R129). -/
def opMfs (g : BitVec 4) (d : BitVec 6) (reg : BitVec 10) : SlotOp :=
  { SlotOp.simple g [] [.sreg d.toNat] noCheck fun _ r s => setS s d (sysRead r reg.toNat) with
    decode := sysDecode false reg.toNat }

/-- The meaning of `mfs`: its issue alone in a bundle. -/
def execMfs (g : BitVec 4) (d : BitVec 6) (reg : BitVec 10) (st : State) : Result :=
  issueLone 1 (opMfs g d reg) st

/-- `mts` (R129, R130); PHASECTL not inside a phase (R238). -/
def opMts (g : BitVec 4) (a : BitVec 6) (reg : BitVec 10) : SlotOp :=
  { SlotOp.simple g [.sreg a.toNat] [sysDest reg.toNat]
      (fun _ r => .need (!(reg.toNat == 0x050 && phaseOpen r.task)) causePhase 0)
      fun _ r s => sysWrite s reg.toNat (getS r a) with
    decode := sysDecode true reg.toNat }

/-- The meaning of `mts`: its issue alone in a bundle. -/
def execMts (g : BitVec 4) (a : BitVec 6) (reg : BitVec 10) (st : State) : Result :=
  issueLone 1 (opMts g a reg) st


end Sys2Proof.Machine
end

