-- ==== Sys2Proof/Machine/Matrix.lean ====
section
/-! DEFINITION. The matrix slot S5: operand slots, products, accumulators and tap mode (R194 to R216). -/

namespace Sys2Proof.Machine

/-! ## Operand slots (R194 to R197) -/

/-- The physical slot of a task-relative operand number. -/
def mapped (s : State) (o : Nat) : Option Nat := smFind s.task.omap o

/-- The operand slot of a task-relative number. -/
def operand (s : State) (o : Nat) : OSlot :=
  match mapped s o with
  | some p => getOSlot s p
  | none => OSlot.initial

/-- The bytes of an element, and the depth K, of a format (R196). -/
def elemBytes (f : Nat) : Nat := if f = 4 then 8 else if f = 1 then 4 else 2
def depthOf (f : Nat) : Nat :=
  if f = 4 then 32 else if f = 1 then 64 else if f = 2 || f = 3 || f = 0xA then 128 else if f = 9 then 256 else 512

/-- The bytes a row-layout line of a format uses (R196). -/
def lineBytes (f : Nat) : Nat := if f = 0xA then 144 else if f = 9 then 192 else 256

/-- The number of little-endian bytes of slot data. -/
def slotNat (d : SMap Byte) (off n : Nat) : Nat := leNat ((List.range n).map fun i => smGet 0 d (off + i))

/-- Element (line, k) of a QB line of panels (R28). -/
def qbLineElem (d : SMap Byte) (f line k : Nat) : Fp :=
  let b := qbBits f
  let panel := 16 + 16 * (b + 1)
  let base := line * 256 + k / 128 * panel
  let blk := k / 16 % 8
  let header := slotNat d (base + 2 * blk) 2
  let bit := (16 * blk + k % 16) * (b + 1)
  let field := slotNat d (base + 16 + bit / 8) 2 / 2 ^ (bit % 8) % 2 ^ (b + 1)
  qbValue b header (field * 2 ^ (k % 16 * (b + 1))) (k % 16)

/-- Element (line, k) in row layout, and (k, j) in K layout. -/
def rowElem (d : SMap Byte) (f line k : Nat) : Fp :=
  if isQbTag f then qbLineElem d f line k else fpDecode (tagFmt f) (slotNat d (line * 256 + k * elemBytes f) (elemBytes f))
def kElem (d : SMap Byte) (f k j : Nat) : Fp := fpDecode (tagFmt f) (slotNat d ((k * 16 + j) * elemBytes f) (elemBytes f))

/-- The legal pairs' group size and extent (R33, R198). -/
def groupOf (a b : Nat) : Nat :=
  if a = 4 then 1 else if a = 1 then 2 else if isQbTag a && isQbTag b then (if a = 0xA || b = 0xA then 32 else 64) else 16
def extentOf (a b : Nat) : Nat := min (depthOf a) (depthOf b)

/-- MFMT (R199). -/
def fmtA (t : Task) : Nat := bits t.mfmt 4 4
def fmtB (t : Task) : Nat := bits t.mfmt 0 4
def drained (t : Task) : Bool := bits t.mfmt 8 1 = 1

/-- A matrix operation issues: MFMT.DR becomes 0 (R199). -/
def clearDr (s : State) : State := { s with task := { s.task with mfmt := setBits s.task.mfmt 8 1 0 } }

/-! ## Accumulators (R201, R202) -/

/-- Element k = 16 i + j of an accumulator as a value. -/
def accElem (a : Acc) (k : Nat) : Fp := fpDecode f128 (smGet 0 a.vals k).toNat

/-- The rims that resolving an accumulator's codes reads. -/
def accRims (a : Acc) (row col : Bool) : List Nat :=
  (if row && isFactor a.rsc then [a.rsc.toNat] else []) ++ (if col && isFactor a.csc then [a.csc.toNat] else [])

/-- A binary128 pattern as an accumulator element. -/
def accBits (x : Nat) : BitVec 128 := BitVec.ofNat 128 x

/-- resolve_acc (R202): the applied codes become identity; no flag. -/
def resolveAcc (s : State) (a : Acc) (row col : Bool) : Acc :=
  if (accRims a row col).isEmpty then a
  else
    let rho := codeVals s (if row then a.rsc else 0x7F)
    let kap := codeVals s (if col then a.csc else 0x7F)
    let vals := smOfFn 0 256 fun k =>
      let x := (resolveStep f128 true rho[k / 16]? (accElem a k, 0)).1
      let y := (resolveStep f128 true kap[k % 16]? (x, 0)).1
      accBits (fpRound f128 0 y).bits
    { a with rsc := if row then 0x7F else a.rsc, csc := if col then 0x7F else a.csc, vals := vals }

/-! ## Products (R205, R206) -/

/-- An operand as a matrix slot reads it: its format, codes, and element (line, k); a line that is not `inside` reads 0 after the
resolve (R212). -/
structure MatOpnd where
  fmt : Nat
  codes : Slots
  elem : Nat → Nat → Fp
  inside : Nat → Bool

/-- What happens to the factors of a product (R206): the positions A and B are resolved through, the codes that enter, and
whether the accumulator's row and column codes are resolved. -/
structure MmaPlan where
  ma : Nat
  mb : Nat
  row : BitVec 7
  col : BitVec 7
  accRow : Bool
  accCol : Bool
  deriving DecidableEq, Repr

/-- The factor rules of `mma`. `fresh`: zero-first, or an accumulator with CLR (R206). -/
def mmaPlan (a b : Slots) (acc : Acc) (fresh : Bool) : MmaPlan :=
  let ma := if isFactor a.csh || isFactor a.csc then 4 else if isFactor a.rsh then 1 else 0
  let row := if ma = 4 then 0x7F else a.rsc
  let mb := if isFactor b.rsh || isFactor b.rsc || isFactor b.csh then 3 else 0
  let col := b.csc
  if fresh then ⟨ma, mb, row, col, false, false⟩
  else if acc.rsc ≠ row then ⟨4, 4, 0x7F, 0x7F, true, true⟩
  else if acc.csc ≠ col then ⟨ma, 4, row, 0x7F, false, true⟩
  else ⟨ma, mb, row, col, false, false⟩

/-- A-operand element (i, k) resolved through a position: rows by i, columns by k mod 16 (R197). `at'` gives the raw
element; the working format is that of the operand's format. -/
def resolveOpnd (s : State) (f : Nat) (c : Slots) (m : Nat) (row col : Nat) (x : Fp) : Fp :=
  if (factorsUpTo c m).isEmpty then x
  else
    let v := fun (p : Nat) (code : BitVec 7) (e : Nat) => if p ≤ m && isFactor code then some (codeVal s code e) else none
    fpDecode (tagFmt f) (resolveElem (workFmt f) (tagFmt f) (v 1 c.rsh row) (v 2 c.rsc row) (v 3 c.csh col) (v 4 c.csc col) x).1

/-- The product of R205 into an accumulator's elements, group by group. -/
def mmaElem (kx g : Nat) (zeroFirst : Bool) (a b : Nat → Fp) (c : Fp) : Nat :=
  (List.range (kx / g)).foldl (fun acc n =>
    let terms := (List.range g).map fun t => (fpMul (a (n * g + t)) (b (n * g + t))).1
    let sum := if zeroFirst && n == 0 then fpSum 0 terms else fpSum 0 (fpDecode f128 acc :: terms)
    (fpRound f128 0 sum.1).bits) (fpRound f128 0 c).bits

/-- OFF summed over the four levels, and the fields of OFS0 (R211, R212). -/
def tapOrigin (t : Task) : Nat := ((List.range 4).foldl (fun a n => a + bits (smGet 0 t.ofs n) 0 8) 0) % 256
def tapPitch (t : Task) : Nat := bits (smGet 0 t.ofs 0) 16 6
def tapWcl (t : Task) : Nat := min (bits (smGet 0 t.ofs 0) 8 3) 4
def tapSpan (t : Task) : Nat := 2 ^ min (bits (smGet 0 t.ofs 0) 24 2) 2

/-- The haloed line of window line i (R212). -/
def tapLine (t : Task) (i : Nat) : Nat :=
  tapOrigin t + i / 2 ^ tapWcl t * tapPitch t + i % 2 ^ tapWcl t

/-- Step the tap offsets (R213). -/
def stepTap (t : Task) : Nat → Nat → Task
  | 0, _ => t
  | fuel + 1, n =>
    let o := smGet 0 t.ofs n
    let p := smGet 0 t.ofstep n
    let step := bits p 0 8
    let cnt := (bits p 16 8 + 1) % 256
    let off := (bits o 0 8 + step) % 256
    let wrap := bits p 8 8
    if wrap = 0 ∨ cnt ≠ wrap then
      { t with ofs := smSet 0 t.ofs n (setBits o 0 8 off), ofstep := smSet 0 t.ofstep n (setBits p 16 8 cnt) }
    else
      let back := (off + 256 * 256 - step * wrap) % 256
      stepTap { t with ofs := smSet 0 t.ofs n (setBits o 0 8 back), ofstep := smSet 0 t.ofstep n (setBits p 16 8 0) } fuel (n + 1)

/-- The slots an A operand names: one, or the span of tap mode. -/
def aSlots (t : Task) (tap : Bool) (o : Nat) : List Nat := if tap then (List.range (tapSpan t)).map (o + ·) else [o]

/-- An `oload` still owes an operand slot. -/
def slotOwed (r : State) (o : Nat) : Bool :=
  r.task.owed.any fun x => match x.kind with
    | .access (.loadSlot n ..) _ _ => n == o
    | _ => false

/-- Wait for operand slots that are owed (R96). -/
def waitSlots (r : State) (l : List Nat) : Pre := if l.any (slotOwed r) then .freeze .owed else .ok

/-- A slot number that is mapped and below 64. -/
def slotMapped (s : State) (o : Nat) : Bool := o < 64 && (mapped s o).isSome

/-- The A and B operands of a product. -/
def aOpnd (r : State) (tap : Bool) (o : Nat) : MatOpnd :=
  let x := operand r o
  let f := x.fmt.toNat
  if tap then
    ⟨f, x.codes, fun i k => rowElem (operand r (o + tapLine r.task i / 16)).data f (tapLine r.task i % 16) k,
      fun i => decide (tapLine r.task i < 16 * tapSpan r.task)⟩
  else ⟨f, x.codes, rowElem x.data f, fun _ => true⟩
def bOpnd (r : State) (bt : Bool) (o : Nat) : MatOpnd :=
  let x := operand r o
  let f := x.fmt.toNat
  ⟨f, x.codes, fun k j => if bt then rowElem x.data f j k else kElem x.data f k j, fun _ => true⟩

/-- The plan of a product at its issue. -/
def mmaPlanOf (r : State) (zero tap bt : Bool) (d a b : Nat) : MmaPlan :=
  let acc := getAcc r d
  mmaPlan (aOpnd r tap a).codes (bOpnd r bt b).codes acc (zero || acc.clr)

/-- The rims that a product applies on entry. -/
def mmaRims (r : State) (zero tap bt : Bool) (d a b : Nat) : List Nat :=
  let p := mmaPlanOf r zero tap bt d a b
  let acc := getAcc r d
  let of := fun (c : Slots) (m : Nat) => (factorsUpTo c m).map fun q => (c.pos q).toNat
  of (aOpnd r tap a).codes p.ma ++ of (bOpnd r bt b).codes p.mb ++ accRims acc p.accRow p.accCol

/-- The product of R205 with the factors of R206. -/
def mmaResult (r : State) (zero tap bt : Bool) (d a b : Nat) : Acc :=
  let p := mmaPlanOf r zero tap bt d a b
  let x := aOpnd r tap a
  let y := bOpnd r bt b
  let acc := resolveAcc r (getAcc r d) p.accRow p.accCol
  let kx := extentOf x.fmt y.fmt
  let am := (Array.range 16).map fun i => (Array.range kx).map fun k =>
    if x.inside i then resolveOpnd r x.fmt x.codes p.ma i (k % 16) (x.elem i k) else .zero
  let bm := (Array.range 16).map fun j => (Array.range kx).map fun k => resolveOpnd r y.fmt y.codes p.mb (k % 16) j (y.elem k j)
  ⟨p.row, p.col, false, smOfFn 0 256 fun e =>
    accBits (mmaElem kx (groupOf x.fmt y.fmt) zero (fun k => (am.getD (e / 16) #[]).getD k .zero)
      (fun k => (bm.getD (e % 16) #[]).getD k .zero) (accElem acc e)), []⟩

/-! ## Uncorrectable errors (R216) -/

/-- The sectors of a slot that lines in row layout take. -/
def lineSectors (f : Nat) (lines : List Nat) : List Nat :=
  lines.flatMap fun i => (List.range ((lineBytes f + 31) / 32)).map fun j => 8 * i + j

/-- The sectors of lines in row layout that a product of extent `kx` reads: of a slot with a longer K only the panels before it (R198). -/
def panelSectors (f kx : Nat) (lines : List Nat) : List Nat :=
  lines.flatMap fun i => (List.range ((lineBytes f * min kx (depthOf f) / depthOf f + 31) / 32)).map fun j => 8 * i + j

/-- An operand slot's data that an operation reads holds an uncorrectable error. -/
def slotBad (r : State) (o : Nat) (sectors : List Nat) : Bool := (operand r o).bad.any sectors.contains

/-- The A operand of a product, or its B operand, reads an uncorrectable error. -/
def aBad (r : State) (tap : Bool) (o : Nat) : Bool :=
  let f := (operand r o).fmt.toNat
  let kx := extentOf (fmtA r.task) (fmtB r.task)
  if tap then
    ((List.range 16).map (tapLine r.task)).any fun h => decide (h < 16 * tapSpan r.task) && slotBad r (o + h / 16) (panelSectors f kx [h % 16])
  else slotBad r o (panelSectors f kx (List.range 16))
def bBad (r : State) (bt : Bool) (o : Nat) : Bool :=
  slotBad r o (if bt then panelSectors (operand r o).fmt.toNat (extentOf (fmtA r.task) (fmtB r.task)) (List.range 16) else List.range 128)

/-- A matrix operation that reads an uncorrectable error writes nothing: it traps with the PC of its bundle, or cancels the phase. What
it reads are the operands that it names, whether or not they can change the result: a `mres` of an accumulator with identity codes reads
its data. That a tap-mode `mma` which meets one steps no offset is a reading of R213 and R216 (both DESIGN CHOICE, log 74). -/
def unlessBad (bad : State → Bool) (eff : Ctx → State → State → State) : Ctx → State → State → State :=
  fun c r s => if bad r then consumeError (clearDr s) c.slot r.task.pc r.task.pc [] else eff c r s

/-- An accumulator holds an uncorrectable error. -/
def accBad (r : State) (a : Nat) : Bool := !(getAcc r a).bad.isEmpty

/-- A product: `zero` zero-first, `tap` tap mode, `bt` transposed B (R205). -/
def mmaOp (zero tap bt : Bool) (g : BitVec 4) (d : BitVec 3) (a b : BitVec 6) : SlotOp :=
  .simple g [] (.acc d.toNat :: if tap then (List.range 8).map .ofs else [])
    (fun _ r =>
      let aa := aSlots r.task tap a.toNat
      (needAccs r [d.toNat]).and fun _ =>
      (Pre.need (aa.all (slotMapped r) && slotMapped r b.toNat) causeQuota 0).and fun _ =>
      (waitSlots r (b.toNat :: aa)).and fun _ =>
      (Pre.need (aa.all fun o => (operand r o).fmt.toNat == fmtA r.task) causeFormat 0).and fun _ =>
      (Pre.need ((operand r b.toNat).fmt.toNat == fmtB r.task) causeFormat 0).and fun _ =>
      (Pre.need (bt || !isQbTag (fmtB r.task)) causeFormat 0).and fun _ =>
      waitRims r false (mmaRims r zero tap bt d.toNat a.toNat b.toNat))
    (unlessBad (fun r => aBad r tap a.toNat || bBad r bt b.toNat || (!zero && accBad r d.toNat)) fun _ r s =>
      let s1 := clearDr (setAcc s d.toNat (mmaResult r zero tap bt d.toNat a.toNat b.toNat))
      if tap then { s1 with task := stepTap s1.task 4 0 } else s1)

/-- `mma` (R205). -/
def opMma (g : BitVec 4) (d : BitVec 3) (a b : BitVec 6) : SlotOp :=
  mmaOp false false false g d a b

/-- The meaning of `mma`: its issue alone in a bundle. -/
def execMma (g : BitVec 4) (d : BitVec 3) (a b : BitVec 6) (st : State) : Result :=
  issueLone 5 (opMma g d a b) st

/-- `mmz` (R205). -/
def opMmz (g : BitVec 4) (d : BitVec 3) (a b : BitVec 6) : SlotOp :=
  mmaOp true false false g d a b

/-- The meaning of `mmz`: its issue alone in a bundle. -/
def execMmz (g : BitVec 4) (d : BitVec 3) (a b : BitVec 6) (st : State) : Result :=
  issueLone 5 (opMmz g d a b) st

/-- `mma.tap` (R212). -/
def opMmaTap (g : BitVec 4) (d : BitVec 3) (a b : BitVec 6) : SlotOp :=
  mmaOp false true false g d a b

/-- The meaning of `mmaTap`: its issue alone in a bundle. -/
def execMmaTap (g : BitVec 4) (d : BitVec 3) (a b : BitVec 6) (st : State) : Result :=
  issueLone 5 (opMmaTap g d a b) st

/-- `mmz.tap` (R212). -/
def opMmzTap (g : BitVec 4) (d : BitVec 3) (a b : BitVec 6) : SlotOp :=
  mmaOp true true false g d a b

/-- The meaning of `mmzTap`: its issue alone in a bundle. -/
def execMmzTap (g : BitVec 4) (d : BitVec 3) (a b : BitVec 6) (st : State) : Result :=
  issueLone 5 (opMmzTap g d a b) st

/-- `mma.bt` (R205). -/
def opMmaBt (g : BitVec 4) (d : BitVec 3) (a b : BitVec 6) : SlotOp :=
  mmaOp false false true g d a b

/-- The meaning of `mmaBt`: its issue alone in a bundle. -/
def execMmaBt (g : BitVec 4) (d : BitVec 3) (a b : BitVec 6) (st : State) : Result :=
  issueLone 5 (opMmaBt g d a b) st

/-- `mmz.bt` (R205). -/
def opMmzBt (g : BitVec 4) (d : BitVec 3) (a b : BitVec 6) : SlotOp :=
  mmaOp true false true g d a b

/-- The meaning of `mmzBt`: its issue alone in a bundle. -/
def execMmzBt (g : BitVec 4) (d : BitVec 3) (a b : BitVec 6) (st : State) : Result :=
  issueLone 5 (opMmzBt g d a b) st

/-- `mma.tap.bt` (R212). -/
def opMmaTapBt (g : BitVec 4) (d : BitVec 3) (a b : BitVec 6) : SlotOp :=
  mmaOp false true true g d a b

/-- The meaning of `mmaTapBt`: its issue alone in a bundle. -/
def execMmaTapBt (g : BitVec 4) (d : BitVec 3) (a b : BitVec 6) (st : State) : Result :=
  issueLone 5 (opMmaTapBt g d a b) st

/-- `mmz.tap.bt` (R212). -/
def opMmzTapBt (g : BitVec 4) (d : BitVec 3) (a b : BitVec 6) : SlotOp :=
  mmaOp true true true g d a b

/-- The meaning of `mmzTapBt`: its issue alone in a bundle. -/
def execMmzTapBt (g : BitVec 4) (d : BitVec 3) (a b : BitVec 6) (st : State) : Result :=
  issueLone 5 (opMmzTapBt g d a b) st


/-! ## Accumulator instructions -/

/-- `mres` (R208). -/
def opMres (g : BitVec 4) (d : BitVec 3) : SlotOp :=
  .simple g [] [.acc d.toNat]
    (fun _ r => (needAccs r [d.toNat]).and fun _ => waitRims r false (accRims (getAcc r d.toNat) true true))
    (unlessBad (accBad · d.toNat) fun _ r s => clearDr (setAcc s d.toNat (resolveAcc r (getAcc r d.toNat) true true)))

/-- The meaning of `mres`: its issue alone in a bundle. -/
def execMres (g : BitVec 4) (d : BitVec 3) (st : State) : Result :=
  issueLone 5 (opMres g d) st

/-- Both accumulators' codes let `msacc` pass (R208). -/
def msaccPasses (x y : Acc) : Bool := x.clr || (x.rsc == y.rsc && x.csc == y.csc)

/-- `msacc` (R208): aD gains diag(K) times aS. -/
def opMsacc (g : BitVec 4) (d s : BitVec 3) (k : BitVec 6) : SlotOp :=
  .simple g [.rim k.toNat] [.acc d.toNat]
    (fun _ r =>
      let x := getAcc r d.toNat
      let y := getAcc r s.toNat
      (needAccs r [d.toNat, s.toNat]).and fun _ => (needRims r [k.toNat]).and fun _ =>
      waitRims r false (k.toNat :: if msaccPasses x y then [] else accRims x true true ++ accRims y true true))
    (unlessBad (fun r => accBad r d.toNat || accBad r s.toNat) fun _ r st =>
      let x := getAcc r d.toNat
      let y := getAcc r s.toNat
      let pass := msaccPasses x y
      let x' := if pass then x else resolveAcc r x true true
      let y' := if pass then y else resolveAcc r y true true
      let kv := rimValues r k.toNat
      let vals := smOfFn 0 256 fun e =>
        accBits (fpFma f128 0 (kv.getD (e / 16) .zero) (accElem y' e) (accElem x' e)).bits
      clearDr (setAcc st d.toNat ⟨if pass then y.rsc else 0x7F, if pass then y.csc else 0x7F, false, vals, []⟩))

/-- The meaning of `msacc`: its issue alone in a bundle. -/
def execMsacc (g : BitVec 4) (d s : BitVec 3) (k : BitVec 6) (st : State) : Result :=
  issueLone 5 (opMsacc g d s k) st

/-- The elements of an accumulator in a tile's format with flags (R209). -/
def mrdResult (r : State) (a : Acc) (f : Nat) : TileResult :=
  if isFloatTag f then eachElem f fun k => (fpRound (tagFmt f) (roundMode r.task) (accElem a k)).pair
  else
    let y := resolveAcc r a true true
    eachElem f fun k =>
      let x := fpToInt (roundMode r.task) (intMin f) (intMax f) (accElem y k)
      (wrapInt f x.1, x.2)

/-- `mrd` (R209). -/
def opMrd (g : BitVec 4) (a : BitVec 3) (t : BitVec 5) (f : BitVec 4) : SlotOp :=
  .simple g [] (encodedDests t.toNat f.toNat)
    (fun _ r => (needAccs r [a.toNat]).and fun _ => (needTiles r [t.toNat]).and fun _ =>
      (needEvenTile f.toNat t.toNat).and fun _ =>
      if isFloatTag f.toNat then .ok else waitRims r false (accRims (getAcc r a.toNat) true true))
    (unlessBad (accBad · a.toNat) fun c r s =>
      let x := getAcc r a.toNat
      let res := mrdResult r x f.toNat
      let slots : Slots := if isFloatTag f.toNat then ⟨0x7F, x.rsc, 0x7F, x.csc⟩ else Slots.identity
      let ovp := factored slots && (List.range 256).any fun k =>
        !(accElem x k).isInf && !(accElem x k).isNan && (fpDecode (tagFmt f.toNat) (res.elems.getD k 0)).isInf
      complete c.slot r.task.pc false false res.flags (fun s =>
        (resultTiles t.toNat f.toNat slots ovp res.elems).foldl (fun s y => setTile s y.1 y.2) s) (clearDr s))

/-- The meaning of `mrd`: its issue alone in a bundle. -/
def execMrd (g : BitVec 4) (a : BitVec 3) (t : BitVec 5) (f : BitVec 4) (st : State) : Result :=
  issueLone 5 (opMrd g a t f) st

/-- A tile's elements as exact values, QB ones by their blocks (R210). -/
def tileValue (o : Opnd) (k : Nat) : Fp := if isQbTag o.tag then qbElem o (k / 16) (k % 16) else elemValue o.tag (o.elems.getD k 0)

/-- The position `mwr` resolves its tile through (R210). -/
def mwrPos (x : Slots) : Nat := lastShift x

/-- `mwr` (R210). A signalling NaN element raises NV in the widening (R24), whose resolve raises nothing (R202). -/
def opMwr (g : BitVec 4) (a : BitVec 3) (t : BitVec 5) (f : BitVec 4) : SlotOp :=
  .simple g [.tile t.toNat] [.acc a.toNat]
    (fun _ r => (needAccs r [a.toNat]).and fun _ => (needTiles r [t.toNat]).and fun _ =>
      (Pre.need (tagOf r t.toNat == f.toNat) causeFormat 0).and fun _ => (needEvenTile f.toNat t.toNat).and fun _ =>
      waitRims r false (rimsOf [(readOpnd r t.toNat, mwrPos (getTile r t.toNat).slots)]))
    fun c r s =>
      let o := (resolve r (readOpnd r t.toNat) (mwrPos (getTile r t.toNat).slots)).1
      let wide := fun (k : Nat) => fpConvert f128 0 (tileValue o k)
      let x := (List.range 256).foldl (fun x k => x ||| (wide k).flags) 0
      complete c.slot r.task.pc false false x (fun s =>
        setAcc s a.toNat ⟨o.slots.rsc, o.slots.csc, false, smOfFn 0 256 fun k => accBits (wide k).bits, []⟩) (clearDr s)

/-- The meaning of `mwr`: its issue alone in a bundle. -/
def execMwr (g : BitVec 4) (a : BitVec 3) (t : BitVec 5) (f : BitVec 4) (st : State) : Result :=
  issueLone 5 (opMwr g a t f) st

/-- `mzero` (R207). -/
def opMzero (g : BitVec 4) (d : BitVec 3) : SlotOp :=
  .simple g [] [.acc d.toNat] (fun _ r => needAccs r [d.toNat]) fun _ _ s => clearDr (setAcc s d.toNat Acc.initial)

/-- The meaning of `mzero`: its issue alone in a bundle. -/
def execMzero (g : BitVec 4) (d : BitVec 3) (st : State) : Result :=
  issueLone 5 (opMzero g d) st


/-! ## Control of the engine and its memory -/

/-- `mdrain` (R200): sets MFMT.DR. -/
def opMdrain (g : BitVec 4) : SlotOp :=
  .simple g [] [] noCheck fun _ _ s => { s with task := { s.task with mfmt := setBits s.task.mfmt 8 1 1 } }

/-- The meaning of `mdrain`: its issue alone in a bundle. -/
def execMdrain (g : BitVec 4) (st : State) : Result :=
  issueLone 5 (opMdrain g) st

/-- `mfmt` (R199). -/
def opMfmt (g : BitVec 4) (a b : BitVec 4) : SlotOp :=
  .simple g [] [] (fun _ r => .need (drained r.task) causeMatrixBusy 0) fun _ _ s =>
    { s with task := { s.task with mfmt := word (0x100 + a.toNat * 2 ^ 4 + b.toNat) } }

/-- The meaning of `mfmt`: its issue alone in a bundle. -/
def execMfmt (g : BitVec 4) (a b : BitVec 4) (st : State) : Result :=
  issueLone 5 (opMfmt g a b) st

/-- `oclaim` (R195): the lowest unmapped number on a zeroed free slot, or -1. Of the free slots the lowest is taken (DESIGN CHOICE, log
74: the spec names none). -/
def opOclaim (g : BitVec 4) (s : BitVec 6) : SlotOp :=
  .simple g [] [.sreg s.toNat] noCheck fun _ _ st =>
    match (List.range 64).find? fun n => (mapped st n).isNone, (List.range 64).find? fun p => !(getOSlot st p).claimed with
    | some n, some p =>
      let s1 := setOSlot st p ⟨true, 0, Slots.identity, [], []⟩
      setS { s1 with task := { s1.task with omap := smPut s1.task.omap n p } } s (word n)
    | _, _ => setS st s (-1)

/-- The meaning of `oclaim`: its issue alone in a bundle. -/
def execOclaim (g : BitVec 4) (s : BitVec 6) (st : State) : Result :=
  issueLone 5 (opOclaim g s) st

/-- `orel` (R195). -/
def opOrel (g : BitVec 4) (o : BitVec 6) : SlotOp :=
  .simple g [] [] (fun _ r => waitSlots r [o.toNat]) fun _ _ st =>
    match mapped st o.toNat with
    | some p =>
      let s1 := setOSlot st p { getOSlot st p with claimed := false }
      { s1 with task := { s1.task with omap := smErase s1.task.omap o.toNat } }
    | none => st

/-- The meaning of `orel`: its issue alone in a bundle. -/
def execOrel (g : BitVec 4) (o : BitVec 6) (st : State) : Result :=
  issueLone 5 (opOrel g o) st

/-- `mofs` (R214). -/
def opMofs (g : BitVec 4) (s o : BitVec 6) : SlotOp :=
  .simple g [.sreg s.toNat] [.ofs o.toNat] noCheck fun _ r st =>
    sysWrite st (if o.toNat < 4 then 0x040 + o.toNat else 0x048 + (o.toNat - 4)) (getS r s)

/-- The meaning of `mofs`: its issue alone in a bundle. -/
def execMofs (g : BitVec 4) (s o : BitVec 6) (st : State) : Result :=
  issueLone 5 (opMofs g s o) st


end Sys2Proof.Machine
end

