-- ==== Sys2Proof/Machine/Engine.lean ====
section
/-! DEFINITION. What the engines share: atomics (R290, R382), the error log (R355), moves by sectors (R283) with requests to
other modules, and running a frame that is not the active one. -/

namespace Sys2Proof.Machine

/-! ## Running another frame -/

/-- Do something as the task in a frame position of a core, and leave the active core and its running frame as they were. -/
def withFrame (g pos : Nat) (f : State → State) (s : State) : State :=
  let back := s.active
  let s1 := activate s g
  let s2 :=
    if s1.core.run = some pos then f s1
    else
      let last := s1.core.lastRun
      let s3 := checkIn (f (checkOut (checkIn s1) pos))
      let s4 := match s1.core.run with
        | some p => checkOut s3 p
        | none => s3
      { s4 with core := { s4.core with lastRun := last } }
  activate s2 back

/-! ## Atomics (R290) -/

/-- A number of `w` bits read as signed. -/
def signedOf (w x : Nat) : Int := if 2 ^ (w - 1) ≤ x then (x : Int) - 2 ^ w else x

/-- The new value of an atomic on `w` bits: operations 0 to 9 in the order of R290. -/
def amoNew (op w old b : Nat) : Nat :=
  match op with
  | 0 => (old + b) % 2 ^ w
  | 1 => old &&& b
  | 2 => old ||| b
  | 3 => old ^^^ b
  | 4 => if signedOf w b < signedOf w old then b else old
  | 5 => min old b
  | 6 => if signedOf w old < signedOf w b then b else old
  | 7 => max old b
  | 8 => b
  | _ => (fpAdd f32 0 (fpDecode f32 old) (fpDecode f32 b)).bits

/-- The width of an atomic in bytes. -/
def amoBytes (narrow : Bool) : Nat := if narrow then 4 else 8

/-- The old value as s[D] takes it: zero-extended, sign-extended for signed minimum and maximum (R290). -/
def amoOld (op : Nat) (narrow : Bool) (old : Nat) : Word :=
  if narrow && (op == 4 || op == 6) then BitVec.ofInt 64 (signedOf 32 old) else word old

/-- The bytes an atomic stores. -/
def amoStore (op : Nat) (narrow : Bool) (operand : Word) (old : List Byte) : List Byte :=
  let n := amoBytes narrow
  leBytes n (amoNew op (8 * n) (leNat old) (operand.toNat % 2 ^ (8 * n)))

/-- One RPUT element (R382): element size by operation, and the new element. -/
def rputSize (rop : Nat) : Nat := if rop = 3 then 16 else if rop = 0 ∨ rop = 4 ∨ rop = 5 then 4 else 8

/-- The combination of an element `d` with `x` (R382). -/
def rputNew (rop : Nat) (d x : List Byte) : List Byte :=
  let a := leNat d
  let b := leNat x
  let n := rputSize rop
  match rop with
  | 0 => leBytes n (fpAdd f32 0 (fpDecode f32 a) (fpDecode f32 b)).bits
  | 1 => leBytes n (fpAdd f64 0 (fpDecode f64 a) (fpDecode f64 b)).bits
  | 2 => leBytes n ((a + b) % 2 ^ 64)
  | 3 => leBytes n (fpAdd f128 0 (fpDecode f128 a) (fpDecode f128 b)).bits
  | 4 => leBytes n (fpMinMax f32 true a b).bits
  | 5 => leBytes n (fpMinMax f32 false a b).bits
  | _ =>
    if b = 0xFF800000 then d
    else
      let r := lseLane 0 (a % 2 ^ 32) (a / 2 ^ 32) (b % 2 ^ 32) (b / 2 ^ 32)
      leBytes 4 r.1 ++ leBytes 4 r.2.1

/-! ## Moves by sectors -/

/-- How a move ended for now: a failed access has its cause and its address. -/
inductive WorkEnd
  | finished | waiting | held
  | failed (cause : BitVec 8) (va : Word)
  deriving DecidableEq, Repr

/-- A move in progress: the bytes written, the bytes read beyond them, and what it waits for. -/
structure Work where
  moved : Nat
  ahead : List Byte
  awaiting : Option Nat
  answer : Option Reply
  stop : WorkEnd
  deriving DecidableEq, Repr

/-- A move of `len` bytes from `src` to `dst` (R283, R381): how its requester reads, how it writes or combines, and what it asks of
another module in place of that write. `unit` is the element of a combination, 0 for a plain move. -/
structure Mover where
  src : Word
  dst : Word
  len : Nat
  unit : Nat
  read : Word → Nat → State → Got (List Byte)
  write : Word → List Byte → State → Got Unit
  ask : List Byte → RemoteKind

/-- What the next write covers: the rest of a destination sector, or one element. -/
def Mover.chunk (m : Mover) (moved : Nat) : Nat :=
  min (m.len - moved) (if m.unit = 0 then 32 - (m.dst + word moved).toNat % 32 else m.unit)

/-- The next read: the rest of a source sector. -/
def Mover.nextRead (m : Mover) (w : Work) : Word × Nat :=
  let at' := w.moved + w.ahead.length
  (m.src + word at', min (m.len - at') (32 - (m.src + word at').toNat % 32))

/-- Bytes are written: a byte read ahead that they replace reads as it is now. -/
def Mover.wrote (m : Mover) (w : Work) : Work :=
  let k := m.chunk w.moved
  let rest := w.ahead.drop k
  let gap := (m.src + word (w.moved + k) - (m.dst + word w.moved)).toNat
  let now := (List.range rest.length).map fun i =>
    if m.unit = 0 ∧ (gap + i) % 2 ^ 64 < k then w.ahead.getD ((gap + i) % 2 ^ 64) 0 else rest.getD i 0
  ⟨w.moved + k, now, none, none, .waiting⟩

/-- Carry on with a move; each turn reads the rest of one source sector or writes one piece, and `fuel` covers all of them. -/
def runMoves (m : Mover) : Nat → Work → State → Work × State
  | 0, w, s => ({ w with stop := .finished }, s)
  | n + 1, w, s =>
    let k := m.chunk w.moved
    let stopAt := fun (e : WorkEnd) (s : State) => (({ w with awaiting := none, answer := none, stop := e } : Work), s)
    let asks := fun (q : Nat × State) => (({ w with awaiting := some q.1, answer := none, stop := .waiting } : Work), q.2)
    if k = 0 then stopAt .finished s
    else if w.ahead.length < k then
      let r := m.nextRead w
      match m.read r.1 r.2 s with
      | .ok b s1 => runMoves m n { w with ahead := w.ahead ++ b } s1
      | .fault f s1 => stopAt (.failed f.cause r.1) s1
      | .held s1 => stopAt .held s1
      | .remote t s1 => asks (askRemote s1 t r.1 (.read r.2))
    else
      let va := m.dst + word w.moved
      match m.write va (w.ahead.take k) s with
      | .ok _ s1 => runMoves m n (m.wrote w) s1
      | .fault f s1 => stopAt (.failed f.cause va) s1
      | .held s1 => stopAt .held s1
      | .remote t s1 => asks (askRemote s1 t va (m.ask (w.ahead.take k)))

/-- Carry on with a move, with the answer it waited for: the bytes of a read, or that a write has performed. -/
def runWork (m : Mover) (w : Work) (s : State) : Work × State :=
  let fuel := 2 * m.len + 1
  let reads := decide (w.ahead.length < m.chunk w.moved)
  let va := if reads then (m.nextRead w).1 else m.dst + word w.moved
  let ends := fun (e : WorkEnd) => ({ w with awaiting := none, answer := none, stop := e }, s)
  match w.awaiting, w.answer with
  | none, _ => runMoves m fuel w s
  | some _, none => ({ w with stop := .waiting }, s)
  | some _, some (.data b) => runMoves m fuel (if reads then { w with ahead := w.ahead ++ b } else m.wrote w) s
  | some _, some (.error c _) => ends (.failed c va)
  | some _, some (.nack c) => ends (.failed c va)

end Sys2Proof.Machine
end

