-- ==== Sys2Proof/Machine/Trigger.lean ====
section
/-! DEFINITION. The trigger unit of a die: counters (R375 to R378), posted operations, their firing and their end (R379 to
R388), and the checks of `tpost` (R395). -/

namespace Sys2Proof.Machine

/-! ## Counters -/

/-- A counter of a die. -/
def getCounter (s : State) (d i : Nat) : Counter := smGet Counter.initial (getDie s d).counters i

def setCounter (s : State) (d i : Nat) (c : Counter) : State :=
  updDie s d fun k => { k with counters := smSet Counter.initial k.counters i c }

/-- The fields of a counter name (R375). -/
def nameIndex (n : Word) : Nat := bits n 0 12
def nameDie (n : Word) : Nat := bits n 12 2
def nameModule (n : Word) : BitVec 8 := BitVec.ofNat 8 (bits n 16 8)
def nameGen (n : Word) : BitVec 8 := BitVec.ofNat 8 (bits n 24 8)

/-- The name of a counter. -/
def counterName (s : State) (d i : Nat) : Word :=
  word (i + d * 2 ^ 12 + s.moduleId.toNat * 2 ^ 16 + (getCounter s d i).gen.toNat * 2 ^ 24)

/-- What a counter name reaches (R377). -/
inductive NameFate
  | live (die index : Nat)
  | stale
  | offline
  | dead
  | remote (m : BitVec 8)
  deriving DecidableEq, Repr

def nameFate (s : State) (n : Word) : NameFate :=
  if bits n 14 2 ≠ 0 ∨ bits n 32 32 ≠ 0 then .stale
  else if nameModule n ≠ s.moduleId then
    if (nameModule n).toNat ∈ s.dead then .dead
    else if (nameModule n).toNat ∈ s.modules then .remote (nameModule n) else .stale
  else if !(getDie s (nameDie n)).online then .offline
  else
    let c := getCounter s (nameDie n) (nameIndex n)
    if c.live && c.gen == nameGen n then .live (nameDie n) (nameIndex n) else .stale

/-- The fault of an instruction that uses a name (R377, R389); a name is no address, so TRAPVA takes the PC (R109). -/
def nameFault (pc : Word) (f : NameFate) : FaultRec :=
  match f with
  | .offline => ⟨causeOffline, 0, pc⟩
  | .dead => ⟨causeDead, 0, pc⟩
  | _ => ⟨causeTranslation, 10, pc⟩

/-! ## Posted operations -/

/-- A posted-operation entry of a die. -/
def getPosted (s : State) (d e : Nat) : Posted := smGet Posted.initial (getDie s d).posted e

def setPosted (s : State) (d e : Nat) (p : Posted) : State :=
  updDie s d fun k => { k with posted := smSet Posted.initial k.posted e p }

/-- TYPE, ROP, W, AV, CV and PER of a descriptor (R380). -/
def postType (p : Posted) : Nat := bits p.hdr 8 4
def postRop (p : Posted) : Nat := bits p.hdr 12 4
def postPer (p : Posted) : Bool := bits p.hdr 16 1 = 1
def postCv (p : Posted) : Bool := bits p.hdr 17 1 = 1
def postAv (p : Posted) : Bool := bits p.hdr 18 1 = 1
def postNarrow (p : Posted) : Bool := bits p.hdr 19 1 = 1

/-- Free an entry: its generation advances. -/
def freePosted (s : State) (d e : Nat) : State :=
  setPosted s d e { Posted.initial with gen := (getPosted s d e).gen + 1 }

/-- The requester of a posted operation for an address (R381): the local aperture is the poster's cluster's. -/
def postAgent (d : Nat) (p : Posted) (va : Word) : Agent :=
  if bits va 62 2 = 2 then Agent.ofCluster p.cluster else Agent.ofDie d

/-- How a posted operation reads and writes. -/
def postRead (d : Nat) (p : Posted) (va : Word) (n : Nat) (s : State) : Got (List Byte) := agentRead (postAgent d p va) va n s
def postWrite (d : Nat) (p : Posted) (va : Word) (b : List Byte) (s : State) : Got Unit := agentWrite (postAgent d p va) va b s

/-- How often an operation fires at a counter value (R384), and its next threshold: none where the sum leaves 64 bits. -/
def firings (p : Posted) (v : Nat) : Nat :=
  if v < p.thresh.toNat then 0 else if postPer p then (v - p.thresh.toNat) / max 1 p.step.toNat + 1 else 1

def nextThresh (p : Posted) (k : Nat) : Option Word :=
  let t := p.thresh.toNat + k * p.step.toNat
  if postPer p && decide (t < 2 ^ 64) then some (word t) else none

/-- The armed operations of a die on a counter, in post order. -/
def armedOn (s : State) (d i : Nat) : List (Nat × Posted) :=
  let l := (getDie s d).posted.filter fun e =>
    e.2.armed && nameIndex e.2.trig == i && nameGen e.2.trig == (getCounter s d i).gen
  l.foldl (fun acc x => (acc.filter fun y => y.2.order < x.2.order) ++ [x] ++ acc.filter fun y => x.2.order < y.2.order) []

/-- A copy of the trigger stream that has still to read its packet. -/
def triggerJob (e : Nat) : CopyJob := ⟨[], none, false, some e, .fresh, [], [], [], false, none, none, false, 0, 0, 0⟩

/-- A COPY operation fires: its packet is read, and it joins the die's trigger copy stream (R381). -/
def fireCopy (s : State) (d e : Nat) : State :=
  let p := getPosted s d e
  let j := triggerJob e
  let add := fun (s : State) (j : CopyJob) => updDie s d fun k => { k with trigStream := k.trigStream ++ [j] }
  match postRead d p p.src 64 s with
  | .ok b s1 => add s1 { j with packet := b }
  | .fault f s1 => add s1 { j with stage := .words, failed := true, err := f.cause.toNat, errVa := p.src }
  | .remote _ s1 => add s1 j
  | .held s1 => add s1 j

/-- The firing test of a counter (R384): every armed operation whose threshold is met fires, once for every threshold the
counter has reached. COPY operations join their stream pass by pass, in post order. -/
def fireTest (s : State) (d i : Nat) : State :=
  let v := (getCounter s d i).value.toNat
  let due := (armedOn s d i).filter fun x => x.2.thresh.toNat ≤ v
  let s1 := due.foldl (fun s x =>
    let k := firings x.2 v
    let t := nextThresh x.2 k
    setPosted s d x.1 { x.2 with firing := x.2.firing + k, armed := t.isSome, thresh := t.getD x.2.thresh }) s
  let passes := due.foldl (fun m x => if postType x.2 = 7 then max m (firings x.2 v) else m) 0
  (List.range passes).foldl (fun s n =>
    due.foldl (fun s x => if postType x.2 = 7 ∧ n < firings x.2 v then fireCopy s d x.1 else s) s) s1

/-- Raise a counter of the module and test its operations (R376, R384). -/
def raiseCounter (s : State) (d i : Nat) (amount : Nat) : State :=
  let c := getCounter s d i
  fireTest (setCounter s d i { c with value := word (min (c.value.toNat + amount) (2 ^ 64 - 1)) }) d i

/-- A die controller logs a failure: of a posted operation its handle, the cause and the address (R386), of another engine no word that
the specification names (R377). -/
def logFailure (s : State) (die : Nat) (handle : Option Word) (cause : BitVec 8) (va : Word) : State :=
  logWords s die (match handle with
    | some h => [h, word cause.toNat, va]
    | none => [])

/-- An increment that an engine raises (R377), for a posted operation or none: dropped and logged where the name is not live; another
module is asked, and an error in its answer is logged. -/
def raiseByEngine (s : State) (logDie : Nat) (handle : Option Word) (name : Word) (amount : Word) : State :=
  match nameFate s name with
  | .live d i => raiseCounter s d i amount.toNat
  | .remote m =>
    let q := askRemote s m name (.counterAdd amount)
    { q.2 with notices := q.2.notices ++ [⟨q.1, logDie, handle, name⟩] }
  | x => logFailure s logDie handle (nameFault 0 x).cause name

/-- A handle (R395). -/
def handleOf (s : State) (d e : Nat) : Word :=
  word (e + d * 2 ^ 14 + s.moduleId.toNat * 2 ^ 16 + (getPosted s d e).gen.toNat * 2 ^ 24)

/-- The die controller logs a failure of an operation (R386). -/
def logPosted (s : State) (d e : Nat) (cause : BitVec 8) (va : Word) : State := logFailure s d (some (handleOf s d e)) cause va

/-- A firing is over: its entry is freed once it is disarmed and no firing is left (R395). -/
def closeFiring (s : State) (d e : Nat) : State :=
  let p := getPosted s d e
  let p' := { p with firing := p.firing - 1, begun := false, moved := 0, ahead := [], log := [], awaiting := none, answer := none,
                     arriving := false }
  if p'.firing = 0 ∧ !p'.armed then freePosted s d e else setPosted s d e p'

/-- The last act of a firing: the completion counter rises (R385, R386). -/
def completeFiring (s : State) (d e : Nat) : State :=
  let p := getPosted s d e
  if postCv p then raiseByEngine (closeFiring s d e) d (some (handleOf s d e)) p.cctr 1 else closeFiring s d e

/-- A firing has ended: the arrival counter, unless it failed, and after it the completion counter rise (R385, R386). An arrival
counter on another module is asked to rise, and the firing goes on at the answer. -/
def endFiring (s : State) (d e : Nat) (ok : Bool) : State :=
  let p := getPosted s d e
  if ok && postAv p then
    match nameFate s p.actr with
    | .remote t =>
      let q := askRemote s t p.actr (.counterAdd 1)
      setPosted q.2 d e { p with awaiting := some q.1, answer := none, arriving := true }
    | _ =>
      let h := some (handleOf s d e)
      let s1 := closeFiring s d e
      let s2 := raiseByEngine s1 d h p.actr 1
      if postCv p then raiseByEngine s2 d h p.cctr 1 else s2
  else completeFiring s d e

/-! ## RIMW (R383) -/

/-- The state of a rim after a RIMW (R158). -/
def Rim.arrived (r : Rim) (vals : SMap (BitVec 32)) : Rim :=
  match r.state with
  | .pending p b => if p = producerKpend then ⟨.ready, vals⟩ else ⟨.pending p b, vals⟩
  | .ready => ⟨.ready, vals⟩

/-- Sixteen binary32 values from 64 bytes. -/
def rimOfBytes (b : List Byte) : SMap (BitVec 32) :=
  smOfFn 0 16 fun e => BitVec.ofNat 32 (leNat ((b.drop (4 * e)).take 4))

/-- The 64 bytes of a rim. -/
def rimBytes (v : SMap (BitVec 32)) : List Byte := (List.range 16).flatMap fun e => leBytes 4 (smGet 0 v e).toNat

/-- The task's rim takes a RIMW; results in flight to the rim stay in flight. -/
def Task.rimArrives (t : Task) (k : Nat) (v : SMap (BitVec 32)) : Task :=
  { t with rims := smSet Rim.initial t.rims k ((smGet Rim.initial t.rims k).arrived v) }.noteWrite (.rim k)

/-- Deliver a RIMW on this module (R383): to the resident or the saved task. None where it is dropped. A saved task's record
is written too (R106). -/
def deliverRim (s : State) (target launch : Word) (b : List Byte) : Got Unit :=
  let g := bits target 8 2 * 192 + bits target 10 2 * 48 + bits target 12 6
  let k := bits target 18 6
  let id : BitVec 32 × BitVec 32 := (BitVec.ofNat 32 (bits launch 0 32), BitVec.ofNat 32 (bits target 32 32))
  let dropped : Got Unit := .fault ⟨causeTranslation, 0, target⟩ s
  if bits target 12 6 ≥ 48 ∨ !present s g ∨ bits target 24 8 ≠ 0 then dropped
  else
    let v := rimOfBytes b
    match (residents s g).find? fun e => e.2.ident == id with
    | some (pos, t) => if rimQuota t ≤ k then dropped else .ok () (setFrame s g pos (t.rimArrives k v))
    | none =>
      match (getCluster s (clusterOf g)).saved.find? fun x => x.core == g && x.task.ident == id with
      | none => dropped
      | some x =>
        if rimQuota x.task ≤ k then dropped
        else
          let put := fun (va : Word) (b : List Byte) (s : State) => match agentWrite (Agent.ofDie (dieOf g)) va b s with
            | .fault _ s1 => Got.ok () (logError s1 (dieOf g))
            | r => r
          (put (x.record + 0x1000 + word (64 * k)) b s).bind fun _ s1 =>
          (put (x.record + 0x500 + word (8 * k)) (leBytes 8 0) s1).bind fun _ s2 =>
            .ok () (updCluster s2 (clusterOf g) fun c => { c with saved := c.saved.map fun y =>
              if y.core = g ∧ y.task.ident = id then { y with task := y.task.rimArrives k v } else y })

/-! ## One step of a fired operation -/

/-- How a queue append goes on (R286, R381): it reads, claims, writes, waits for room, or is published. -/
inductive QueueStep
  | read (va : Word) (n : Nat)
  | claim (va : Word)
  | claimIf (va old : Word)
  | write (va : Word) (b : List Byte)
  | full
  | done
  deriving DecidableEq, Repr

/-- Bytes 8 to 63 and the header of a published packet (R245). -/
def publishedHeader (packet : List Byte) (i : Nat) : List Byte := packet.take 4 ++ leBytes 4 (i % 2 ^ 32)

/-- The steps of `cpq` (R286): the packet, RING and LOG2N, the claim, READ until there is room, the payload, the header.
`log` holds what each has answered. -/
def cpqStep (desc src : Word) (log : List (List Byte)) : QueueStep :=
  match log with
  | [] => .read src 64
  | [_] => .read (desc + 0x88) 16
  | [_, _] => .claim desc
  | [_, _, _] => .read (desc + 0x80) 8
  | [p, r, i, rd] =>
    if queueSize r ≤ (leNat i + 2 ^ 64 - leNat rd) % 2 ^ 64 then .full
    else .write (queueSlot r (leNat i) + 8) (p.drop 8)
  | [p, r, i, _, _] => .write (queueSlot r (leNat i)) (publishedHeader p (leNat i))
  | _ => .done

/-- The steps of LAUNCH (R381), which claims only where the ring has room: the packet, RING and LOG2N, READ, WRITE, the
conditional claim, the payload, the header. -/
def launchStep (src desc : Word) (log : List (List Byte)) : QueueStep :=
  match log with
  | [] => .read src 64
  | [_] => .read (desc + 0x88) 16
  | [_, _] => .read (desc + 0x80) 8
  | [_, _, _] => .read desc 8
  | [_, r, rd, w] =>
    if queueSize r ≤ (leNat w + 2 ^ 64 - leNat rd) % 2 ^ 64 then .full else .claimIf desc (word (leNat w))
  | [p, r, _, w, _] => .write (queueSlot r (leNat w) + 8) (p.drop 8)
  | [p, r, _, w, _, _] => .write (queueSlot r (leNat w)) (publishedHeader p (leNat w))
  | _ => .done

/-- The result of an attempt to carry a fired operation on. -/
inductive FireStep
  | again (s : State)
  | waits (s : State)
  | ends (ok : Bool) (s : State)
  | fails (cause : BitVec 8) (va : Word) (s : State)

/-- One access of a queue append (a slot is one aligned 64-byte block), performed on this module. -/
def queueAccess (ag : Word → Agent) (q : QueueStep) (s : State) : Got (List Byte) :=
  match q with
  | .read va n => agentRead (ag va) va n s
  | .claim va => agentRmw (ag va) va 8 (fun b => some (leBytes 8 (leNat b + 1))) s
  | .claimIf va old => agentRmw (ag va) va 8 (fun b => if leNat b = old.toNat then some (leBytes 8 (leNat b + 1)) else none) s
  | .write va b => (agentWrite (ag va) va b s).bind fun _ s1 => .ok [] s1
  | _ => .held s

/-- What that access asks of another module. -/
def queueAsk : QueueStep → Word × RemoteKind
  | .read va n => (va, .read n)
  | .claim va => (va, .atomic 0 false 1)
  | .claimIf va old => (va, .cas false old (old + 1))
  | .write va b => (va, .write b)
  | _ => (0, .read 0)

/-- The cause in an answer that is no data. -/
def replyCause : Reply → BitVec 8
  | .data _ => 0
  | .error c _ => c
  | .nack c => c

/-- Note the answer of a queue access in the log of a LAUNCH: a lost conditional claim starts the append over, with the packet that
the firing read. -/
def noteQueue (q : QueueStep) (log : List (List Byte)) (b : List Byte) : List (List Byte) :=
  match q with
  | .claimIf _ old => if leNat b = old.toNat then log ++ [b] else log.take 1
  | _ => log ++ [b]

/-- A LAUNCH that has claimed a slot and cannot publish its packet leaves a void packet in it, as `cpq` does (R286). -/
def voidLaunch (p : Posted) (s : State) : State :=
  match p.log with
  | _ :: r :: _ :: w :: _ :: _ => writeVoid p.cluster s ⟨queueSlot r (leNat w), leNat w, p.dst, queueSize r, true, none, none⟩
  | _ => s

/-- A LAUNCH operation carries on by one access. A cancelled one ends where its claim was lost, or has failed: it had not begun firing
(R381). -/
def launchOnce (s : State) (d e : Nat) : FireStep :=
  let p := getPosted s d e
  let q := launchStep p.src p.dst p.log
  let note := fun (b : List Byte) (s : State) =>
    let log := noteQueue q p.log b
    if p.cancelled ∧ log.length < 5 then .waits (freePosted s d e)
    else FireStep.again (setPosted s d e { p with log := log, begun := decide (5 ≤ log.length), awaiting := none, answer := none })
  let fails := fun (c : BitVec 8) (s : State) =>
    if p.cancelled ∧ p.log.length < 5 then .waits (freePosted s d e) else FireStep.fails c (queueAsk q).1 (voidLaunch p s)
  match q with
  | .done => .ends true s
  | .full => .waits (setPosted s d e { p with log := p.log.take 1 })
  | _ =>
    match p.awaiting, p.answer with
    | some _, none => .waits s
    | some _, some (.data b) => note b s
    | some _, some r => fails (replyCause r) s
    | none, _ =>
      match queueAccess (postAgent d p) q s with
      | .ok b s1 => note b s1
      | .fault f s1 => fails f.cause s1
      | .held s1 => .waits s1
      | .remote t s1 =>
        let a := askRemote s1 t (queueAsk q).1 (queueAsk q).2
        .waits (setPosted a.2 d e { p with awaiting := some a.1 })

/-- A LAUNCH operation carries on as far as it can; `fuel` covers its seven accesses and one lost claim. -/
def runLaunch : Nat → State → Nat → Nat → FireStep
  | 0, s, _, _ => .waits s
  | n + 1, s, d, e =>
    match launchOnce s d e with
    | .again s1 => runLaunch n s1 d e
    | x => x

/-- The move of a PUT, GET or RPUT. -/
def postMover (d : Nat) (p : Posted) : Mover where
  src := p.src
  dst := p.dst
  len := p.len
  unit := if postType p = 3 then rputSize (postRop p) else 0
  read := postRead d p
  write := fun va b s =>
    if postType p = 3 then
      (agentRmw (postAgent d p va) va b.length (fun old => some (rputNew (postRop p) old b)) s).bind fun _ s1 => .ok () s1
    else postWrite d p va b s
  ask := fun b => if postType p = 3 then .combine (postRop p) b else .write b

/-- A PUT, GET or RPUT carries on. -/
def runMove (s : State) (d e : Nat) : FireStep :=
  let p := getPosted s d e
  let r := runWork (postMover d p) ⟨p.moved, p.ahead, p.awaiting, p.answer, .waiting⟩ s
  match r.1.stop with
  | .finished => .ends true r.2
  | .failed c va => .fails c va r.2
  | _ => .waits (setPosted r.2 d e { p with moved := r.1.moved, ahead := r.1.ahead, awaiting := r.1.awaiting, answer := r.1.answer })

/-- One access with its answer: performed here, or asked of another module. -/
def oneAccess (s : State) (d e : Nat) (here : State → Got (List Byte)) (va : Word) (k : RemoteKind)
    (next : List Byte → State → FireStep) : FireStep :=
  let p := getPosted s d e
  match p.awaiting, p.answer with
  | some _, none => .waits s
  | some _, some (.data b) => next b (setPosted s d e { p with awaiting := none, answer := none })
  | some _, some r => .fails (replyCause r) va s
  | none, _ =>
    match here s with
    | .ok b s1 => next b s1
    | .fault f s1 => .fails f.cause va s1
    | .held s1 => .waits s1
    | .remote t s1 =>
      let a := askRemote s1 t va k
      .waits (setPosted a.2 d e { p with awaiting := some a.1 })

/-- An AMO operation: the atomic at DST, then the old value at SRC where it is given (R381). -/
def runAmo (s : State) (d e : Nat) : FireStep :=
  let p := getPosted s d e
  let nar := postNarrow p
  let storeOld := fun (old : List Byte) (s : State) =>
    let b := leBytes 8 (amoOld (postRop p) nar (leNat old)).toNat
    if p.src = 0 then FireStep.ends true s
    else oneAccess s d e (fun s => (postWrite d p p.src b s).bind fun _ s1 => .ok [] s1) p.src (.write b)
      fun _ s1 => .ends true s1
  match p.log with
  | old :: _ => storeOld old s
  | [] =>
    oneAccess s d e
      (fun s => agentRmw (postAgent d p p.dst) p.dst (amoBytes nar) (fun old => some (amoStore (postRop p) nar p.opnd old)) s)
      p.dst (.atomic (postRop p) nar p.opnd)
      fun old s1 => storeOld old (setPosted s1 d e { getPosted s1 d e with log := [old] })

/-- A CINC operation (R381). -/
def runCinc (s : State) (d e : Nat) : FireStep :=
  let p := getPosted s d e
  match nameFate s p.dst with
  | .live d' i => .ends true (raiseCounter s d' i p.opnd.toNat)
  | .remote t => oneAccess s d e (fun s => .remote t s) p.dst (.counterAdd p.opnd) fun _ s1 => .ends true s1
  | x => .fails (nameFault 0 x).cause p.dst s

/-- A RIMW operation (R381, R383): read, then delivered here or sent. -/
def runRimw (s : State) (d e : Nat) : FireStep :=
  let p := getPosted s d e
  let m := BitVec.ofNat 8 (bits p.dst 0 8)
  let send := fun (b : List Byte) (s : State) =>
    if m = s.moduleId then
      match deliverRim s p.dst p.opnd b with
      | .ok _ s1 => FireStep.ends true s1
      | .held s1 => .waits (setPosted (keepAsks s s1) d e { getPosted s d e with log := [b] })
      | .fault f _ => .fails f.cause p.dst s
      | .remote _ _ => .fails causeTranslation p.dst s
    else
      match remoteFate (α := Unit) s (Agent.ofDie d) m p.dst with
      | .remote _ s1 =>
        let id := s1.nextOwed + 1
        .waits (setPosted { s1 with nextOwed := id, outbox := s1.outbox ++ [.rimWrite id p.dst p.opnd b] } d e
          { getPosted s1 d e with log := [b], awaiting := some id })
      | .fault f _ => .fails f.cause p.dst s
      | _ => .fails causeTranslation p.dst s
  match p.log with
  | b :: _ =>
    match p.awaiting, p.answer with
    | some _, none => .waits s
    | some _, some (.data _) => .ends true s
    | some _, some r => .fails (replyCause r) p.dst s
    | none, _ => send b s
  | [] => oneAccess s d e (postRead d p p.src 64) p.src (.read 64) send

/-- A fired operation that is no COPY carries on (R381). -/
def runFired (s : State) (d e : Nat) : FireStep :=
  let p := getPosted s d e
  match postType p with
  | 2 => runAmo s d e
  | 4 => runCinc s d e
  | 5 => runRimw s d e
  | 6 => runLaunch 24 s d e
  | _ => runMove s d e

/-! ## Posting (R395) and cancelling (R396) -/

/-- A field of a descriptor. -/
def descField (b : List Byte) (off n : Nat) : Word := word (leNat ((b.drop off).take n))

/-- The entry that a descriptor describes. -/
def postedOf (b : List Byte) (gen : BitVec 8) (order : Nat) (launch : BitVec 32) (cluster : Nat) : Posted :=
  { Posted.initial with
    used := true, armed := true, gen := gen, order := order, launch := launch, cluster := cluster,
    hdr := descField b 0 8, thresh := descField b 8 8, step := descField b 16 8, trig := descField b 0x18 4,
    cctr := descField b 0x1C 4, actr := descField b 0x20 4, len := (descField b 0x24 4).toNat,
    src := descField b 0x28 8, dst := descField b 0x30 8, opnd := descField b 0x38 8 }

/-- The target module of an operation (R385). -/
def targetModule (s : State) (p : Posted) : BitVec 8 :=
  match postType p with
  | 5 => BitVec.ofNat 8 (bits p.dst 0 8)
  | 4 => nameModule p.dst
  | 7 => s.moduleId
  | _ => if bits p.dst 62 2 = 0 then BitVec.ofNat 8 (bits p.dst 54 8) else s.moduleId

/-- A local-aperture address that names core 63 or 48 to 62. -/
def badAperture (va : Word) : Bool := bits va 62 2 == 2 && decide (48 ≤ bits va 26 6)

/-- The zero fields of R380 and R381. -/
def postReservedBad (p : Posted) : Bool :=
  let t := postType p
  bits p.hdr 0 8 != 3 || bits p.hdr 20 44 != 0 || (t != 2 && postNarrow p) || (t != 2 && t != 3 && postRop p != 0)
    || (match t with
        | 0 | 1 => p.opnd != 0
        | 2 => p.len != 0
        | 3 => p.opnd != 0
        | 4 => p.src != 0 || bits p.dst 32 32 != 0 || p.len != 0
        | 5 => bits p.dst 24 8 != 0 || p.len != 0 || bits p.opnd 32 32 != 0
        | 6 => p.len != 0 || p.opnd != 0
        | 7 => p.dst != 0 || p.len != 0 || p.opnd != 0
        | _ => false)

/-- TYPE or ROP unassigned, or fadd.f32 on 64 bits. -/
def postTypeBad (p : Posted) : Bool :=
  let t := postType p
  decide (8 ≤ t) || (t == 2 && (decide (10 ≤ postRop p) || (postRop p == 9 && !postNarrow p))) || (t == 3 && decide (7 ≤ postRop p))

/-- Alignment of SRC, DST or LEN, and the aperture cores (R381). -/
def postAlignBad (p : Posted) : Bool :=
  let off := fun (a : Word) (n : Nat) => a.toNat % n != 0
  match postType p with
  | 0 | 1 => badAperture p.src || badAperture p.dst
  | 2 => off p.src 8 || off p.dst (amoBytes (postNarrow p)) || badAperture p.src || badAperture p.dst
  | 3 =>
    let z := rputSize (postRop p)
    off p.src z || off p.dst z || p.len % z != 0 || badAperture p.src || badAperture p.dst
  | 5 => off p.src 64 || badAperture p.src
  | 6 => off p.src 64 || off p.dst 128 || badAperture p.src || bits p.dst 62 2 != 0
  | 7 => off p.src 64 || badAperture p.src
  | _ => false

/-- The first failing check of a descriptor, as the negative code (R395). -/
def postCode (s : State) (d : Nat) (p : Posted) : Option Nat :=
  if postReservedBad p then some 1
  else if postTypeBad p then some 2
  else if (match nameFate s p.trig with
      | .live d' _ => decide (d' ≠ d)
      | _ => true) then some 3
  else if postAlignBad p then some 4
  else if (postPer p && p.step == 0) || (!postPer p && p.step != 0) then some 5
  else if (postAv p && nameModule p.actr != targetModule s p) || (!postAv p && p.actr != 0) || (!postCv p && p.cctr != 0) then
    some 6
  else none

/-- The lowest free entry of a die. -/
def freeEntry (s : State) (d : Nat) : Option Nat :=
  (List.range 16384).find? fun e => !(getPosted s d e).used

/-- The lowest free counter of a die. -/
def freeCounter (s : State) (d : Nat) : Option Nat :=
  (List.range 4096).find? fun i => !(getCounter s d i).live

/-- Post a descriptor in a free entry: the value for s[D], and the state after the first firing test. -/
def postOp (s : State) (d e : Nat) (b : List Byte) (launch : BitVec 32) (cluster : Nat) : Word × State :=
  let p := postedOf b (getPosted s d e).gen (getDie s d).nextPost launch cluster
  match postCode s d p with
  | some c => (BitVec.ofInt 64 (-(c : Int)), s)
  | none =>
    let s1 := setPosted s d e p
    let s2 := updDie s1 d fun k => { k with nextPost := k.nextPost + 1 }
    (handleOf s2 d e, fireTest s2 d (nameIndex p.trig))

/-- Disarm an entry and free it unless a firing of it has begun (R396, R381). A LAUNCH whose claim is on its way to another module
waits for the answer, which says whether it has begun. -/
def cancelEntry (s : State) (d e : Nat) : State :=
  let p := getPosted s d e
  let claiming := decide (postType p = 6) && !p.begun && p.awaiting.isSome && decide (p.log.length = 4)
  let left := if postType p = 6 then (if p.begun || claiming then 1 else 0) else p.firing
  if left = 0 then freePosted s d e else setPosted s d e { p with armed := false, firing := left, cancelled := claiming }

/-- Cancel by handle: a stale handle has no effect. -/
def cancelHandle (s : State) (h : Word) : State :=
  let d := bits h 14 2
  let e := bits h 0 14
  let p := getPosted s d e
  if p.used && decide (p.gen.toNat = bits h 24 8) && decide (bits h 32 32 = 0) then cancelEntry s d e else s

/-- Free a counter (R377). -/
def freeCounterAt (s : State) (d i : Nat) : State :=
  setCounter s d i { Counter.initial with gen := (getCounter s d i).gen + 1 }

/-- A launch completes (R378): its operations that have not begun are cancelled and its counters freed, on every die. -/
def freeTriggers (s : State) (launch : BitVec 32) : State :=
  (List.range 4).foldl (fun s d =>
    let s1 := ((getDie s d).posted.filter fun e => e.2.used && e.2.launch == launch).foldl (fun s e => cancelEntry s d e.1) s
    ((getDie s1 d).counters.filter fun e => e.2.live && e.2.launch == launch).foldl (fun s e => freeCounterAt s d e.1) s1) s

end Sys2Proof.Machine
end

