-- ==== Sys2Proof/Machine/Page.lean ====
section
/-! DEFINITION. Page operations on leaves: `pcommit`, `pfree`, `pin`, `unpin` (R311, R312), the attribute transitions of
`pattr` (R149, R317), and `tlbi` (R148, R307). -/

namespace Sys2Proof.Machine

/-- The translator of an address and the address it walks (R300). -/
def translatorOf (a : Agent) (va : Word) (s : State) : Got (Translator × Nat) :=
  match a.space s va with
  | .device d off =>
    if (getDie s d).online then .ok (.die d (portOf s a d), off) s else .fault ⟨causeOffline, 0, va⟩ s
  | .remote m _ _ => remoteFate s a m va
  | .pool pva => .ok (.pool (bits s.poolrootLive 2 2), pva) s
  | _ => .fault ⟨causeTranslation, 0, va⟩ s

/-- Drop what a die's MTLBs keep of a range (R307): the invalidation reaches every sharer of its lines. -/
def Die.invalidate (k : Die) (lo n : Nat) : Die :=
  { k with mtlb := k.mtlb.map fun e => (e.1, tlbDrop e.2 lo n), paths := k.paths.map fun e => (e.1, tlbDrop e.2 lo n) }

/-- Drop a range of a translator's address space from every cache that may hold it (R307). -/
def invalidateRange (t : Translator) (lo n : Nat) (s : State) : State :=
  match t with
  | .die d _ => updDie s d fun k => k.invalidate lo n
  | .pool _ => { s with poolTlb := tlbDrop s.poolTlb lo n }

/-- Replace the entry of a leaf in its table: a CAS at its home that succeeds. -/
def casLeaf {α : Type} (t : Translator) (c : TlbEntry) (e : Word) (s : State) (go : State → Got α) : Got α :=
  awaitHolders (holdersOf s (Place.dram t.tableDie c.entryPa).key 8 true) true s fun s => go (putEntry s t.tableDie c.entryPa e)

/-- The cached copies of a leaf take a field that has changed. -/
def refreshLeaf (t : Translator) (c : TlbEntry) (e : Word) (s : State) : State :=
  let fix := fun (l : List TlbEntry) => l.map fun x => if x.page = c.page ∧ x.entryPa = c.entryPa then { x with entry := e } else x
  match t with
  | .die d _ => updDie s d fun k => { k with mtlb := k.mtlb.map fun x => (x.1, fix x.2) }
  | .pool _ => { s with poolTlb := fix s.poolTlb }

/-- The leaf of an address as its table now holds it, checked for a use. -/
def freshLeaf (a : Agent) (u : Use) (va : Word) (s : State) : Got (Translator × TlbEntry) :=
  (translatorOf a va s).bind fun tv s1 =>
    let s2 := tv.1.setCache s1 ((tv.1.cache s1).filter fun c => !(c.page ≤ tv.2 && tv.2 < c.page + c.size))
    (pageFor 2 tv.1 a u va s2 tv.2).bind fun c s3 => .ok (tv.1, c) s3

/-- The ATTRIBUTE check of R306 for a page operation that asks only for the leaf. -/
def ownerFault (a : Agent) (va : Word) (e : Word) : Option FaultRec :=
  if leafAttr e == 2 && a.core != some (leafOwner e) then some ⟨causeAttribute, 4, va⟩ else none

/-- A page in the pool, or one of a pool-space address, as an entry of a die's reclaim list. -/
def reclaimKey (e : Word) : Nat := if leafLoc e then 2 ^ 60 + leafFrame e else leafFrame e

/-- The memory key of a leaf's frame. -/
def frameKey (t : Translator) (e : Word) : Nat :=
  if leafLoc e then (Place.pool (leafFrame e)).key else (Place.dram t.tableDie (leafFrame e)).key

/-- The memory of a page: its address, its frame's key, its size. -/
structure PageSpan where
  va : Word
  key : Nat
  size : Nat
  deriving DecidableEq, Repr

/-- A window line of a core lies on a page: a coherent line by its home, another by its address, since its page may have moved or been
committed anew since its fill (R312, R410). -/
def PageSpan.holds (p : PageSpan) (c : Core) (e : Nat × Line) : Bool :=
  if e.2.attr = 0 then decide (p.key ≤ e.2.home) && decide (e.2.home < p.key + p.size)
  else decide (p.va.toNat ≤ (lineVa c e.1).toNat) && decide ((lineVa c e.1).toNat < p.va.toNat + p.size)

/-- Drop the window lines of a page that a test does not keep, with their dirty sectors; the number discarded. -/
def discardLines (s : State) (keep : Nat → Line → Bool) (p : PageSpan) : Nat × State :=
  (touchedCores s).foldl (fun acc g =>
    let hit := fun (e : Nat × Line) => p.holds (getCore s g) e && !keep g e.2
    let lost := ((getCore acc.2 g).lines.filter hit).foldl (fun m e => m + (dirtyList e.2).length) 0
    (acc.1 + lost, updCore acc.2 g fun c => { c with lines := c.lines.filter fun e => !hit e })) (0, s)

/-- Take back the window lines of a page that a test names: written to its frame and dropped. The dirty sectors of an uncommitted page
are discarded and counted for the running task (R312, R318). -/
def takeLines (s : State) (commit : Bool) (pick : Nat → Line → Bool) (p : PageSpan) : State :=
  (touchedCores s).foldl (fun s g =>
    ((getCore s g).lines.filter fun e => p.holds (getCore s g) e && pick g e.2).foldl (fun s e =>
      let home := p.key + ((lineVa (getCore s g) e.1).toNat - p.va.toNat)
      let r := storeSectors s g e.1 home e.2
      let s1 := if !commit then countDiscards s (dirtyList e.2).length else if r.1 then logLine r.2 home else r.2
      dropLine s1 g e.1) s) s

/-! ## pcommit, pfree, pin, unpin -/

/-- `pcommit` (R311). -/
def pcommitAt (a : Agent) (va : Word) (s : State) : Got Unit :=
  if bits va 62 2 = 1 then .fault ⟨causeTranslation, 4, va⟩ s
  else
    (freshLeaf a .commit va s).bind fun tc s1 =>
      let c := tc.2
      if c.size ≠ 2 ^ 16 then .fault ⟨causeTranslation, 5, va⟩ s1
      else if leafCommit c.entry then .ok () s1
      else
        let d := tc.1.tableDie
        match (getDie s1 d).freeFrames with
        | [] => .fault ⟨causeSparse, 1, va⟩ s1
        | f :: rest =>
          let e := setBits (setBits (setBits (setBits (setBits c.entry 16 32 (f / 2 ^ 16)) 15 1 0) 3 1 0) 4 1 0) 13 1 1
          casLeaf tc.1 c e s1 fun s2 => .ok () (updDie s2 d fun k => { k with freeFrames := rest })

/-- `pfree` (R312): steps 2 to 4; the die reclaims the frame in its own step. -/
def pfreeAt (a : Agent) (va : Word) (s : State) : Got Unit :=
  if bits va 62 2 = 1 then .fault ⟨causeTranslation, 4, va⟩ s
  else
    (freshLeaf a .probe va s).bind fun tc s1 =>
      let c := tc.2
      if c.size ≠ 2 ^ 16 then .fault ⟨causeTranslation, 5, va⟩ s1
      else
        match ownerFault a va c.entry with
        | some f => .fault f s1
        | none =>
          if !leafCommit c.entry then .ok () s1
          else if leafPin c.entry ≠ 0 then .fault ⟨causePermission, 7, va⟩ s1
          else
            awaitHolders (holdersOf s1 (frameKey tc.1 c.entry) c.size true) true s1 fun s1 =>
            casLeaf tc.1 c (setBits c.entry 13 1 0) s1 fun s1 =>
            let s2 := invalidateRange tc.1 c.page c.size s1
            let s3 := (discardLines s2 (fun _ l => l.attr != 0) ⟨va, frameKey tc.1 c.entry, c.size⟩).2
            .ok () (updDie s3 tc.1.tableDie fun k => { k with reclaim := k.reclaim ++ [reclaimKey c.entry] })

/-- `pin` and `unpin` (R311). -/
def pinAt (up : Bool) (a : Agent) (va : Word) (s : State) : Got Unit :=
  (freshLeaf a (if up then .pin else .probe) va s).bind fun tc s1 =>
    let c := tc.2
    if !leafCommit c.entry then .fault ⟨causeSparse, 0, va⟩ s1
    else
      match ownerFault a va c.entry with
      | some f => .fault f s1
      | none =>
        let n := leafPin c.entry
        let counts := fun (m : Nat) =>
          casLeaf tc.1 c (setBits c.entry 7 4 m) s1 fun s2 => .ok () (refreshLeaf tc.1 c (setBits c.entry 7 4 m) s2)
        if up then (if n = 15 then .fault ⟨causePermission, 5, va⟩ s1 else counts (n + 1))
        else if n = 0 then .fault ⟨causePermission, 6, va⟩ s1
        else counts (n - 1)

/-- A page operation by number: 0 `pcommit`, 1 `pfree`, 2 `pin`, 3 `unpin`. -/
def pageOpAt (op : Nat) (a : Agent) (va : Word) (s : State) : Got Unit :=
  match op with
  | 0 => pcommitAt a va s
  | 1 => pfreeAt a va s
  | 2 => pinAt true a va s
  | _ => pinAt false a va s

/-! ## tlbi (R148, R307) -/

/-- The part of a range of addresses that lies in a space of `size` addresses from `base`: where it begins in it, and its length. -/
def rangeWithin (base size lo n : Nat) : Nat × Nat :=
  let a := max base lo
  (a - base, min (base + size) (lo + n) - a)

/-- Invalidate the translations of a range of addresses of the module, on every die that it reaches, and in the pool. -/
def tlbiRangeAt (va : Word) (n : Nat) (s : State) : State :=
  let s1 := (List.range 4).foldl (fun s d =>
    let r := rangeWithin (s.moduleId.toNat * 2 ^ 54 + d * 2 ^ 52) (2 ^ 52) va.toNat n
    if r.2 = 0 then s else updDie s d fun k => k.invalidate r.1 r.2) s
  let p := rangeWithin (2 ^ 62) (2 ^ 48) va.toNat n
  if p.2 = 0 then s1 else { s1 with poolTlb := tlbDrop s1.poolTlb p.1 p.2 }

/-- Invalidate every translation; written roots take effect (R303, R398). -/
def tlbiAllAt (s : State) : State :=
  let s1 := (List.range 4).foldl (fun s d => updDie s d fun k => { k with mtlb := [], paths := [], dtrootLive := k.dtroot }) s
  { s1 with poolTlb := [], poolrootLive := s1.poolroot }

/-! ## pattr (R149, R317) -/

/-- The stream of a core's channel, of a queue, of a die's trigger unit: every copy that has begun and is not done. -/
def copiesInFlight (s : State) : List CopyJob :=
  ((touchedCores s).flatMap fun g => (getCore s g).channels.flatMap fun e => e.2)
    ++ (s.clusters.flatMap fun k => k.2.queueJobs.flatMap fun e => e.2)
    ++ s.dies.flatMap fun d => d.2.trigStream

/-- The `k` bytes at `a` lie in part in the `n` bytes at `va`. -/
def pageOverlaps (a : Word) (k : Nat) (va : Word) (n : Nat) : Bool :=
  decide (0 < k) && decide (a.toNat < va.toNat + n) && decide (va.toNat < a.toNat + k)

/-- Elements of a copy touch a range of addresses. -/
def CopyPart.touches (g : CopyPart) (va : Word) (n : Nat) : Bool :=
  pageOverlaps g.dst g.n va n || (g.src.map fun a => pageOverlaps a g.n va n).getD false

/-- What a fired PUT, GET or RPUT has still to move touches a range of addresses. -/
def Posted.touches (p : Posted) (va : Word) (n : Nat) : Bool :=
  let hit := fun (a : Word) => pageOverlaps (a + word p.moved) (p.len - p.moved) va n
  decide (0 < p.firing) && !p.arriving && (postType p == 0 || postType p == 1 || postType p == 3) && (hit p.src || hit p.dst)

/-- A begun copy touches a range of addresses: with the elements that it has still to move, its extent list while it reads it, or the
words that report its end. -/
def CopyJob.touches (j : CopyJob) (va : Word) (n : Nat) : Bool :=
  let field := fun (off k : Nat) => leNat ((j.packet.drop off).take k)
  j.stage != .fresh && (
    (j.todo.any fun l => l.any fun x => x.touches va n)
    || (j.stage == .list && pageOverlaps (word (field 0x08 8)) (16 * field 0x22 2) va n)
    || (field 0x18 8 != 0 && pageOverlaps (word (field 0x18 8)) 16 va n))

/-- A page is quiescent (R317): no other core is recorded as holder, and no copy, posted operation or remote access to it is
in flight. -/
def quiescent (s : State) (g : Nat) (p : PageSpan) : Bool :=
  (touchedCores s).all (fun h => h == g || (getCore s h).lines.all fun e => e.2.attr != 0 || !p.holds (getCore s h) e)
    && (holdersOf s p.key p.size true).isEmpty
    && (copiesInFlight s).all (fun j => !j.touches p.va p.size)
    && s.dies.all (fun d => (d.2.posted.all fun e => !e.2.touches p.va p.size)
      && d.2.held.all fun h => decide (h.va.toNat < p.va.toNat) || decide (p.va.toNat + p.size ≤ h.va.toNat))

/-- Record the attribute of the issuing core's lines that stay. -/
def relabelLines (s : State) (g : Nat) (p : PageSpan) (attr : Nat) : State :=
  updCore s g fun c => { c with lines := c.lines.map fun e => if p.holds c e then (e.1, { e.2 with attr := attr }) else e }

/-- The refusal of a transition from attribute `now` to `code` (R317): the issuing core is not the page's owner, or the page is not
quiescent. -/
def turnRefused (g : Nat) (p : PageSpan) (e : Word) (code : Nat) (s : State) : Bool :=
  if leafAttr e = 2 then leafOwner e != g || !quiescent s g p else code == 2 && !quiescent s g p

/-- What a transition does to the window lines of its page (R317): an uncommitted page has no coherent line. -/
def turnLines (g : Nat) (p : PageSpan) (commit : Bool) (now code : Nat) (s : State) : State :=
  let discard := fun (keep : Nat → Line → Bool) (s : State) =>
    let r := discardLines s keep p
    countDiscards r.2 r.1
  match now, code with
  | 2, _ => takeLines s commit (fun h _ => h == g) p
  | 0, 2 => takeLines s commit (fun h l => h == g && l.attr == 0) p
  | 0, _ => takeLines s commit (fun _ l => l.attr == 0) p
  | _, 2 => relabelLines (discard (fun h _ => h == g) s) g p 2
  | _, _ => discard (fun _ _ => false) s

/-- One page's transition for the issuing core `g` (R317): MIG becomes 2, what other modules hold of an HC page comes back, and with the
new attribute MIG is 0 again. Whether MIG has become 2, and how it stands. -/
def movePage (g : Nat) (turning : Bool) (t : Translator) (c : TlbEntry) (va : Word) (code : Nat) (s : State) : Bool × Got Unit :=
  let commit := leafCommit c.entry
  let p : PageSpan := ⟨va, if commit then frameKey t c.entry else 2 ^ 70, c.size⟩
  let now := leafAttr c.entry
  let put := fun (e : Word) (s : State) => invalidateRange t c.page c.size (putEntry s t.tableDie c.entryPa e)
  let asks := fun (s : State) => holdersOf s (Place.dram t.tableDie c.entryPa).key 8 true
  let ends := fun (s : State) =>
    let away := if now = 0 ∧ code = 1 then holdersOf s p.key p.size true else []
    awaitHolders (away ++ asks s) true s fun s =>
      Got.ok () (put (setBits (setBits (setBits c.entry 11 2 0) 5 2 code) 48 10 (if code = 2 then g else 0))
        (turnLines g p commit now code s))
  if turning then (true, ends s)
  else if now = code then (false, .ok () s)
  else if turnRefused g p c.entry code s then (false, .fault ⟨causeAttribute, 2, va⟩ s)
  else if !(asks s).isEmpty then (false, awaitHolders (asks s) true s fun s => .ok () s)
  else (true, ends (put (setBits c.entry 11 2 2) s))

/-- The leaves of the 64 KiB steps of a range, by a walk that caches nothing, with the holders in other modules of what it reads
(R304). -/
def leavesOf (a : Agent) (va : Word) (n : Nat) (s : State) : List (Nat × Walk × List RemoteHolder) :=
  match translatorOf a va s with
  | .ok (t, v) _ =>
    match t.root s with
    | .error _ => []
    | .ok root =>
      (List.range (n / 2 ^ 16)).map fun i =>
        let w := walkBy s [] t.tableDie root (v + i * 2 ^ 16)
        (v, w.1, w.2.flatMap fun x => holdersOf s (Place.dram t.tableDie x.entryPa).key 8 false)
  | _ => []

/-- The range covers part of a 512 MiB leaf (R317). -/
def splitsLeaf (a : Agent) (va : Word) (n : Nat) (s : State) : Bool :=
  (leavesOf a va n s).any fun x =>
    match x.2.1 with
    | .leaf page size _ _ => decide (size = 2 ^ 29) && (decide (page < x.1) || decide (x.1 + n < page + size))
    | .fail _ => false

/-- The leaf of a page of `pattr`: of the one whose transition it has begun, whatever its MIG says. -/
def turningLeaf (a : Agent) (turning : Bool) (va : Word) (s : State) : Got (Translator × TlbEntry) :=
  if turning then
    (translatorOf a va s).bind fun tv s1 => (findLeaf tv.1 va s1 tv.2).bind fun c s2 => .ok (tv.1, c) s2
  else freshLeaf a .probe va s

/-- The pages of a range in ascending order, by number of 64 KiB steps left: the page that it stands at, whether that one's transition
has begun, and how it stands. -/
def movePages (g code : Nat) : Nat → Word → Bool → State → (Word × Bool) × Got Unit
  | 0, va, _, s => ((va, false), .ok () s)
  | n + 1, va, turning, s =>
    match turningLeaf (Agent.ofCore g) turning va s with
    | .ok tc s1 =>
      if tc.2.size = 2 ^ 29 ∧ va.toNat % 2 ^ 29 ≠ 0 then movePages g code n (va + 0x10000) false s1
      else
        let r := movePage g turning tc.1 tc.2 va code s1
        match r.2 with
        | .ok _ s2 => movePages g code n (va + 0x10000) false s2
        | x => ((va, r.1), x)
    | .fault f s1 => ((va, turning), .fault f s1)
    | .remote m s1 => ((va, turning), .remote m s1)
    | .held s1 => ((va, turning), .held s1)

/-- `pattr` (R149): the code is refused first. -/
def pattrRun (g : Nat) (va len code : Word) (turning : Bool) (s : State) : (Word × Bool) × Got Unit :=
  if 3 ≤ code.toNat then ((va, false), .fault ⟨causeAttribute, 1, va⟩ s)
  else movePages g code.toNat (len.toNat / 2 ^ 16) va turning s

end Sys2Proof.Machine
end

