-- ==== Sys2Proof/Machine/Access.lean ====
section
/-! DEFINITION. The interlocked accesses of a task (R96, R218): performing one in this module, sending one to another module on
an ordering stream (R361, R367), and completing one when its answer comes (R364). -/

namespace Sys2Proof.Machine

/-! ## Memory as the running task sees it -/

/-- Fill or take for writing the lines of an own-scratchpad range, without leaving the step (R231). -/
def touchLines (write : Bool) (isWindow : Bool) : List Nat → State → Got Unit
  | [], s => .ok () s
  | l :: rest, s =>
    if !isWindow then .ok () s
    else
      let filled : Got Unit := match smFind s.core.lines l with
        | some _ => .ok () s
        | none => fillLine s s.active l
      filled.bind fun _ s1 =>
        let up : Got Unit := match smFind s1.core.lines l with
          | some ln => if write && !ln.exclusive then upgradeLine s1 s1.active l else .ok () s1
          | none => .ok () s1
        up.bind fun _ s2 => touchLines write isWindow rest s2

/-- The scratchpad lines of a range. -/
def spotLines (off n : Nat) : List Nat := (List.range ((off % 128 + n + 127) / 128)).map fun i => off / 128 + i

def OwnSpot.isWindow : OwnSpot → Bool
  | .plain _ => false
  | .window _ => true

/-- The task's read of bytes in one page: own scratchpad and windows, or the place of execution, which for an own-aperture address
in a window of another launch is the window's address (R229). -/
def taskRead (va : Word) (n : Nat) (s : State) : Got (List Byte) :=
  match ownSpot s va with
  | some p => (touchLines false p.isWindow (spotLines p.off n) s).bind fun _ s1 => ownRead s1 p.off n va
  | none => agentRead (Agent.ofCore s.active) (windowAlias s va) n s

/-- The task's write of bytes in one page. -/
def taskWrite (va : Word) (b : List Byte) (s : State) : Got Unit :=
  match ownSpot s va with
  | some p => (touchLines true p.isWindow (spotLines p.off b.length) s).bind fun _ s1 => .ok () (ownStore s1 p b)
  | none => agentWrite (Agent.ofCore s.active) (windowAlias s va) b s

/-- Check that a write could perform, and make its page dirty, without writing (R222: a trap stores no byte). -/
def taskProbe (va : Word) (n : Nat) (s : State) : Got Unit :=
  match ownSpot s va with
  | some p => touchLines true p.isWindow (spotLines p.off n) s
  | none =>
    let v := windowAlias s va
    match (Agent.ofCore s.active).space s v with
    | .scratch g off =>
      if g ≠ s.active ∧ (windowAtOff (getCore s g) off).isSome then .fault ⟨causeAttribute, 3, va⟩ s else .ok () s
    | _ => (translate (Agent.ofCore s.active) .write v s).bind fun t s1 =>
      awaitHolders (holdersOf s1 t.key n true) true s1 fun s1 => .ok () s1

/-- The task's atomic: a window line of the issuing core that covers the address goes home first (R229, R291). -/
def taskRmw (va : Word) (n : Nat) (f : List Byte → Option (List Byte)) (s : State) : Got (List Byte) :=
  let v := windowAlias s va
  (flushOwnLine v s).bind fun _ s1 => agentRmw (Agent.ofCore s1.active) v n f s1

/-- Read several pieces in order. -/
def readPieces : List (Word × Nat) → State → Got (List (List Byte))
  | [], s => .ok [] s
  | p :: rest, s => (taskRead p.1 p.2 s).bind fun b s1 => (readPieces rest s1).bind fun l s2 => .ok (b :: l) s2

/-- Pieces as far as they can be read: those read so far, and how it stands. -/
def readRun : List (Word × Nat) → List (List Byte) → State → List (List Byte) × Got Unit
  | [], got, s => (got, .ok () s)
  | p :: rest, got, s =>
    match taskRead p.1 p.2 s with
    | .ok b s1 => readRun rest (got ++ [b]) s1
    | .fault f s1 => (got, .fault f s1)
    | .remote m s1 => (got, .remote m s1)
    | .held s1 => (got, .held s1)

/-- A piece that another module holds. -/
def pieceAway (s : State) (va : Word) : Bool :=
  (ownSpot s va).isNone && (match spaceOf s none none va with
    | .remote .. => true
    | _ => false)

/-- Probe and then write several pieces: a fault writes none of them. -/
def probePieces : List (Word × List Byte) → State → Got Unit
  | [], s => .ok () s
  | p :: rest, s => (taskProbe p.1 p.2.length s).bind fun _ s1 => probePieces rest s1

def writePieces : List (Word × List Byte) → State → Got Unit
  | [], s => .ok () s
  | p :: rest, s => (taskWrite p.1 p.2 s).bind fun _ s1 => writePieces rest s1

/-- The 64-byte halves of a row, which do not cross a page. -/
def rowPieces (va : Word) (n : Nat) : List (Word × Nat) := (List.range (n / 64)).map fun i => (va + word (64 * i), 64)

/-- The pieces of a row's store: a 128-byte row that is one line whole (R343), else halves. -/
def rowStores (va : Word) (b : List Byte) : List (Word × List Byte) :=
  if va.toNat % 128 = 0 ∧ b.length = 128 then [(va, b)]
  else
  (List.range ((b.length + 63) / 64)).map fun i => (va + word (64 * i), (b.drop (64 * i)).take 64)

/-! ## What an answer writes -/

/-- A loaded value as s[D] takes it (R220). -/
def loadValue (signed : Bool) (b : List Byte) : Word :=
  if signed then BitVec.ofInt 64 (signedOf (8 * b.length) (leNat b)) else word (leNat b)

/-- The tiles that rows of raw containers make (R221, R223). -/
def tilesOfRows (t : Nat) (fmt : BitVec 4) (slots : Slots) (ovp : Bool) (rows : List (List Byte)) : List (Nat × Tile) :=
  let keep := ovp && slots != Slots.identity
  let cell := fun (off stride k : Nat) => leNat (((rows.getD (k / 16) []).drop (off + stride * (k % 16))).take 4)
  if fmt = 4 then
    [(t, mkTile 4 slots keep ((Array.range 256).map (cell 0 8))),
     (t + 1, mkTile 4 Slots.identity false ((Array.range 256).map (cell 4 8)))]
  else [(t, mkTile fmt.toNat slots keep ((Array.range 256).map (cell 0 4)))]

/-- Group 64-byte pieces into rows. -/
def rowsOf (fmt : BitVec 4) (pieces : List (List Byte)) : List (List Byte) :=
  if fmt = 4 then (List.range 16).map fun i => pieces.getD (2 * i) [] ++ pieces.getD (2 * i + 1) [] else pieces

/-- The 64-byte pieces of a tile's rows in memory. -/
def tilePieces (fmt : BitVec 4) (rows : List Word) : List (Word × Nat) := rows.flatMap fun r => rowPieces r (if fmt = 4 then 128 else 64)

/-- Write the tiles that pieces of rows make (R221, R223). -/
def writeTiles (t : Nat) (fmt : BitVec 4) (slots : Slots) (ovp : Bool) (l : List (List Byte)) (s : State) : State :=
  (tilesOfRows t fmt slots ovp (rowsOf fmt l)).foldl (fun s x => setTile s x.1 x.2) s

/-- Set p1. -/
def setP1 (s : State) (v : Bool) : State := { s with task := { s.task with preds := putP s.task.preds 1 v } }

/-- Begin a wait. -/
def startWait (k : WaitKind) (deadline : Option Nat) (park : Bool) (slot : Nat) (pc : Word) (s : State) : State :=
  { s with task := { s.task with waits := s.task.waits ++ [⟨k, deadline, s.tick, slot, pc, park⟩] } }

/-! ## Streams (R361, R362, R367) -/

/-- It blocks its task until it is answered (R101, R364). -/
def Access.blocks : Access → Bool
  | .load .. | .amo .. | .cas .. | .cas128 .. | .loadTile .. | .loadRim .. | .pageOp .. | .counterRead .. | .cpq ..
  | .waitWord .. | .counterWait .. => true
  | _ => false

/-- It writes at its target (R287). -/
def Access.isWrite : Access → Bool
  | .store .. | .memberStore .. | .storeRows .. | .amo .. | .cas .. | .cas128 .. | .storeThenRaise .. | .multicast .. => true
  | _ => false

/-- A blocking access parks its task where R101 lets it: a `wait` or `tcwait` anywhere; a page operation on another module; of `cpq` only
the claim; any other to another module or the pool. -/
def Access.mayPark (a : Access) (own : Bool) : Bool :=
  match a with
  | .waitWord .. | .counterWait .. => true
  | .pageOp .. => !own
  | .cpq _ _ log => !own && log.length == 2
  | a => a.blocks && (!own || bits a.va 62 2 == 1)

/-- The deadline of a timeout: none for all ones. -/
def deadlineOf (s : State) (timeout : Word) : Option Nat :=
  if timeout = BitVec.allOnes 64 then none else some (s.tick + timeout.toNat)

/-- The deadline that a wait has got already: the read of another module's word was a part of it (R141). -/
def replyDeadline (t : Task) : Option (Option Nat) :=
  (t.waits.find? fun w => match w.kind with
    | .reply _ => w.deadline.isSome
    | _ => false).map (·.deadline)

/-- The deadline of a wait whose word or counter is still to be read (R141); a poll has none. -/
def Access.replyLimit (a : Access) (s : State) : Option Nat :=
  match a with
  | .waitWord _ _ _ t .. | .counterWait _ _ t _ => if t = 0 then none else (replyDeadline s.task).getD (deadlineOf s t)
  | _ => none

/-- Owe an access to another module, or to this one where its home holds it. -/
def oweAccess (slot : Nat) (pc : Word) (a : Access) (lane : Lane) (target : Nat) (block : Bool) (s : State) : State :=
  let s1 := oweTo slot pc true lane target a s
  if block && a.blocks then
    startWait (.reply (s.nextOwed + 1)) (a.replyLimit s) (a.mayPark (target == s.moduleId.toNat)) slot pc s1
  else s1

/-- Send what no longer has to wait at the source, in issue order. -/
def releaseHeld (g pos : Nat) (s : State) : State :=
  match getFrame s g pos with
  | none => s
  | some t =>
    let r := t.owed.foldl (fun (acc : List Owed × State) o =>
      match o.held, o.kind with
      | true, .access a k target =>
        let s1 := pinStream acc.2 g pos k target ((acc.1 ++ t.owed).any fun x => sentOn s x k)
        if mustHold s1 g pos acc.1 a k then (acc.1 ++ [o], s1)
        else (acc.1 ++ [{ o with held := false }], sendOut s1 o.id target g pos k o.nack a)
      | _, _ => (acc.1 ++ [o], acc.2)) ([], s)
    updFrame r.2 g pos fun t => { t with owed := r.1 }

/-! ## Counters and copies -/

/-- The copies of a core's channel. -/
def channelOf (s : State) (g ch : Nat) : List CopyJob := smGet [] (getCore s g).channels ch

def setChannel (s : State) (g ch : Nat) (l : List CopyJob) : State :=
  updCore s g fun c => { c with channels := smSet [] c.channels ch l }

/-- A copy as it enters a stream. -/
def CopyJob.ofPacket (b : List Byte) (issuer : Option Nat) (rerun : Bool) : CopyJob :=
  ⟨b, issuer, rerun, none, .fresh, [], [], [], false, none, none, false, 0, 0, 0⟩

/-- A copy's packet is read: `inside` a phase the copy is held, else it enters its channel (R240, R285). -/
def issueCopy (inside : Bool) (va : Word) (off ch : Nat) (b : List Byte) (s : State) : State :=
  let s1 := { s with core := { s.core with packetChannel := smPut s.core.packetChannel (off / 64) ch } }
  if inside then { s1 with task := { s1.task with heldCopies := s1.task.heldCopies ++ [⟨b, ch, va⟩] } }
  else setChannel s1 s1.active ch (channelOf s1 s1.active ch ++ [CopyJob.ofPacket b (some s1.active) false])

/-- A channel that takes no further copy outside a phase (R277). -/
def channelFull (s : State) (ch : Nat) : Bool := !phaseOpen s.task && decide (8 ≤ (channelOf s s.active ch).length)

/-- A descriptor is read: it is posted on the core's die, and s[D] takes the handle (R395). -/
def postDescriptor (d : BitVec 6) (b : List Byte) (s : State) : State :=
  match freeEntry s (dieOf s.active) with
  | none => s
  | some e =>
    let r := postOp s (dieOf s.active) e b s.task.launchId (clusterOf s.active)
    setS r.2 d r.1

/-- A counter access of the task: on this module, or a fault, or another module's. -/
def counterAt (pc name : Word) (s : State) : Got (Nat × Nat) :=
  match nameFate s name with
  | .live d i => .ok (d, i) s
  | .remote m => .remote m s
  | f => .fault (nameFault pc f) s

/-- Perform the steps of a `cpq` as far as they go (R286): its log so far, and how it stands. -/
def cpqRun : Nat → Word → Word → List (List Byte) → State → List (List Byte) × Got Unit
  | 0, _, _, log, s => (log, .held s)
  | n + 1, desc, src, log, s =>
    match cpqStep desc src log with
    | .done => (log, .ok () s)
    | .full => (log.take 3, .held s)
    | q =>
      let r := if log.isEmpty then taskRead src 64 s else queueAccess (fun _ => Agent.ofCore s.active) q s
      match r with
      | .ok b s1 => cpqRun n desc src (log ++ [b]) s1
      | .fault f s1 => (log, .fault f s1)
      | .remote m s1 => (log, .remote m s1)
      | .held s1 => (log, .held s1)

/-! ## Program order on overlapping bytes (R323) -/

/-- An access of the own module that an earlier one of the task, still held at its home, or on its way as a multicast, must precede
(R323). -/
def behindOwed (s : State) (before : List Owed) (l : List (Word × Nat)) : Bool :=
  before.any fun o => match o.kind with
    | .access a _ t => (t == s.moduleId.toNat || a.isMulticast) && spansMeet s (a.touches s) l
    | .reduction .. => false

/-- A write-class access: where its page moves, its home holds it (R314). -/
def Access.queues : Access → Bool
  | .store .. | .storeThenRaise .. | .memberStore .. | .storeRows .. | .amo .. | .cas .. | .cas128 .. | .pageOp .. => true
  | _ => false

/-- What an access touches outside the own scratchpad. -/
def Access.away (s : State) (a : Access) : List (Word × Nat) := a.spans.filter fun x => (ownSpot s x.1).isNone

/-- A request must wait at its home for a write-class access that the home holds and that arrived earlier, whose task may be another
one: to the same line, or as write-class ones to the same page (R314, R319, R333). -/
def queuedBehind (s : State) (id : Nat) (writes : Bool) (l : List (Word × Nat)) : Bool :=
  !l.isEmpty && (allFrames s).any fun e => e.2.2.owed.any fun o => match o.kind with
    | .access b _ t => decide (o.id < id) && t == s.moduleId.toNat && b.queues
        && spansShare (if writes then 65536 else 128) l b.spans
    | .reduction .. => false

/-- An access of the running task waits behind one that the home holds. -/
def Access.queued (s : State) (id : Nat) (a : Access) : Bool := queuedBehind s id a.queues (a.away s)

/-! ## Multicast (R374) -/

/-- The stream number of the copies that this module sends out as a group's root (R374): none of a task's 16. -/
def rootStream : Nat := 16

/-- The streams of a multicast's copies: those of the write, or the root's one. -/
def copyLane (sequenced : Bool) (lane : Lane) : Lane := if sequenced then .fixed rootStream else lane

/-- Write a value on every member (R374): this module's copy at its home, and an owed store for each member on another
module, on the root's stream where the write is sequenced. A member that is dead or whose copy faults here traps, with its id, and is
not repeated. -/
def multicastTo (slot : Nat) (pc : Word) (lane : Lane) (g : Nat) (v : Word) (b : List Byte) (sequenced : Bool) (before : List Owed) (s : State) :
    State :=
  ((List.range 256).filter (isMember s g)).foldl (fun s m =>
    let va := memberVa s g m v
    let trap := fun (c : BitVec 8) (s : State) => detect s ⟨c, BitVec.ofNat 16 m, slot, va, []⟩
    let owe := fun (s : State) => oweTo slot pc false (copyLane sequenced lane) m (.memberStore va b) s
    if m = s.moduleId.toNat then
      if behindOwed s before [(va, b.length)] || (Access.memberStore va b).queued s (s.nextOwed + 1) then owe s else
      match agentWrite (Agent.ofCore s.active) va b s with
      | .ok _ s1 => watchWrites [(va, b.length)] s1
      | .fault f s1 => trap f.cause s1
      | .remote _ s1 => s1
      | .held s1 => owe s1
    else if m ∈ s.dead then trap causeDead s
    else if m ∈ s.modules then owe s
    else trap causeTranslation s) s

/-- A sequenced write of which this module is the root waits there for the task's earlier multicasts, and for its earlier accesses to the
copies' lines, so that its copies leave in the root's order (R335, R374). -/
def rootHolds (s : State) (before : List Owed) (a : Access) : Bool :=
  match a with
  | .multicast g _ _ _ true =>
    bits (groupWord s g.toNat 0) 8 8 == s.moduleId.toNat && before.any fun o => match o.kind with
      | .access b _ t => b.isMulticast || (t != s.moduleId.toNat && sharesLine s a b)
      | .reduction .. => false
  | _ => false

/-- `mcst` and `mcst.seq` at the issuing module (R374), behind the task's earlier accesses `before`. -/
def multicastAt (slot : Nat) (pc : Word) (lane : Lane) (group offset : Word) (narrow : Bool) (value : Word) (sequenced : Bool)
    (before : List Owed) (s : State) : State :=
  let g := group.toNat
  let n := amoBytes narrow
  let a : Access := .multicast group offset narrow value sequenced
  let trap := fun (c : BitVec 8) (d : BitVec 16) => detect s ⟨c, d, slot, offset, []⟩
  if 63 < g ∨ bits (groupWord s g 0) 0 1 = 0 then trap causeTranslation 8
  else if (groupWord s g 2).toNat < offset.toNat + n then trap causeTranslation 9
  else
    let root := BitVec.ofNat 8 (bits (groupWord s g 0) 8 8)
    if sequenced && root != s.moduleId then
      if root.toNat ∈ s.dead then trap causeDead 0
      else if root.toNat ∉ s.modules then trap causeTranslation 7
      else oweAccess slot pc a lane root.toNat false s
    else if rootHolds s before a then oweAccess slot pc a lane s.moduleId.toNat false s
    else multicastTo slot pc lane g offset (leBytes n (value.toNat % 2 ^ (8 * n))) sequenced before s

/-! ## Performing an access in this module -/

/-- The pieces of an operand load: its lines or k-rows (R196, R225). -/
def oloadLines (fmt : BitVec 4) (kl : Bool) : Nat × Nat :=
  if kl then (if fmt = 4 then (32, 128) else if fmt = 1 then (64, 64) else (128, 32))
  else (16, if fmt = 0xA then 144 else if fmt = 9 then 192 else 256)

/-- The bytes of an operand slot from its lines. -/
def oloadData (kl : Bool) (n : Nat) (lines : List (List Byte)) : SMap Byte :=
  let stride := if kl then n else 256
  smOfFn 0 4096 fun k => if k % stride < n then (lines.getD (k / stride) []).getD (k % stride) 0 else 0

/-- Split a line at window lines and sectors: 16-byte pieces, so that each lies on one side of every boundary. -/
def linePieces (va : Word) (n : Nat) : List (Word × Nat) := (List.range (n / 16)).map fun i => (va + word (16 * i), 16)

/-- Every piece is an own-scratchpad access. -/
def allOwn (s : State) (l : List (Word × Nat)) : Bool := l.all fun p => (ownSpot s p.1).isSome

/-- The slot's codes from a descriptor (R225). -/
def oloadCodes (fmt : BitVec 4) (d : Word) : Slots :=
  if bits d 61 1 = 1 ∧ !isQbTag fmt.toNat then
    ⟨BitVec.ofNat 7 (bits d 33 7), BitVec.ofNat 7 (bits d 40 7), BitVec.ofNat 7 (bits d 47 7), BitVec.ofNat 7 (bits d 54 7)⟩
  else Slots.identity

/-- The signed stride of a descriptor. -/
def oloadStride (d : Word) : Word := BitVec.ofInt 64 (signedOf 32 (bits d 0 32))

/-- The pieces of an `oload`, each on one side of every window and sector boundary. -/
def oloadPieces (fmt : BitVec 4) (va d : Word) : List (Word × Nat) :=
  let dim := oloadLines fmt (bits d 32 1 == 1)
  (List.range dim.1).flatMap fun i => linePieces (va + word i * oloadStride d) dim.2

/-- An operand slot takes the pieces of an `oload` (R225). The sectors that it covers are whole again, and what its format does not
use of them is zero; the others keep their data and errors (R216). -/
def fillSlot (phys : Nat) (fmt : BitVec 4) (d : Word) (l : List (List Byte)) (s : State) : State :=
  let kl := bits d 32 1 == 1
  let dim := oloadLines fmt kl
  let per := dim.2 / 16
  let rows := (List.range dim.1).map fun i => ((l.drop (i * per)).take per).flatMap id
  let covered := if kl then List.range 128 else lineSectors fmt.toNat (List.range 16)
  let old := getOSlot s phys
  let fresh := oloadData kl dim.2 rows
  setOSlot s phys ⟨old.claimed, fmt, oloadCodes fmt d,
    smOfFn 0 4096 fun k => if covered.contains (k / 32) then smGet 0 fresh k else smGet 0 old.data k,
    old.bad.filter fun k => !covered.contains k⟩

/-- The pieces of an `oload` that are not of the own scratchpad or a window (R225). -/
def oloadAway (fmt : BitVec 4) (va d : Word) (s : State) : Option Word :=
  ((oloadPieces fmt va d).find? fun p => (ownPlace s p.1).isNone).map Prod.fst

/-- `oload`'s transfer, with the pieces read so far: of a window line that its home keeps (R316) they come from there. -/
def oloadAt (phys : Nat) (fmt : BitVec 4) (va d : Word) (got : List (List Byte)) (s : State) : Got Unit :=
  match oloadAway fmt va d s with
  | some p => .fault ⟨causeTranslation, 1, p⟩ s
  | none =>
    let r := readRun ((oloadPieces fmt va d).drop got.length) got s
    r.2.bind fun _ s1 => .ok () (fillSlot phys fmt d r.1 s1)

/-- The scratchpad lines of a window. -/
def windowLine (w : Word) (l : Nat) : Bool := winValid w && decide (winOff w ≤ l * 128) && decide (l * 128 < winOff w + winLen w)

/-- The last step of `sunmap` (R228): nothing of the window's lines is left, V := 0. -/
def closeWindow (s : State) (g n : Nat) : State :=
  let w := smGet 0 (getCore s g).smap n
  if !winValid w then s
  else
    updCore s g fun c => { c with smap := smSet 0 c.smap n (setBits w 0 1 0), lines := c.lines.filter fun e => !windowLine w e.1,
                                  fills := c.fills.filter fun f => !windowLine w f.line,
                                  pass := c.pass.filter fun l => !windowLine w l }

/-- The lines of the core's windows that overlap a range of addresses (R233). -/
def linesInRange (s : State) (va len : Word) : List (Nat × Line) :=
  s.core.lines.filter fun e =>
    let a := (lineVa s.core e.1).toNat
    len != 0 && decide (a < va.toNat + len.toNat) && decide (va.toNat < a + 128)

/-- `sunmap` (R228): every line of the window is written back and leaves it, those of another module once their home has acknowledged
it; a fault leaves the sectors (R348). What has no home is discarded and counted (R312, R318). -/
def unmapAt (n : Nat) (s : State) : Got Unit :=
  let w := smGet 0 s.core.smap n
  (returnLines true true s.active (s.core.lines.filter fun e => windowLine w e.1) s).bind fun _ s1 => .ok () (closeWindow s1 s1.active n)

/-- The condition of `wait` (R141). -/
def waitMet (cond : Nat) (value w : Word) : Bool :=
  match cond with
  | 0 => w == value
  | 1 | 4 => w != value
  | 2 => decide (value.toNat ≤ w.toNat)
  | _ => decide (w.toNat < value.toNat)

/-- The test of a `wait` on a value of its word (R141): met, timed out at once, or a wait begins. A change is one from the value at
issue, which a first read takes. -/
def testWord (slot : Nat) (pc : Word) (lane : Lane) (va : Word) (cond : Nat) (value timeout : Word) (base : Option Word) (park : Bool)
    (w : Word) (s : State) : State :=
  let against := if cond = 4 then base.getD w else value
  if waitMet cond against w then setP1 s true
  else if timeout = 0 then setP1 s false
  else startWait (.word va cond against timeout lane) ((replyDeadline s.task).getD (deadlineOf s timeout)) park slot pc s

/-- The test of a `tcwait` on a value of its counter (R394). -/
def testCounter (slot : Nat) (pc : Word) (lane : Lane) (name value timeout : Word) (park : Bool) (v : Word) (s : State) : State :=
  if value.toNat ≤ v.toNat then setP1 s true
  else if timeout = 0 then setP1 s false
  else startWait (.counter name value timeout lane) ((replyDeadline s.task).getD (deadlineOf s timeout)) park slot pc s

/-- Perform an access as the running task, writing what it writes. A wait whose condition does not hold begins. -/
def performAccess (slot : Nat) (pc : Word) (lane : Lane) (a : Access) (s : State) : Got Unit :=
  match a with
  | .load va n signed d => (taskRead va n s).bind fun b s1 => .ok () (setS s1 d (loadValue signed b))
  | .store va b => taskWrite va b s
  | .amo op nar va x d =>
    (taskRmw va (amoBytes nar) (fun old => some (amoStore op nar x old)) s).bind fun old s1 =>
      .ok () (setS s1 d (amoOld op nar (leNat old)))
  | .cas nar va e x d =>
    let n := amoBytes nar
    (taskRmw va n (fun old => if old = leBytes n e.toNat then some (leBytes n x.toNat) else none) s).bind fun old s1 =>
      .ok () (setS s1 d (word (leNat old)))
  | .cas128 va el eh nl nh d =>
    (taskRmw va 16 (fun old => if old = leBytes 8 el.toNat ++ leBytes 8 eh.toNat
        then some (leBytes 8 nl.toNat ++ leBytes 8 nh.toNat) else none) s).bind fun old s1 =>
      .ok () (setS (setS s1 d (word (leNat (old.take 8)))) (d + 1) (word (leNat (old.drop 8))))
  | .loadTile t fmt rows slots ovp got =>
    let r := readRun ((tilePieces fmt rows).drop got.length) got s
    r.2.bind fun _ s1 => .ok () (writeTiles t fmt slots ovp r.1 s1)
  | .stateWord va => (taskRead va 8 s).bind fun b s1 =>
      .ok () { s1 with task := { s1.task with stateWord := some (va, word (leNat b)) } }
  | .storeRows l =>
    let here := l.filter fun p => !pieceAway s p.1
    (probePieces here s).bind fun _ s1 => (writePieces here s1).bind fun _ s2 =>
      match l.find? fun p => pieceAway s p.1 with
      | some p => taskProbe p.1 p.2.length s2
      | none => .ok () s2
  | .loadRim k va => (taskRead va 64 s).bind fun b s1 => .ok () (setRim s1 k ⟨.ready, rimOfBytes b⟩)
  | .pageOp op va => pageOpAt op (Agent.ofCore s.active) va s
  | .waitWord va cond value timeout base park =>
    (taskRead va 8 s).bind fun b s1 => .ok () (testWord slot pc lane va cond value timeout base park (word (leNat b)) s1)
  | .counterAdd name amount => (counterAt pc name s).bind fun di s1 => .ok () (raiseCounter s1 di.1 di.2 amount.toNat)
  | .counterRead name d => (counterAt pc name s).bind fun di s1 => .ok () (setS s1 d (getCounter s1 di.1 di.2).value)
  | .counterWait name value timeout park =>
    (counterAt pc name s).bind fun di s1 =>
      .ok () (testCounter slot pc lane name value timeout park (getCounter s1 di.1 di.2).value s1)
  | .storeThenRaise va b _ => taskWrite va b s
  | .cpq desc src log =>
    if bits desc 62 2 ≠ 0 then .fault ⟨causeTranslation, 3, desc⟩ s else (cpqRun 8 desc src log s).2
  | .multicast g v nar x sq => .ok () (multicastAt slot pc lane g v nar x sq [] s)
  | .memberStore va b => agentWrite (Agent.ofCore s.active) va b s
  | .scLoad va nar d =>
    let v := windowAlias s va
    ((flushOwnLine v s).bind fun _ s1 => agentRead (Agent.ofCore s1.active) v (amoBytes nar) s1).bind fun b s1 => .ok () (setS s1 d (word (leNat b)))
  | .scStore va nar x =>
    let v := windowAlias s va
    (flushOwnLine v s).bind fun _ s1 => agentWrite (Agent.ofCore s1.active) v (leBytes (amoBytes nar) x.toNat) s1
  | .scAdd va nar x d =>
    (taskRmw va (amoBytes nar) (fun old => some (amoStore 0 nar x old)) s).bind fun old s1 =>
      .ok () (setS s1 d (word (leNat old)))
  | .writeBack va len => returnLines false true s.active (linesInRange s va len) s
  | .invalidate va len => releaseLines s.active (linesInRange s va len) s
  | .unmap n => unmapAt n s
  | .remap n w =>
    (unmapAt n s).bind fun _ s1 =>
      .ok () { s1 with core := { s1.core with smap := smSet 0 s1.core.smap n w,
                                              winLaunch := smSet 0 s1.core.winLaunch n s1.task.launchId } }
  | .readPacket va ch =>
    match ownPlace s va with
    | none => .fault ⟨causeTranslation, 2, va⟩ s
    | some p =>
      if channelFull s ch then .held s else (taskRead va 64 s).bind fun b s1 => .ok () (issueCopy (phaseOpen s1.task) va p.off ch b s1)
  | .readDescriptor va d =>
    match ownPlace s va with
    | none => .fault ⟨causeTranslation, 2, va⟩ s
    | some _ =>
      match freeEntry s (dieOf s.active) with
      | none => .fault ⟨causeTrigger, 0, va⟩ s
      | some _ => (taskRead va 64 s).bind fun b s1 => .ok () (postDescriptor d b s1)
  | .loadSlot _ phys fmt va d got => oloadAt phys fmt va d got s
  | .setAttribute va len code turning => (pattrRun s.active va len code turning s).2
  | .cancel h =>
    if BitVec.ofNat 8 (bits h 16 8) ≠ s.moduleId then .fault ⟨causeTranslation, 11, pc⟩ s else .ok () (cancelHandle s h)
  | .windowFill .. => .ok () s

/-- The access as it stands after an attempt: a `cpq` keeps the steps it has made (R286), a tile or slot load the pieces it has read, a
tile store only what other modules have still to write, and a `pattr` the pages that it has not moved (R149). -/
def Access.after (a : Access) (s : State) : Access :=
  match a with
  | .cpq desc src log => if bits desc 62 2 ≠ 0 then a else .cpq desc src (cpqRun 8 desc src log s).1
  | .loadTile t fmt rows slots ovp got =>
    .loadTile t fmt rows slots ovp (readRun ((tilePieces fmt rows).drop got.length) got s).1
  | .loadSlot n phys fmt va d got =>
    if (oloadAway fmt va d s).isSome then a else .loadSlot n phys fmt va d (readRun ((oloadPieces fmt va d).drop got.length) got s).1
  | .setAttribute va len code turning =>
    let r := (pattrRun s.active va len code turning s).1
    .setAttribute r.1 (len - (r.1 - va)) code r.2
  | .storeRows l =>
    match probePieces (l.filter fun p => !pieceAway s p.1) s with
    | .ok _ _ => .storeRows (l.filter fun p => pieceAway s p.1)
    | _ => a
  | a => a

/-- The address of the request that an access makes next: of a queue append its next step, of a tile its next piece. -/
def Access.requestVa (a : Access) : Word :=
  match a with
  | .cpq desc src log => (queueAsk (cpqStep desc src log)).1
  | .loadTile _ fmt rows _ _ got => (((tilePieces fmt rows).drop got.length).headD (0, 0)).1
  | .loadSlot _ _ fmt va d got => (((oloadPieces fmt va d).drop got.length).headD (0, 0)).1
  | a => a.va

/-- What TRAPVA takes: the request's address, or where there is none, as of a counter, the PC of the issuing bundle (R109). -/
def Access.trapVa (a : Access) (pc : Word) : Word := if a.isCounter then pc else a.requestVa

/-- A pool access that parks its task, or a page operation of the pool (R101). -/
def poolBlocks (s : State) (a : Access) : Bool :=
  a.blocks && (match a with
    | .pageOp .. | .waitWord .. | .cpq .. => false
    | a => a.spans.any fun x => bits x.1 62 2 == 1 && (ownSpot s x.1).isNone)

/-- The bytes that the steps of a queue append write, from one of its logs on to a later one. -/
def queueWrites (desc src : Word) (log log' : List (List Byte)) : List (Word × Nat) :=
  (List.range log'.length).flatMap fun i =>
    if i < log.length then []
    else match cpqStep desc src (log'.take i) with
      | .write va b => [(va, b.length)]
      | .claim va => [(va, 8)]
      | _ => []

/-- The bytes that a request of an access writes at its target. -/
def Access.written (a : Access) : List (Word × Nat) :=
  match a with
  | .store .. | .storeThenRaise .. | .memberStore .. | .amo .. | .cas .. | .cas128 .. | .scStore .. | .scAdd .. => a.spans
  | .storeRows _ => a.spans.take 1
  | .cpq desc src log => queueWrites desc src log (log ++ [[]])
  | _ => []

/-- The bytes that an attempt writes in this module, whether or not it ends the access. -/
def Access.writes (a : Access) (s : State) : List (Word × Nat) :=
  match a with
  | .cpq desc src log => queueWrites desc src log (cpqRun 8 desc src log s).1
  | .storeRows l =>
    match probePieces (l.filter fun p => !pieceAway s p.1) s with
    | .ok _ _ => (l.filter fun p => !pieceAway s p.1).map fun p => (p.1, p.2.length)
    | _ => []
  | _ => []

/-- An access has performed in this module: what it wrote is watched (R88). -/
def watched (a : Access) (s s1 : State) : State :=
  watchWrites (match a with
    | .cpq .. | .storeRows .. => a.writes s
    | a => a.written) s1

/-- An access is performed in this module, sent to another, held at its home, or found faulty. -/
def tryAccess (slot : Nat) (pc : Word) (a : Access) (lane : Lane) (block : Bool) (s : State) : State :=
  match performAccess slot pc lane a s with
  | .ok _ s1 => watched a s s1
  | .fault f s1 => detectAccess (watchWrites (a.writes s) s1) slot pc f lane (a.after s)
  | .remote m s1 => oweAccess slot pc (a.after s) lane m.toNat block (watchWrites (a.writes s) s1)
  | .held s1 => oweAccess slot pc (a.after s) lane s.moduleId.toNat block (watchWrites (a.writes s) s1)

/-- An access starts, once (R96): one that waits for the pool (R101), or behind an earlier one (R314, R323), is owed. -/
def attemptAccess (slot : Nat) (pc : Word) (a : Access) (lane : Lane) (block : Bool) (s : State) : State :=
  if poolBlocks s a || behindOwed s s.task.owed a.spans || a.queued s (s.nextOwed + 1) then
    oweAccess slot pc a lane s.moduleId.toNat block s
  else tryAccess slot pc a lane block s

/-- The address of an SC operation lies on the own module's device memory or in the local aperture (R337). -/
def scPlace (s : State) (va : Word) : Bool :=
  bits va 62 2 == 2 || (bits va 62 2 == 0 && BitVec.ofNat 8 (bits va 54 8) == s.moduleId)

/-- The wait at the slot wheel, and what is to perform there. -/
def WaitKind.scOps : WaitKind → Option (List Replay)
  | .slotWheel l => some l
  | _ => none

/-- An SC operation waits for its core's position; two of one bundle wait for the same one, in slot order (R336, R337). -/
def issueSc (slot : Nat) (pc : Word) (lane : Lane) (a : Access) (s : State) : State :=
  if !scPlace s a.va then detectAccess s slot pc ⟨causeTranslation, 6, a.va⟩ lane a
  else if s.task.waits.any (fun w => w.kind.scOps.isSome) then
    { s with task := { s.task with waits := s.task.waits.map fun w =>
        match w.kind.scOps with
        | some l => { w with kind := .slotWheel (l ++ [⟨slot, lane, s.nextOwed, a⟩]) }
        | none => w } }
  else startWait (.slotWheel [⟨slot, lane, s.nextOwed, a⟩]) none false slot pc s

/-- A store that raises is performed, and raises once it has (R392). -/
def storeThenRaise (slot : Nat) (pc : Word) (va : Word) (b : List Byte) (name : Word) (lane : Lane) (block : Bool) (s : State) : State :=
  let a : Access := .storeThenRaise va b name
  match performAccess slot pc lane a s with
  | .ok _ s1 => attemptAccess slot pc (.counterAdd name 1) lane block (watched a s s1)
  | .fault f s1 => detectAccess s1 slot pc f lane a
  | .remote m s1 => oweAccess slot pc a lane m.toNat block s1
  | .held s1 => oweAccess slot pc a lane s.moduleId.toNat block s1

/-- An interlocked access issues: an older result in flight for what it writes is superseded (R95). `lane`: its streams (R361);
`block`: its task waits for an answer of another module or the pool (R364). -/
def issueAccess (slot : Nat) (pc : Word) (a : Access) (lane : Lane) (block : Bool) (s : State) : State :=
  let s := supersedeDests a.dests s
  match a with
  | .storeThenRaise va b name =>
    if behindOwed s s.task.owed a.spans || a.queued s (s.nextOwed + 1) then
      oweAccess slot pc a lane s.moduleId.toNat block s
    else storeThenRaise slot pc va b name lane block s
  | .multicast g v nar x sq => multicastAt slot pc lane g v nar x sq s.task.owed s
  | .scLoad .. | .scStore .. | .scAdd .. => issueSc slot pc lane a s
  | a => attemptAccess slot pc a lane block s

/-! ## Answers -/

/-- The wait of `wait`, and that of `tcwait`. -/
def Wait.onWord (w : Wait) : Bool :=
  match w.kind with
  | .word .. => true
  | _ => false

def Wait.onCounter (w : Wait) : Bool :=
  match w.kind with
  | .counter .. => true
  | _ => false

/-- How an access goes on after the answer to one of its requests: with its next piece or step, or with the counter that it raises. -/
def Access.answered (a : Access) (b : List Byte) : Option Access :=
  match a with
  | .loadTile t fmt rows slots ovp got => some (.loadTile t fmt rows slots ovp (got ++ [b.take 64]))
  | .loadSlot n phys fmt va d got => some (.loadSlot n phys fmt va d (got ++ [b.take 16]))
  | .storeRows l => some (.storeRows l.tail)
  | .cpq desc src log => some (.cpq desc src (log ++ [b]))
  | .storeThenRaise _ _ name => some (.counterAdd name 1)
  | _ => none

/-- What the last answer of another module to an access writes (R364). -/
def answerAccess (slot : Nat) (pc : Word) (lane : Lane) (a : Access) (b : List Byte) (s : State) : State :=
  match a with
  | .load _ n signed d => setS s d (loadValue signed (b.take n))
  | .amo op nar _ _ d => setS s d (amoOld op nar (leNat (b.take (amoBytes nar))))
  | .cas nar _ _ _ d => setS s d (word (leNat (b.take (amoBytes nar))))
  | .cas128 _ _ _ _ _ d => setS (setS s d (word (leNat (b.take 8)))) (d + 1) (word (leNat ((b.drop 8).take 8)))
  | .stateWord va => { s with task := { s.task with stateWord := some (va, word (leNat (b.take 8))) } }
  | .loadRim k _ => setRim s k ⟨.ready, rimOfBytes b⟩
  | .counterRead _ d => setS s d (word (leNat (b.take 8)))
  | .waitWord va cond value timeout base park =>
    let w := word (leNat (b.take 8))
    if s.task.waits.any Wait.onWord then
      if waitMet cond (if cond = 4 then base.getD w else value) w then setP1 { s with task := s.task.endWaits Wait.onWord s.tick } true else s
    else testWord slot pc lane va cond value timeout base park w s
  | .counterWait name value timeout park =>
    let v := word (leNat (b.take 8))
    if s.task.waits.any Wait.onCounter then
      if value.toNat ≤ v.toNat then setP1 { s with task := s.task.endWaits Wait.onCounter s.tick } true else s
    else testCounter slot pc lane name value timeout park v s
  | .readPacket va ch => match ownPlace s va with
    | some p => issueCopy (phaseOpen s.task) va p.off ch (b.take 64) s
    | none => s
  | .readDescriptor _ d => postDescriptor d (b.take 64) s
  | _ => s

/-- A frame no longer waits for an answer that is not owed any more. -/
def endReplyWait (s : State) : State :=
  let done := fun (w : Wait) => match w.kind with
    | .reply id => !(s.task.owed.any fun o => o.id == id)
    | _ => false
  if s.task.waits.any done then { s with task := s.task.endWaits done s.tick } else s

/-! ## Stash fills (R231, R316, R366) -/

/-- A fill is over. -/
def endFill (s : State) (g : Nat) (f : Fill) : State :=
  updCore s g fun c => { c with fills := c.fills.filter fun x => !(x.line == f.line && x.upgrade == f.upgrade) }

/-- A fill has failed: kept for the instruction that touches the line; a prefetch's fault is dropped (R234). -/
def failFill (s : State) (g : Nat) (f : Fill) (cause : BitVec 8) (detail : BitVec 16) : State :=
  let fail := fun (x : Fill) => if x.demand = true then some { x with failed := some (cause, detail) } else none
  updCore s g fun c => { c with fills := c.fills.filterMap fun x =>
    if x.line = f.line ∧ x.upgrade = f.upgrade then fail x else some x }

/-- Another module has answered: with the line's 128 bytes and its attribute, with no bytes where its home
keeps the page, or with a fault. An upgrade takes the line from the module's other windows; where the line has been recalled since,
it brings it anew (R366). -/
def remoteFill (s : State) (g : Nat) (f : Fill) (va : Word) (r : Reply) : State :=
  match r with
  | .data [] => updCore (endFill s g f) g fun c => { c with pass := f.line :: c.pass }
  | .data b =>
    let s1 := endFill s g f
    if f.upgrade ∧ (smFind (getCore s1 g).lines f.line).isSome then
      let home := remoteHome va.toNat
      let s2 := (touchedCores s1).foldl (fun s h => updCore s h fun c =>
        { c with lines := c.lines.filter fun e => e.2.home != home || (h == g && e.1 == f.line) }) s1
      updCore s2 g fun c => { c with lines := c.lines.map fun e => if e.1 = f.line then (e.1, { e.2 with exclusive := true }) else e }
    else
      let line := (List.range 128).map fun i => b.getD i 0
      let s2 := { s1 with mem := memStore s1.mem (Place.scratch g (f.line * 128)).key line }
      putLine (updCore s2 g fun c => mendSectors c (f.line * 128) 128) g f.line
        ⟨0, f.upgrade, (b.getD 128 0).toNat % 3, remoteHome va.toNat⟩
  | .error c d => failFill s g f c d
  | .nack c => failFill s g f c 0

/-- Remove an owed operation of the running frame. -/
def dropOwed (s : State) (id : Nat) : State :=
  { s with task := { s.task with owed := s.task.owed.filter fun o => o.id ≠ id } }

/-- The requests of a stream that are still unperformed behind a refused one (R368, R369). -/
def refusedWith (t : Task) (id k target : Nat) : List Owed :=
  t.owed.filter fun o => decide (id < o.id) && (match o.kind with
    | .access _ j m => j == k && (o.held || m == target)
    | .reduction .. => false)

/-- The replay entries of a list of owed operations. -/
def owedReplays (l : List Owed) : List Replay := l.filterMap fun o =>
  match o.kind with
  | .access (.windowFill ..) _ _ => none
  | .access a _ _ => some ⟨o.slot, o.lane, o.id, a⟩
  | .reduction .. => none

/-- A request of the running frame that ends unperformed. -/
def giveUp (s : State) (o : Owed) : State :=
  let s1 := dropOwed s o.id
  match o.kind with
  | .access (.windowFill l _ up) _ _ => endFill s1 s1.active ⟨l, up, true, none, none⟩
  | _ => s1

/-- A multicast write is never repeated (R374); a fill is asked for again by the instruction that touches the line. -/
def Access.replayOf : Access → Option Access
  | .multicast .. => none
  | .memberStore .. => none
  | .windowFill .. => none
  | a => some a

/-- Note the fault that an answer brings, with the requests that ended unperformed behind it; that of a fill is kept for the
instruction that touches the line (R231), unless there are such requests. -/
def detectAnswer (s : State) (o : Owed) (f : FaultRec) (a : Access) (lost : List Owed) : State :=
  let later := owedReplays lost
  match a, a.replayOf with
  | .windowFill l _ up, _ =>
    let fill : Fill := ⟨l, up, true, none, none⟩
    if later.isEmpty then failFill s s.active fill f.cause f.detail
    else detectFault (endFill s s.active fill) o.slot o.pc f later
  | _, some a => detectFault s o.slot o.pc f (⟨o.slot, o.lane, o.id, a⟩ :: later)
  | _, none => detectFault s o.slot o.pc f later

/-- A stream of a frame stops: at the request that its target holds (R367), or until it is restarted (R369). -/
def stopStream (s : State) (g pos k id : Nat) : State := updStream s g pos k fun x => { x with frozen := some id }

/-- The answer to the request that a stream stands at lets it run again (R367). -/
def freeStream (s : State) (g pos k id : Nat) : State :=
  updStream s g pos k fun x => if x.frozen = some id then { x with frozen := none } else x

/-- An owed access goes on as `a`, in its place among the owed operations and with its wait: at a target, with its request leaving on its
stream where that is another module (R362, R367). -/
def placeOwed (o : Owed) (a : Access) (target : Nat) (s : State) : State :=
  let pos := s.core.run.getD 0
  let k := o.lane.stream target
  let own := target == s.moduleId.toNat
  let s0 := if own then s else pinStream s s.active pos k target (s.task.owed.any fun x => x.id != o.id && sentOn s x k)
  let hold := !own && mustHold s0 s.active pos (s0.task.owed.takeWhile fun x => x.id != o.id) a k
  let s1 := { s0 with task := { s0.task with
    owed := s0.task.owed.map fun x => if x.id = o.id then { x with held := hold, kind := .access a k target } else x
    waits := s0.task.waits.map fun w => if w.kind = .reply o.id then { w with park := a.mayPark own && o.park } else w } }
  if own || hold then s1 else sendOut s1 o.id target s.active pos k o.nack a

/-- The owed operations of the running frame are those of `t` again. -/
def keepOwed (t : Task) (s : State) : State := { s with task := { s.task with owed := t.owed } }

/-- An owed access carries on (R314, R323, R362): performed now, unless an earlier one must precede it, sent on in its place, or held;
one that has performed is owed no more. -/
def goOn (o : Owed) (a : Access) (s : State) : State :=
  if behindOwed s (s.task.owed.takeWhile fun x => x.id != o.id) (a.touches s) || a.queued s o.id then placeOwed o a s.moduleId.toNat s
  else
    let s1 := dropOwed s o.id
    match performAccess o.slot o.pc o.lane a s1 with
    | .ok _ s2 => watched a s1 s2
    | .fault f s2 => detectAccess (watchWrites (a.writes s1) s2) o.slot o.pc f o.lane (a.after s1)
    | .remote m s2 => placeOwed o (a.after s1) m.toNat (keepOwed s.task (watchWrites (a.writes s1) s2))
    | .held s2 => placeOwed o (a.after s1) s.moduleId.toNat (keepOwed s.task (watchWrites (a.writes s1) s2))

/-- So does one that raises a counter once its store has performed (R392). -/
def carryOn (o : Owed) (a : Access) (s : State) : State :=
  match a with
  | .storeThenRaise _ _ name =>
    match performAccess o.slot o.pc o.lane a (dropOwed s o.id) with
    | .ok _ s1 => goOn o (.counterAdd name 1) (keepOwed s.task (watched a s s1))
    | _ => goOn o a s
  | a => goOn o a s

/-- An error in an answer that ends a stream's hold: a fault that R367 holds, which only a REFUSE answers, or a dead module (R368). -/
def refusal (c : BitVec 8) (d : BitVec 16) : Bool :=
  c == causeDead || c == causeSparse || (c == causeTranslation && (d == 0 || decide (0x11 ≤ d.toNat)))
    || (c == causePermission && decide (d.toNat ≤ 2)) || (c == causeAttribute && d == 4)

/-- The wait of a `wait` or `tcwait` whose read has ended in a fault ends with it (R394). -/
def endFaulted (a : Access) (s : State) : State :=
  match a with
  | .waitWord .. => if s.task.waits.any Wait.onWord then { s with task := s.task.endWaits Wait.onWord s.tick } else s
  | .counterWait .. => if s.task.waits.any Wait.onCounter then { s with task := s.task.endWaits Wait.onCounter s.tick } else s
  | _ => s

/-- The fill of a line has only been asked for by a `pf` (R234). -/
def prefetching (s : State) (a : Access) : Bool :=
  match a with
  | .windowFill l _ up => !(s.core.fills.any fun f => f.line == l && f.upgrade == up && f.demand)
  | _ => false

/-- An owed access of the running frame is answered (R364, R367 to R369). A negative answer to a prefetch alone traps nothing, and stops
no stream. -/
def answerOwed (o : Owed) (a : Access) (k target : Nat) (r : Reply) (s : State) : State :=
  let pos := s.core.run.getD 0
  let frozen := s.streams.any fun x => x.core == s.active && x.frame == pos && x.stream == k && x.frozen == some o.id
  let s0 := freeStream s s.active pos k o.id
  match r with
  | .data b =>
    match a with
    | .windowFill l va up => remoteFill (dropOwed s0 o.id) s.active ⟨l, up, true, none, none⟩ va r
    | .readPacket _ ch =>
      if channelFull s0 ch then placeOwed o a s.moduleId.toNat s0
      else endReplyWait (answerAccess o.slot o.pc o.lane a b (dropOwed s0 o.id))
    | a =>
      let s1 := watchWrites a.written s0
      endReplyWait (match a.answered b with
        | some a' => goOn o a' s1
        | none => answerAccess o.slot o.pc o.lane a b (dropOwed s1 o.id))
  | .error c d =>
    let lost := if frozen && refusal c d then refusedWith s.task o.id k target else []
    let detail := match a with
      | .memberStore .. => BitVec.ofNat 16 target
      | _ => d
    let va := match a with
      | .multicast g v _ _ _ => if target ∈ s.dead then a.trapVa o.pc else memberVa s g.toNat d.toNat v
      | _ => a.trapVa o.pc
    endReplyWait (endFaulted a (detectAnswer (lost.foldl giveUp (dropOwed s0 o.id)) o ⟨c, detail, va⟩ a lost))
  | .nack c =>
    let lost := refusedWith s.task o.id k target
    let s1 := lost.foldl giveUp (dropOwed s o.id)
    let s2 := if prefetching s a && lost.isEmpty then s1 else stopStream s1 s.active pos k 0
    endReplyWait (endFaulted a (detectAnswer s2 o ⟨causeNack, BitVec.ofNat 16 (c.toNat + target * 256), a.trapVa o.pc⟩ a lost))

/-! ## First touch at issue (R231) -/

/-- The fills and upgrades that own-scratchpad pieces still need. -/
def fillsFor (s : State) (write : Bool) (l : List (Word × Nat)) : List Fill :=
  l.flatMap fun p =>
    match ownSpot s p.1 with
    | some (.window off) => (spotLines off p.2).filterMap fun i => fillNeeded s (.window (i * 128)) write
    | _ => []

/-- A line of the pieces is on its way out of its window (R228, R233): what touches it waits. -/
def leaving (s : State) (l : List (Word × Nat)) : Bool :=
  l.any fun p => match ownSpot s p.1 with
    | some (.window off) => (spotLines off p.2).any fun i =>
        s.core.sent.any fun x => x.line == i && x.failed.isNone && (x.release || (smFind s.core.lines i).isNone)
    | _ => false

/-- Freeze until the lines are there, or until a fill of one has failed; while one is on its way out; and until an earlier access of the
task to the same bytes of the own scratchpad that its home still holds has performed (R323). `base`: the access's base register. -/
def awaitFills (s : State) (base : Nat) (write : Bool) (l : List (Word × Nat)) : Pre :=
  if behindOwed s s.task.owed (l.filter fun p => (ownSpot s p.1).isSome) || leaving s l then .freeze .owed
  else
  match (fillsFor s write l).filter fun f => (fillFault s f).isNone with
  | [] => .ok
  | f => .freeze (.fills (laneOf s.task base) f)

/-- The fault of a fill that has failed (R231): TRAPVA holds the global or pool address. -/
def failedFill (s : State) (write : Bool) (l : List (Word × Nat)) : Option FaultRec :=
  (fillsFor s write l).findSome? fun f => (fillFault s f).map fun x => ⟨x.1, x.2, lineVa s.core f.line⟩

end Sys2Proof.Machine
end

