-- ==== Sys2Proof/Machine/Place.lean ====
section
/-! DEFINITION. Creating tasks and placing them in frames (R90, R91, R131, R134, R137, R138, R251, R258), and the bundle-table
image of a core (R48). -/

namespace Sys2Proof.Machine

/-! ## Resources of a core (R258) -/

/-- A range is free of the ranges in use. -/
def rangeFree (used : List (Nat × Nat)) (b n : Nat) : Bool := used.all fun u => decide (u.1 + u.2 ≤ b) || decide (b + n ≤ u.1)

/-- The lowest free base that is a multiple of `n` within `total`; R258 does not say which one (DESIGN CHOICE, log 74). -/
def freeBase (used : List (Nat × Nat)) (n total : Nat) : Option Nat :=
  ((List.range (total / n)).map (· * n)).find? fun b => rangeFree used b n

/-- The highest free scratchpad region of `n` bytes on a 64 KiB boundary (R251). -/
def freeRegion (used : List (Nat × Nat)) (n : Nat) : Option Nat :=
  if n = 0 then some 0
  else ((List.range 16).reverse.map (· * 65536)).find? fun b => decide (b + n ≤ 2 ^ 20) && rangeFree used b n

/-- Where a task stands on a core. -/
structure Spot where
  pos : Nat
  tbase : Nat
  kbase : Nat
  abase : Nat
  region : Nat
  deriving DecidableEq, Repr

/-- The tasks resident on a core. -/
def tasksOn (s : State) (g : Nat) : List Task := (residents s g).map Prod.snd

/-- The lowest free frame position; R258 does not say which one (DESIGN CHOICE, log 74). -/
def freePos (s : State) (g : Nat) : Option Nat := (List.range 4).find? fun p => (smFind (residents s g) p).isNone

/-- The core exists and its placement class admits the task. -/
def coreAdmits (s : State) (g : Nat) (t : Task) : Bool := present s g && (t.place != 1 || isGate g)

/-- Every resident frame came with the same bundle-table image. -/
def sameImage (s : State) (g : Nat) (t : Task) : Bool := (tasksOn s g).all fun x => x.btabVa == t.btabVa

/-- The ranges a task needs beside the resident ones; `keep`: a restored task keeps its region (R265). -/
def roomFor (s : State) (g : Nat) (t : Task) (keep : Bool) : Option (Nat × Nat × Nat × Nat) :=
  let l := tasksOn s g
  let regions := (l.filter fun x => x.spad ≠ 0).map fun x => (x.regionOff, x.spad)
  match freeBase (l.map fun x => (x.tbase, tileQuota x)) (tileQuota t) 32,
        freeBase (l.map fun x => (x.kbase, rimQuota x)) (rimQuota t) 64,
        freeBase (l.map fun x => (x.abase, accQuota x)) (accQuota t) 8,
        (if keep then (if t.spad = 0 || rangeFree regions t.regionOff t.spad then some t.regionOff else none)
         else freeRegion regions t.spad) with
  | some a, some b, some c, some d => some (a, b, c, d)
  | _, _, _, _ => none

/-- Enough free operand slots for a restored task's map. -/
def slotsFor (s : State) (g : Nat) (t : Task) : Bool :=
  decide (t.omap.length ≤ ((List.range 64).filter fun p => !(smGet OSlot.initial (getCore s g).oslots p).claimed).length)

/-- The task fits the core (R258). -/
def spotFor (s : State) (g : Nat) (t : Task) (keep : Bool) : Option Spot :=
  if !coreAdmits s g t || !sameImage s g t || !slotsFor s g t || !(getDie s (dieOf g)).online then none
  else
    match freePos s g, roomFor s g t keep with
    | some p, some (a, b, c, d) => some ⟨p, a, b, c, d⟩
    | _, _ => none

/-! ## The bundle-table image (R48) -/

/-- Begin to load a core's table for a launch's image; 0 marks every entry invalid at once. -/
def startImage (g : Nat) (va : Word) (s : State) : State :=
  updCore s g fun c => { c with btab := [], btabBad := [], btabVa := va,
                                image := if va = 0 then none else some ⟨va, 0, [], none, none, none⟩ }

/-- An image with one more entry. -/
def ImageLoad.take (i : ImageLoad) (b : List Byte) : ImageLoad :=
  let e := BitVec.ofNat 256 (leNat (b.take 32))
  { i with next := i.next + 1, got := if e = 0 then i.got else i.got ++ [(i.next, e)], awaiting := none, answer := none }

/-- Carry an image on as far as it goes now. An entry on another module is asked of it. -/
def runImage (g : Nat) : Nat → ImageLoad → State → ImageLoad × State
  | 0, i, s => (i, s)
  | n + 1, i, s =>
    if 512 ≤ i.next then ({ i with ended := some true }, s)
    else
      let va := i.va + word (32 * i.next)
      match i.answer, i.awaiting with
      | some (.data b), _ => runImage g n (i.take b) s
      | some _, _ => ({ i with ended := some false }, s)
      | none, some _ => (i, s)
      | none, none =>
        match agentRead (Agent.ofCore g) va 32 s with
        | .ok b s1 => runImage g n (i.take b) s1
        | .fault _ s1 => ({ i with ended := some false }, s1)
        | .remote m s1 =>
          let a := askRemote s1 m va (.read 32)
          ({ i with awaiting := some a.1 }, a.2)
        | .held s1 => (i, keepAsks s s1)

/-- Go on with a core's image: `ended` says how it has ended; read whole it is the core's table. -/
def advanceImage (g : Nat) (s : State) : State :=
  match (getCore s g).image with
  | none => s
  | some i =>
    if i.ended.isSome then s
    else
      let r := runImage g 514 i s
      updCore r.2 g fun c => { c with image := some r.1, btab := if r.1.ended = some true then r.1.got else c.btab }

/-- The core has done with an image that has ended; one that cannot be read leaves every entry invalid (R48). -/
def dropImage (g : Nat) (s : State) : State :=
  updCore s g fun c => { c with image := c.image.filter (·.ended.isNone) }

/-! ## Placing -/

/-- ssp of a region (R251). -/
def sspOf (off spad : Nat) : Word := if spad = 0 then 0 else word (0x80000000FC000000 + off + spad - 64)

/-- A task with the bases of its spot. -/
def Task.at (t : Task) (p : Spot) (tick : Nat) : Task :=
  { t with tbase := p.tbase, kbase := p.kbase, abase := p.abase, regionOff := p.region, placedAt := tick }

/-- A new task with its stack pointer. -/
def Task.withStack (t : Task) : Task := { t with sregs := smSet 0 t.sregs 62 (sspOf t.regionOff t.spad) }

/-- Put a task in a frame of a core. -/
def putFrame (s : State) (g : Nat) (p : Spot) (t : Task) : State :=
  updCore s g fun c => { c with frames := smPut c.frames p.pos (t.at p s.tick) }

/-- Place a new task. -/
def placeTask (s : State) (g : Nat) (p : Spot) (t : Task) : State := putFrame s g p ((t.at p s.tick).withStack)

/-- Place a new task at once: an empty core loads the launch's image, before it runs the task. -/
def placeNew (s : State) (g : Nat) (p : Spot) (t : Task) : State :=
  placeTask (if (tasksOn s g).isEmpty then dropImage g (advanceImage g (startImage g t.btabVa s)) else s) g p t

/-! ## Creating tasks -/

/-- A launch of a cluster by its id. -/
def launchOf (k : Cluster) (id : BitVec 32) : Option Launch := k.launches.find? fun l => l.id == id

/-- The TASKIDs of the live tasks of a launch. -/
def liveIds (s : State) (cl : Nat) (id : BitVec 32) : List Nat :=
  let k := getCluster s cl
  (((allFrames s).map fun e => e.2.2) ++ k.ready ++ k.saved.map (·.task)).filterMap fun t =>
    if t.launchId = id then some t.taskId.toNat else none

/-- The lowest ID counting upward from COUNT modulo 2^32 that is free (R131). -/
def freeId (s : State) (cl : Nat) (l : Launch) : BitVec 32 :=
  let used := liveIds s cl l.id
  let pending := fun (i : Nat) => decide (l.nextIndex ≤ i) && decide (i < l.nextIndex + l.toCreate)
  BitVec.ofNat 32 (((List.range (used.length + l.toCreate + 1)).find? fun k =>
    let i := (l.count + k) % 2 ^ 32
    !used.contains i && !pending i).map (l.count + ·) |>.getD l.count)

/-- The weight moves of `spawn` (R137): the child's weight, the parent's, and the reserve; none where the reserve is empty. -/
def spawnWeights (w r : Nat) (sc : Word) : Option (Nat × Nat × Nat) :=
  let c := min (max sc.toNat 1) 16
  let d := if w = 1 then min (2 ^ 16) r else 0
  if w = 1 ∧ d = 0 then none
  else
    let w1 := w + d
    let child := max 1 (w1 / 2 ^ c)
    some (child, w1 - child, r - d)

/-- A child of a task (R91, R137), without its id and weight. -/
def Task.child (t : Task) (tvec pc arg : Word) (tick : Nat) : Task :=
  { Task.fresh with
    pc := pc, quota := t.quota, place := t.place, prio := t.prio, effClass := t.prio, readySince := tick, spad := t.spad,
    btabVa := t.btabVa, tvec := tvec, launchId := t.launchId, initRegs := t.initRegs, sregs := smSet 0 t.initRegs 6 arg }

/-- The reserve of the task's launch. -/
def reserveOf (s : State) : Nat := ((launchOf (getCluster s (clusterOf s.active)) s.task.launchId).map (·.reserve)).getD 0

/-- Create a child at the read point `r` (R137): the weights move. -/
def makeChild (r : State) (pc arg sc : Word) (s : State) : Option (Task × State) :=
  let cl := clusterOf s.active
  match launchOf (getCluster s cl) s.task.launchId with
  | none => none
  | some l =>
    match spawnWeights s.task.weight l.reserve sc with
    | none => none
    | some (child, own, res) =>
      let t := { r.task.child l.tvec pc arg s.tick with weight := child, taskId := freeId s cl l }
      let s1 := updCluster s cl fun k => updLaunch k l.id fun l => { l with reserve := res }
      some (t, { s1 with task := { s1.task with weight := own } })

/-- Why `spawn.sib` cannot place its child on core number `n` (R138). -/
def siblingFault (s : State) (n : Nat) (t : Task) : Option (BitVec 16) :=
  let g := clusterOf s.active * 48 + n
  if 47 < n ∨ !coreAdmits s g t then some 1
  else if (freePos s g).isNone then some 2
  else if (roomFor s g t false).isNone then some 3
  else if !sameImage s g t then some 4
  else none

end Sys2Proof.Machine
end

