-- ==== Sys2Proof/Machine/Control.lean ====
section
/-! DEFINITION. The control slot S2: branches, calls and loops (R133 to R136), tasks (R137 to R141), hoops (R142 to R144), phases
(R145), traps and return (R146, R147), `tcwait` (R394), `tlbi` and `pattr` (R148, R149). -/

namespace Sys2Proof.Machine

/-- The target of a displacement in blocks with a sub-position (R50). -/
def branchTarget (pc : Word) (blocks : Int) (sub : Nat) : Word :=
  BitVec.ofInt 64 (((pc.toNat / 32 : Nat) + blocks) * 32 + sub)

/-- Go to a target once the bundle has issued. -/
def goTo (s : State) (p : Word) : State := { s with task := { s.task with flow := .branch p } }

/-- The target of DISP22. -/
def dispTarget (r : State) (disp : BitVec 22) : Word :=
  branchTarget r.task.pc (disp.extractLsb' 4 18).toInt (disp.extractLsb' 0 4).toNat

/-- A privileged syllable (R63). -/
def onlyS (supervisor : Bool) : Option (BitVec 8) := if supervisor then none else some causePrivilege

/-- A release at a scope waits for every earlier access of the task: those of the own module (R288), those of another one, which its own
acknowledges (R332), since what happens after the release, in a child or another member of a hoop as well, may read there what the task
has stored (R327, R328). -/
def releaseDone (r : State) (scope : Nat) : Pre :=
  let early := fun (o : Owed) => match o.kind with
    | .access .. => true
    | .reduction .. => false
  if scope ≠ 0 ∧ r.task.owed.any early = true then .freeze .owed else .ok

/-- Not inside a phase. -/
def noPhase (r : State) : Pre := .need (!phaseOpen r.task) causePhase 0

/-- The frame's interlocked operations have completed. -/
def settled (r : State) : Pre := if r.task.owed.isEmpty then .ok else .freeze .owed

/-- A multiple of 64 KiB. -/
def onPage (w : Word) : Bool := w.toNat % 2 ^ 16 == 0

/-- `b` (R133). -/
def opB (g : BitVec 4) (disp : BitVec 22) : SlotOp :=
  .simple g [] [] noCheck fun _ r s => goTo s (dispTarget r disp)

/-- The meaning of `b`: its issue alone in a bundle. -/
def execB (g : BitVec 4) (disp : BitVec 22) (st : State) : Result :=
  issueLone 2 (opB g disp) st

/-- `call` (R133): the link goes into s63. -/
def opCall (g : BitVec 4) (disp : BitVec 22) : SlotOp :=
  .simple g [] [.sreg 63] noCheck fun c r s => goTo (setS s (63 : BitVec 6) c.link) (dispTarget r disp)

/-- The meaning of `call`: its issue alone in a bundle. -/
def execCall (g : BitVec 4) (disp : BitVec 22) (st : State) : Result :=
  issueLone 2 (opCall g disp) st

/-- `jr` (R133). -/
def opJr (g : BitVec 4) (a : BitVec 6) : SlotOp :=
  .simple g [.sreg a.toNat] [] noCheck fun _ r s => goTo s (getS r a)

/-- The meaning of `jr`: its issue alone in a bundle. -/
def execJr (g : BitVec 4) (a : BitVec 6) (st : State) : Result :=
  issueLone 2 (opJr g a) st

/-- `callr` (R133): the target is read before the link is written. -/
def opCallr (g : BitVec 4) (a : BitVec 6) : SlotOp :=
  .simple g [.sreg a.toNat] [.sreg 63] noCheck fun c r s =>
    goTo (setS s (63 : BitVec 6) c.link) (getS r a)

/-- The meaning of `callr`: its issue alone in a bundle. -/
def execCallr (g : BitVec 4) (a : BitVec 6) (st : State) : Result :=
  issueLone 2 (opCallr g a) st

/-- `ret` (R133). -/
def opRet (g : BitVec 4) : SlotOp :=
  .simple g [.sreg 63] [] noCheck fun _ r s => goTo s (getS r (63 : BitVec 6))

/-- The meaning of `ret`: its issue alone in a bundle. -/
def execRet (g : BitVec 4) (st : State) : Result :=
  issueLone 2 (opRet g) st

/-- `loop` (R135). -/
def opLoop (g : BitVec 4) (a : BitVec 6) (o : BitVec 12) (s : BitVec 4) : SlotOp :=
  .simple g [.sreg a.toNat] [.sreg a.toNat] noCheck fun _ r st =>
    let n := getS r a - 1
    let s1 := setS st a n
    if n = 0 then s1 else goTo s1 (branchTarget r.task.pc o.toInt s.toNat)

/-- The meaning of `loop`: its issue alone in a bundle. -/
def execLoop (g : BitVec 4) (a : BitVec 6) (o : BitVec 12) (s : BitVec 4) (st : State) : Result :=
  issueLone 2 (opLoop g a o s) st


/-- The shift of p8 to p15 by `loop.st` (R136). -/
def shiftStages (p : BitVec 16) (inbit : Bool) : BitVec 16 :=
  (p &&& 0xFF) ||| ((p &&& 0x7F00) <<< 1) ||| (if inbit then 0x100 else 0)

/-- `loop.st` (R136). -/
def opLoopSt (g : BitVec 4) (a : BitVec 6) (o : BitVec 12) (s : BitVec 4) : SlotOp :=
  .simple g [.sreg a.toNat, .sreg (a.toNat + 1), .pred 8, .pred 9, .pred 10, .pred 11, .pred 12, .pred 13, .pred 14] ([.sreg a.toNat, .sreg (a.toNat + 1)] ++ (List.range 8).map fun q => .pred (8 + q)) noCheck fun _ r st =>
    let n := getS r a
    let m := getS r (a + 1)
    let first := decide (0 < n.toInt)
    let second := !first && decide (0 < m.toInt)
    let s1 := if first then setS st a (n - 1) else if second then setS st (a + 1) (m - 1) else st
    let s2 := { s1 with task := { s1.task with
      preds := (s1.task.preds &&& 0xFF) ||| (shiftStages r.task.preds first &&& 0xFF00) } }
    if first || second then goTo s2 (branchTarget r.task.pc o.toInt s.toNat) else s2

/-- The meaning of `loopSt`: its issue alone in a bundle. -/
def execLoopSt (g : BitVec 4) (a : BitVec 6) (o : BitVec 12) (s : BitVec 4) (st : State) : Result :=
  issueLone 2 (opLoopSt g a o s) st


/-- `spawn` finds the reserve empty (R137). -/
def weightLeft (r : State) (sc : Word) : Pre :=
  .need (spawnWeights r.task.weight (reserveOf r) sc).isSome causeWeight 0

/-- `spawn` (R137): the child enters the scheduler ready; a release at cluster scope. -/
def opSpawn (g : BitVec 4) (a b c : BitVec 6) : SlotOp :=
  .simple g [.sreg a.toNat, .sreg b.toNat, .sreg c.toNat] []
    (fun _ r => (weightLeft r (getS r c)).and fun _ => (noPhase r).and fun _ => releaseDone r 1)
    fun _ r s =>
      match makeChild r (getS r a) (getS r b) (getS r c) s with
      | some (t, s1) => updCluster s1 (clusterOf s1.active) fun k => { k with ready := k.ready ++ [t] }
      | none => s

/-- The meaning of `spawn`: its issue alone in a bundle. -/
def execSpawn (g : BitVec 4) (a b c : BitVec 6) (st : State) : Result :=
  issueLone 2 (opSpawn g a b c) st


/-- The child that `spawn.sib` would place, as far as its fit depends on it. -/
def siblingOf (r : State) : Task := r.task.child 0 0 0 r.tick

/-- `spawn.sib` (R138): the child stands at once in a free frame of core s[C]. -/
def opSpawnSib (g : BitVec 4) (a b c : BitVec 6) : SlotOp :=
  .simple g [.sreg a.toNat, .sreg b.toNat, .sreg c.toNat] []
    (fun _ r =>
      (match siblingFault r (getS r c).toNat (siblingOf r) with
        | some d => Pre.fail causeSpawnBusy d
        | none => .ok).and fun _ => (weightLeft r 1).and fun _ => (noPhase r).and fun _ => releaseDone r 1)
    fun _ r s =>
      match makeChild r (getS r a) (getS r b) 1 s with
      | none => s
      | some (t, s1) =>
        let n := clusterOf s.active * 48 + (getS r c).toNat
        match spotFor s1 n t false with
        | none => s1
        | some p => placeNew s1 n p t

/-- The meaning of `spawnSib`: its issue alone in a bundle. -/
def execSpawnSib (g : BitVec 4) (a b c : BitVec 6) (st : State) : Result :=
  issueLone 2 (opSpawnSib g a b c) st


/-- `exit` (R139): after the frame's interlocked operations. -/
def opExit (g : BitVec 4) : SlotOp :=
  .simple g [] [] (fun _ r => settled r) fun _ _ s => { s with task := { s.task with flow := .exit } }

/-- The meaning of `exit`: its issue alone in a bundle. -/
def execExit (g : BitVec 4) (st : State) : Result :=
  issueLone 2 (opExit g) st

/-- `yield` (R140): it has an effect only in an effective safe point. -/
def opYield (g : BitVec 4) : SlotOp :=
  .simple g [] [] noCheck fun _ _ s => { s with task := { s.task with flow := .yield } }

/-- The meaning of `yield`: its issue alone in a bundle. -/
def execYield (g : BitVec 4) (st : State) : Result :=
  issueLone 2 (opYield g) st

/-- `wait` (R141). -/
def opWait (g : BitVec 4) (a b c : BitVec 6) (n : BitVec 4) : SlotOp :=
  .simple g [.sreg a.toNat, .sreg b.toNat, .sreg c.toNat] [.pred 1]
    (fun _ r => (Pre.need ((getS r a).toNat % 8 == 0) causeAlignment 0 |>.at (getS r a)).and fun _ => awaitFills r a.toNat false [(getS r a, 8)])
    fun x r s =>
      let acc : Access := .waitWord (getS r a) n.toNat (getS r b) (getS r c) none true
      match failedFill r false [(getS r a, 8)] with
      | some f => detectAccess s x.slot r.task.pc f (laneOf r.task a.toNat) acc
      | none => issueAccess x.slot r.task.pc acc (laneOf r.task a.toNat) true s

/-- The meaning of `wait`: its issue alone in a bundle. -/
def execWait (g : BitVec 4) (a b c : BitVec 6) (n : BitVec 4) (st : State) : Result :=
  issueLone 2 (opWait g a b c n) st


/-! ## Hoops -/

/-- A hoop of the task's cluster by number; one above 63 counts as unallocated (R142). -/
def hoopAt (s : State) (n : Word) : Hoop :=
  if 63 < n.toNat then Hoop.initial else smGet Hoop.initial (getCluster s (clusterOf s.active)).hoops n.toNat

/-- HOOP_BROKEN with DETAIL 1 for a broken hoop and 2 for an unallocated one (R144). -/
def hoopUsable (h : Hoop) : Pre :=
  if h.broken then .fail causeHoop 1 else if !h.allocated then .fail causeHoop 2 else .ok

/-- Change a hoop of the task's cluster. -/
def changeHoop (s : State) (n : Nat) (f : Hoop → Hoop) : State := updCluster s (clusterOf s.active) fun k => updHoop k n f

/-- The lowest unallocated hoop of a cluster. -/
def freeHoopOf (s : State) (cl : Nat) : Option Nat :=
  (List.range 64).find? fun h => !(smGet Hoop.initial (getCluster s cl).hoops h).allocated

/-- A task joins: where some member has arrived in the phase, it counts from the next (R143). -/
def Hoop.join (h : Hoop) (m : BitVec 32 × BitVec 32) : Hoop :=
  if h.members.contains m then h
  else { h with members := h.members ++ [m], late := if h.arrived.isEmpty then h.late else h.late ++ [m] }

/-- `halloc` (R142). -/
def opHalloc (g : BitVec 4) (d : BitVec 6) : SlotOp :=
  .simple g [] [.sreg d.toNat] (fun _ r => noPhase r) fun _ r s =>
    match freeHoopOf s (clusterOf s.active) with
    | none => setS s d (BitVec.ofInt 64 (-1))
    | some h => setS (changeHoop s h fun _ => { Hoop.initial with allocated := true, owner := r.task.launchId }) d (word h)

/-- The meaning of `halloc`: its issue alone in a bundle. -/
def execHalloc (g : BitVec 4) (d : BitVec 6) (st : State) : Result :=
  issueLone 2 (opHalloc g d) st

/-- `hfree` (R142, R144). -/
def opHfree (g : BitVec 4) (a : BitVec 6) : SlotOp :=
  .simple g [.sreg a.toNat] [] (fun _ r => noPhase r) fun _ r s =>
    if (hoopAt s (getS r a)).allocated then freeHoop s (clusterOf s.active) (getS r a).toNat else s

/-- The meaning of `hfree`: its issue alone in a bundle. -/
def execHfree (g : BitVec 4) (a : BitVec 6) (st : State) : Result :=
  issueLone 2 (opHfree g a) st

/-- `hjoin` (R142, R143). -/
def opHjoin (g : BitVec 4) (a : BitVec 6) : SlotOp :=
  .simple g [.sreg a.toNat] [] (fun _ r => (noPhase r).and fun _ => hoopUsable (hoopAt r (getS r a))) fun _ r s =>
    let h := (getS r a).toNat
    let s1 := changeHoop s h fun x => x.join s.task.ident
    { s1 with task := { s1.task with hoops := if s1.task.hoops.contains h then s1.task.hoops else s1.task.hoops ++ [h] } }

/-- The meaning of `hjoin`: its issue alone in a bundle. -/
def execHjoin (g : BitVec 4) (a : BitVec 6) (st : State) : Result :=
  issueLone 2 (opHjoin g a) st

/-- `hleave` (R142, R143). -/
def opHleave (g : BitVec 4) (a : BitVec 6) : SlotOp :=
  .simple g [.sreg a.toNat] [] (fun _ r => (noPhase r).and fun _ => hoopUsable (hoopAt r (getS r a))) fun _ r s =>
    let h := (getS r a).toNat
    let s1 := changeHoop s h fun x => x.leave s.task.ident
    { s1 with task := { s1.task with hoops := s1.task.hoops.filter (· ≠ h) } }

/-- The meaning of `hleave`: its issue alone in a bundle. -/
def execHleave (g : BitVec 4) (a : BitVec 6) (st : State) : Result :=
  issueLone 2 (opHleave g a) st

/-- `hbar` (R142 to R144): it arrives, as a release at cluster scope, and waits until the phase completes. -/
def opHbar (g : BitVec 4) (a : BitVec 6) : SlotOp :=
  .simple g [.sreg a.toNat] []
    (fun _ r => (noPhase r).and fun _ => (hoopUsable (hoopAt r (getS r a))).and fun _ =>
      (Pre.need ((hoopAt r (getS r a)).members.contains r.task.ident) causeHoop 3).and fun _ => releaseDone r 1)
    fun x r s =>
      let h := (getS r a).toNat
      let k := hoopAt s (getS r a)
      let phase := if k.late.contains s.task.ident then k.phase + 1 else k.phase
      let s1 := changeHoop s h fun y => { y with arrived := y.arrived ++ [s.task.ident] }
      startWait (.hoop h phase) none true x.slot r.task.pc s1

/-- The meaning of `hbar`: its issue alone in a bundle. -/
def execHbar (g : BitVec 4) (a : BitVec 6) (st : State) : Result :=
  issueLone 2 (opHbar g a) st

/-- `hsize` (R142). -/
def opHsize (g : BitVec 4) (d a : BitVec 6) : SlotOp :=
  .simple g [.sreg a.toNat] [.sreg d.toNat] noCheck fun _ r s =>
    let h := hoopAt s (getS r a)
    setS s d (if h.allocated then word h.members.length else BitVec.ofInt 64 (-1))

/-- The meaning of `hsize`: its issue alone in a bundle. -/
def execHsize (g : BitVec 4) (d a : BitVec 6) (st : State) : Result :=
  issueLone 2 (opHsize g d a) st


/-! ## Phases (R145) -/

/-- Hand held copies to their channels in issue order, as long as the channels accept them (R240, R277). -/
def handCopies : List HeldCopy → State → State
  | [], s => { s with task := { s.task with heldCopies := [] } }
  | h :: rest, s =>
    let l := channelOf s s.active h.channel
    if l.length < 8 then handCopies rest (setChannel s s.active h.channel (l ++ [CopyJob.ofPacket h.packet (some s.active) false]))
    else { s with task := { s.task with heldCopies := h :: rest } }

/-- Close the phase: OPEN and CANCELS become 0. -/
def closePhase (s : State) : State :=
  { s with task := { s.task with phasectl := s.task.phasectl &&& ~~~ (0xE000000 : Word), checkpoint := none } }

/-- SEL[i] is inverted for every declared input (R240). -/
def swapHalves (w : Word) : Word := w ^^^ word (bits w 32 4 * 2 ^ 40)

/-- `phase.begin` (R145): the checkpoint is taken once every slot has written. -/
def opPhaseBegin (g : BitVec 4) : SlotOp :=
  .simple g [] [] (fun _ r => .need (!phaseOpen r.task) causePhase 0) fun _ _ s =>
    { s with task := { s.task with phasectl := s.task.phasectl ||| 0x2000000, checkpoint := none, heldCopies := [] } }

/-- The meaning of `phaseBegin`: its issue alone in a bundle. -/
def execPhaseBegin (g : BitVec 4) (st : State) : Result :=
  issueLone 2 (opPhaseBegin g) st

/-- `phase.commit` (R145, R240): the release of its held copies applies here (R285). -/
def opPhaseCommit (g : BitVec 4) : SlotOp :=
  { SlotOp.simple g [] [] (fun _ r => (Pre.need (phaseOpen r.task) causePhase 0).and fun _ =>
      if r.task.heldCopies.isEmpty then .ok else settled r) fun _ _ s =>
      let s1 := closePhase { s with task := { s.task with phasectl := swapHalves s.task.phasectl } }
      handCopies s1.task.heldCopies s1 with
    claim := some (.phaseEnds true) }

/-- The meaning of `phaseCommit`: its issue alone in a bundle. -/
def execPhaseCommit (g : BitVec 4) (st : State) : Result :=
  issueLone 2 (opPhaseCommit g) st

/-- `phase.abort` (R145). -/
def opPhaseAbort (g : BitVec 4) : SlotOp :=
  { SlotOp.simple g [] [] (fun _ r => .need (phaseOpen r.task) causePhase 0) fun _ _ s =>
      let s1 := closePhase s
      { s1 with task := { s1.task with heldCopies := [] } } with
    claim := some (.phaseEnds false) }

/-- The meaning of `phaseAbort`: its issue alone in a bundle. -/
def execPhaseAbort (g : BitVec 4) (st : State) : Result :=
  issueLone 2 (opPhaseAbort g) st


/-! ## Traps and return -/

/-- `sys` (R146). -/
def opSys (g : BitVec 4) (c : BitVec 16) : SlotOp :=
  .simple g [] [] (fun _ _ => .trap causeSyscall c 0 true) fun _ _ s => s

/-- The meaning of `sys`: its issue alone in a bundle. -/
def execSys (g : BitVec 4) (c : BitVec 16) (st : State) : Result :=
  issueLone 2 (opSys g c) st

/-- `trap` (R146). -/
def opTrap (g : BitVec 4) (c : BitVec 16) : SlotOp :=
  .simple g [] [] (fun _ _ => .trap causeSoftTrap c 0 true) fun _ _ s => s

/-- The meaning of `trap`: its issue alone in a bundle. -/
def execTrap (g : BitVec 4) (c : BitVec 16) (st : State) : Result :=
  issueLone 2 (opTrap g c) st

/-- `brk` (R146). -/
def opBrk (g : BitVec 4) (c : BitVec 16) : SlotOp :=
  .simple g [] [] (fun _ _ => .trap causeBreak c 0 true) fun _ _ s => s

/-- The meaning of `brk`: its issue alone in a bundle. -/
def execBrk (g : BitVec 4) (c : BitVec 16) (st : State) : Result :=
  issueLone 2 (opBrk g c) st

/-- `eret` (R147): after the handler's interlocked operations. A parity error of the snapshot that it reads is a completion trap (R113). -/
def opEret (g : BitVec 4) : SlotOp :=
  { SlotOp.simple g [] [] (fun _ r => settled r) (fun x r s =>
      if r.task.snapBad && snapCount r.task != 0 then detect s ⟨causeParity, 0, x.slot, r.task.pc, []⟩
      else { s with task := { s.task with flow := .eret } }) with
    decode := onlyS }

/-- The meaning of `eret`: its issue alone in a bundle. -/
def execEret (g : BitVec 4) (st : State) : Result :=
  issueLone 2 (opEret g) st


/-! ## Counters, translations, attributes -/

/-- `tcwait` (R394). -/
def opTcwait (g : BitVec 4) (a b c : BitVec 6) : SlotOp :=
  .simple g [.sreg a.toNat, .sreg b.toNat, .sreg c.toNat] [.pred 1] noCheck fun x r s =>
    issueAccess x.slot r.task.pc (.counterWait (getS r a) (getS r b) (getS r c) true) (laneOf r.task a.toNat) true s

/-- The meaning of `tcwait`: its issue alone in a bundle. -/
def execTcwait (g : BitVec 4) (a b c : BitVec 6) (st : State) : Result :=
  issueLone 2 (opTcwait g a b c) st


/-- `tlbi.page` (R148). -/
def opTlbiPage (g : BitVec 4) (a : BitVec 6) : SlotOp :=
  { SlotOp.simple g [.sreg a.toNat] [] (fun _ r => (Pre.need (onPage (getS r a)) causeAlignment 0 |>.at (getS r a)).and fun _ => settled r)
      fun _ r s => tlbiRangeAt (getS r a) (2 ^ 16) s with
    decode := onlyS }

/-- The meaning of `tlbiPage`: its issue alone in a bundle. -/
def execTlbiPage (g : BitVec 4) (a : BitVec 6) (st : State) : Result :=
  issueLone 2 (opTlbiPage g a) st

/-- `tlbi.range` (R148). -/
def opTlbiRange (g : BitVec 4) (a b : BitVec 6) : SlotOp :=
  { SlotOp.simple g [.sreg a.toNat, .sreg b.toNat] []
      (fun _ r => (Pre.need (onPage (getS r a) && onPage (getS r b)) causeAlignment 0 |>.at (getS r a)).and fun _ => settled r)
      fun _ r s => tlbiRangeAt (getS r a) (getS r b).toNat s with
    decode := onlyS }

/-- The meaning of `tlbiRange`: its issue alone in a bundle. -/
def execTlbiRange (g : BitVec 4) (a b : BitVec 6) (st : State) : Result :=
  issueLone 2 (opTlbiRange g a b) st

/-- `tlbi.all` (R148, R303, R398). -/
def opTlbiAll (g : BitVec 4) : SlotOp :=
  { SlotOp.simple g [] [] (fun _ r => settled r) fun _ _ s => tlbiAllAt s with
    decode := onlyS }

/-- The meaning of `tlbiAll`: its issue alone in a bundle. -/
def execTlbiAll (g : BitVec 4) (st : State) : Result :=
  issueLone 2 (opTlbiAll g) st

/-- The walks of a check come first: table lines that another module holds are called back (R304). -/
def leavesHere (r : State) (va len : Word) : Pre :=
  match (leavesOf (Agent.ofCore r.active) va len.toNat r).flatMap fun x => x.2.2 with
  | [] => .ok
  | l => .freeze (.recall l)

/-- `pattr` (R149, R317). -/
def opPattr (g : BitVec 4) (a b c : BitVec 6) : SlotOp :=
  { SlotOp.simple g [.sreg a.toNat, .sreg b.toNat, .sreg c.toNat] []
      (fun _ r => (Pre.need (onPage (getS r a) && onPage (getS r b)) causeAlignment 0 |>.at (getS r a)).and fun _ =>
        (if 3 ≤ (getS r c).toNat then .ok else (leavesHere r (getS r a) (getS r b)).and fun _ =>
          Pre.need (!splitsLeaf (Agent.ofCore r.active) (getS r a) (getS r b).toNat r) causeAlignment 3 |>.at (getS r a)).and fun _ =>
          settled r)
      fun x r s => issueAccess x.slot r.task.pc (.setAttribute (getS r a) (getS r b) (getS r c) false) (laneOf r.task a.toNat) true s with
    decode := onlyS, memory := fun _ => true }

/-- The meaning of `pattr`: its issue alone in a bundle. -/
def execPattr (g : BitVec 4) (a b c : BitVec 6) (st : State) : Result :=
  issueLone 2 (opPattr g a b c) st


end Sys2Proof.Machine
end

