-- ==== Sys2Proof/Machine/Mem.lean ====
section
/-! DEFINITION. The copy slots S6 and S7: loads and stores (R219, R220, R289), tiles and rims in memory (R221 to R224), operand
loads (R225), atomics (R290 to R293), SC operations (R336, R337), copies (R285, R286), drains and fences (R287, R288), stash
windows (R227, R228, R233, R234), page operations (R311, R312), counters and posted operations (R389 to R396) and multicast
(R374). -/

namespace Sys2Proof.Machine

/-! ## Addresses and checks -/

/-- An address operand with a scaled displacement (R220). -/
def scaled (r : State) (a : BitVec 6) (imm : BitVec 10) (size : Nat) : Word := getS r a + BitVec.ofInt 64 (imm.toInt * size)

/-- ALIGNMENT with TRAPVA holding the address (R220). -/
def aligned (va : Word) (n : Nat) : Pre := (Pre.need (va.toNat % n == 0) causeAlignment 0).at va

/-- PHASE_ILLEGAL for a store inside a phase to the pool or another module (R219). -/
def phaseStore (r : State) (va : Word) : Pre :=
  .need (!phaseOpen r.task || !(bits va 62 2 == 1 || (bits va 62 2 == 0 && BitVec.ofNat 8 (bits va 54 8) != r.moduleId)))
    causePhase 0

/-- The same for several addresses. -/
def phaseStores (r : State) (l : List Word) : Pre := l.foldl (fun p v => p.and fun _ => phaseStore r v) Pre.ok

/-- What an acquire fence waits for: every earlier read. -/
def readsDone (r : State) : Pre :=
  let early := fun (o : Owed) => match o.kind with
    | .access a _ _ => a.blocks
    | .reduction .. => false
  if r.task.owed.any early = true then .freeze .owed else .ok

/-- What a full fence waits for besides: every earlier write, wherever it goes (R329). -/
def writesDone (r : State) : Pre :=
  let early := fun (o : Owed) => match o.kind with
    | .access a _ _ => a.isWrite
    | .reduction .. => false
  if r.task.owed.any early = true then .freeze .owed else .ok

/-- A syllable that accesses memory. -/
def memOp (g : BitVec 4) (reads dests : List Dest) (check : Ctx → State → Pre) (eff : Ctx → State → State → State) : SlotOp :=
  { SlotOp.simple g reads dests check eff with memory := fun _ => true }

/-- A syllable with the access that it makes at its read point (R97). -/
def SlotOp.making (x : SlotOp) (acc : State → Access) : SlotOp := { x with access := fun r => some (acc r) }

/-- One that is interlocked only where some piece lies outside the own scratchpad (R218). -/
def ownOp (g : BitVec 4) (reads dests : List Dest) (pieces : State → List (Word × Nat)) (check : Ctx → State → Pre)
    (eff : Ctx → State → State → State) : SlotOp :=
  { SlotOp.simple g reads dests check eff with memory := fun r => !allOwn r (pieces r) }

/-- The fault of a fill of the pieces is taken with the access as replay entry, which has issued (R95); else go on. -/
def unlessFillFails (x : Ctx) (r : State) (write : Bool) (pieces : List (Word × Nat)) (base : Nat) (a : Access) (go : State → State)
    (s : State) : State :=
  match failedFill r write pieces with
  | some f => detectAccess (supersedeDests a.dests s) x.slot r.task.pc f (laneOf r.task base) a
  | none => go s

/-- The first piece in the own scratchpad whose sectors hold an uncorrectable error (R235). -/
def badPiece (r : State) (pieces : List (Word × Nat)) : Option (Word × Nat × Nat) :=
  pieces.findSome? fun p => (ownSpot r p.1).bind fun o => if sectorBad r.core o.off p.2 then some (p.1, o.off, p.2) else none

/-- The bytes of an own-scratchpad piece at the read point (R97). -/
def ownBytes (r : State) (p : Word × Nat) : List Byte :=
  match ownSpot r p.1 with
  | some o => memBytes r.mem (Place.scratch r.active o.off).key p.2
  | none => []

/-- Read own-scratchpad pieces at the read point and go on with them, or consume the error of one (R235); `replay`: an interlocked
reader's base register and replay entry, which supersedes what is in flight for its destinations (R95). -/
def withOwn (x : Ctx) (r : State) (pieces : List (Word × Nat)) (replay : Option (Nat × Access)) (go : List (List Byte) → State → State)
    (s : State) : State :=
  let s := match replay with
    | some p => supersedeDests p.2.dests s
    | none => s
  match badPiece r pieces with
  | some (va, off, n) =>
    consumeError (consumeBad s s.active off n) x.slot r.task.pc va (replay.toList.map fun p => ⟨x.slot, laneOf r.task p.1, s.nextOwed, p.2⟩)
  | none => go (pieces.map (ownBytes r)) s

/-! ## Scalar loads and stores -/

/-- A load (R220): exposed with latency 3 from the own scratchpad, else interlocked (R94, R218). -/
def loadOp (g : BitVec 4) (d a : BitVec 6) (imm : BitVec 10) (size : Nat) (signed : Bool) : SlotOp :=
  SlotOp.making (acc := fun r => .load (scaled r a imm size) size signed d)
  <| ownOp g [.sreg a.toNat] [.sreg d.toNat] (fun r => [(scaled r a imm size, size)])
    (fun _ r => (aligned (scaled r a imm size) size).and fun _ => awaitFills r a.toNat false [(scaled r a imm size, size)])
    fun x r s =>
      let va := scaled r a imm size
      let acc : Access := .load va size signed d
      unlessFillFails x r false [(va, size)] a.toNat acc (fun s =>
        if allOwn r [(va, size)] then
          withOwn x r [(va, size)] none (fun b s => expose x r 3 false false 0 [.scalar d (loadValue signed (b.headD []))] s) s
        else issueAccess x.slot r.task.pc acc (laneOf r.task a.toNat) true s) s

/-- The bytes that a store writes at the read point: performed at t + 1 in the own scratchpad, else interlocked (R218). -/
def storeBytes (x : Ctx) (r : State) (base : BitVec 6) (va : Word) (b : List Byte) (s : State) : State :=
  let acc : Access := .store va b
  unlessFillFails x r true [(va, b.length)] base.toNat acc (fun s =>
    if allOwn r [(va, b.length)] then expose x r 1 false false 0 [.store va b] s
    else issueAccess x.slot r.task.pc acc (laneOf r.task base.toNat) false s) s

/-- A store (R219, R220). -/
def storeOp (g : BitVec 4) (sr a : BitVec 6) (imm : BitVec 10) (size : Nat) : SlotOp :=
  SlotOp.making (acc := fun r => .store (scaled r a imm size) (leBytes size (getS r sr).toNat))
  <| ownOp g [.sreg sr.toNat, .sreg a.toNat] [] (fun r => [(scaled r a imm size, size)])
    (fun _ r => (aligned (scaled r a imm size) size).and fun _ => (phaseStore r (scaled r a imm size)).and fun _ =>
      awaitFills r a.toNat true [(scaled r a imm size, size)])
    fun x r st => storeBytes x r a (scaled r a imm size) (leBytes size (getS r sr).toNat) st

/-- `ld.i8` (R220). -/
def opLdI8 (g : BitVec 4) (d a : BitVec 6) (imm : BitVec 10) : SlotOp :=
  loadOp g d a imm 1 true

/-- The meaning of `ldI8`: its issue alone in a bundle. -/
def execLdI8 (g : BitVec 4) (d a : BitVec 6) (imm : BitVec 10) (st : State) : Result :=
  issueLone 6 (opLdI8 g d a imm) st

/-- `ld.n8` (R220). -/
def opLdN8 (g : BitVec 4) (d a : BitVec 6) (imm : BitVec 10) : SlotOp :=
  loadOp g d a imm 1 false

/-- The meaning of `ldN8`: its issue alone in a bundle. -/
def execLdN8 (g : BitVec 4) (d a : BitVec 6) (imm : BitVec 10) (st : State) : Result :=
  issueLone 6 (opLdN8 g d a imm) st

/-- `ld.i16` (R220). -/
def opLdI16 (g : BitVec 4) (d a : BitVec 6) (imm : BitVec 10) : SlotOp :=
  loadOp g d a imm 2 true

/-- The meaning of `ldI16`: its issue alone in a bundle. -/
def execLdI16 (g : BitVec 4) (d a : BitVec 6) (imm : BitVec 10) (st : State) : Result :=
  issueLone 6 (opLdI16 g d a imm) st

/-- `ld.n16` (R220). -/
def opLdN16 (g : BitVec 4) (d a : BitVec 6) (imm : BitVec 10) : SlotOp :=
  loadOp g d a imm 2 false

/-- The meaning of `ldN16`: its issue alone in a bundle. -/
def execLdN16 (g : BitVec 4) (d a : BitVec 6) (imm : BitVec 10) (st : State) : Result :=
  issueLone 6 (opLdN16 g d a imm) st

/-- `ld.i32` (R220). -/
def opLdI32 (g : BitVec 4) (d a : BitVec 6) (imm : BitVec 10) : SlotOp :=
  loadOp g d a imm 4 true

/-- The meaning of `ldI32`: its issue alone in a bundle. -/
def execLdI32 (g : BitVec 4) (d a : BitVec 6) (imm : BitVec 10) (st : State) : Result :=
  issueLone 6 (opLdI32 g d a imm) st

/-- `ld.n32` (R220). -/
def opLdN32 (g : BitVec 4) (d a : BitVec 6) (imm : BitVec 10) : SlotOp :=
  loadOp g d a imm 4 false

/-- The meaning of `ldN32`: its issue alone in a bundle. -/
def execLdN32 (g : BitVec 4) (d a : BitVec 6) (imm : BitVec 10) (st : State) : Result :=
  issueLone 6 (opLdN32 g d a imm) st

/-- `ld.64` (R220). -/
def opLd64 (g : BitVec 4) (d a : BitVec 6) (imm : BitVec 10) : SlotOp :=
  loadOp g d a imm 8 false

/-- The meaning of `ld64`: its issue alone in a bundle. -/
def execLd64 (g : BitVec 4) (d a : BitVec 6) (imm : BitVec 10) (st : State) : Result :=
  issueLone 6 (opLd64 g d a imm) st

/-- `st.8` (R220). -/
def opSt8 (g : BitVec 4) (s a : BitVec 6) (imm : BitVec 10) : SlotOp :=
  storeOp g s a imm 1

/-- The meaning of `st8`: its issue alone in a bundle. -/
def execSt8 (g : BitVec 4) (s a : BitVec 6) (imm : BitVec 10) (st : State) : Result :=
  issueLone 6 (opSt8 g s a imm) st

/-- `st.16` (R220). -/
def opSt16 (g : BitVec 4) (s a : BitVec 6) (imm : BitVec 10) : SlotOp :=
  storeOp g s a imm 2

/-- The meaning of `st16`: its issue alone in a bundle. -/
def execSt16 (g : BitVec 4) (s a : BitVec 6) (imm : BitVec 10) (st : State) : Result :=
  issueLone 6 (opSt16 g s a imm) st

/-- `st.32` (R220). -/
def opSt32 (g : BitVec 4) (s a : BitVec 6) (imm : BitVec 10) : SlotOp :=
  storeOp g s a imm 4

/-- The meaning of `st32`: its issue alone in a bundle. -/
def execSt32 (g : BitVec 4) (s a : BitVec 6) (imm : BitVec 10) (st : State) : Result :=
  issueLone 6 (opSt32 g s a imm) st

/-- `st.64` (R220). -/
def opSt64 (g : BitVec 4) (s a : BitVec 6) (imm : BitVec 10) : SlotOp :=
  storeOp g s a imm 8

/-- The meaning of `st64`: its issue alone in a bundle. -/
def execSt64 (g : BitVec 4) (s a : BitVec 6) (imm : BitVec 10) (st : State) : Result :=
  issueLone 6 (opSt64 g s a imm) st

/-- `st.128` (R220): the lower register at the lower address. -/
def opSt128 (g : BitVec 4) (s a : BitVec 6) (imm : BitVec 10) : SlotOp :=
  SlotOp.making (acc := fun r => .store (scaled r a imm 16) (leBytes 8 (getS r s).toNat ++ leBytes 8 (getS r (s + 1)).toNat))
  <| ownOp g [.sreg s.toNat, .sreg (s.toNat + 1), .sreg a.toNat] [] (fun r => [(scaled r a imm 16, 16)])
    (fun _ r => (aligned (scaled r a imm 16) 16).and fun _ => (phaseStore r (scaled r a imm 16)).and fun _ =>
      awaitFills r a.toNat true [(scaled r a imm 16, 16)])
    fun x r st => storeBytes x r a (scaled r a imm 16) (leBytes 8 (getS r s).toNat ++ leBytes 8 (getS r (s + 1)).toNat) st

/-- The meaning of `st128`: its issue alone in a bundle. -/
def execSt128 (g : BitVec 4) (s a : BitVec 6) (imm : BitVec 10) (st : State) : Result :=
  issueLone 6 (opSt128 g s a imm) st


/-- An acquire load (R289): interlocked wherever it lies. -/
def acquireOp (g : BitVec 4) (d a : BitVec 6) (size : Nat) : SlotOp :=
  SlotOp.making (acc := fun r => .load (getS r a) size false d)
  <| memOp g [.sreg a.toNat] [.sreg d.toNat]
    (fun _ r => (aligned (getS r a) size).and fun _ => awaitFills r a.toNat false [(getS r a, size)])
    fun x r s =>
      let va := getS r a
      let acc : Access := .load va size false d
      unlessFillFails x r false [(va, size)] a.toNat acc (fun s =>
        if allOwn r [(va, size)] then
          withOwn x r [(va, size)] (some (a.toNat, acc)) (fun b s => setS s d (loadValue false (b.headD []))) s
        else issueAccess x.slot r.task.pc acc (laneOf r.task a.toNat) true s) s

/-- A release store (R289): it waits for what its scope covers. -/
def releaseOp (g : BitVec 4) (d a : BitVec 6) (size scope : Nat) : SlotOp :=
  SlotOp.making (acc := fun r => .store (getS r a) (leBytes size (getS r d).toNat))
  <| memOp g [.sreg d.toNat, .sreg a.toNat] []
    (fun _ r => (aligned (getS r a) size).and fun _ => (phaseStore r (getS r a)).and fun _ => (releaseDone r scope).and fun _ =>
      awaitFills r a.toNat true [(getS r a, size)])
    fun x r s =>
      let acc : Access := .store (getS r a) (leBytes size (getS r d).toNat)
      unlessFillFails x r true [(getS r a, size)] a.toNat acc
        (issueAccess x.slot r.task.pc acc (laneOf r.task a.toNat) false) s

/-- `ld.acq.32` (R289). -/
def opLdAcq32 (g : BitVec 4) (d a : BitVec 6) (s : BitVec 3) : SlotOp :=
  acquireOp g d a 4

/-- The meaning of `ldAcq32`: its issue alone in a bundle. -/
def execLdAcq32 (g : BitVec 4) (d a : BitVec 6) (s : BitVec 3) (st : State) : Result :=
  issueLone 6 (opLdAcq32 g d a s) st

/-- `ld.acq.64` (R289). -/
def opLdAcq64 (g : BitVec 4) (d a : BitVec 6) (s : BitVec 3) : SlotOp :=
  acquireOp g d a 8

/-- The meaning of `ldAcq64`: its issue alone in a bundle. -/
def execLdAcq64 (g : BitVec 4) (d a : BitVec 6) (s : BitVec 3) (st : State) : Result :=
  issueLone 6 (opLdAcq64 g d a s) st

/-- `st.rel.32` (R289). -/
def opStRel32 (g : BitVec 4) (d a : BitVec 6) (s : BitVec 3) : SlotOp :=
  releaseOp g d a 4 s.toNat

/-- The meaning of `stRel32`: its issue alone in a bundle. -/
def execStRel32 (g : BitVec 4) (d a : BitVec 6) (s : BitVec 3) (st : State) : Result :=
  issueLone 6 (opStRel32 g d a s) st

/-- `st.rel.64` (R289). -/
def opStRel64 (g : BitVec 4) (d a : BitVec 6) (s : BitVec 3) : SlotOp :=
  releaseOp g d a 8 s.toNat

/-- The meaning of `stRel64`: its issue alone in a bundle. -/
def execStRel64 (g : BitVec 4) (d a : BitVec 6) (s : BitVec 3) (st : State) : Result :=
  issueLone 6 (opStRel64 g d a s) st


/-! ## SC operations (R336, R337) -/

/-- An SC operation: once its bundle has issued, the core freezes until its position of the slot wheel, after every earlier access of
the task. -/
def scOp (g : BitVec 4) (reads dests : List Dest) (a : BitVec 6) (w : BitVec 1) (phase : Bool) (acc : State → Access) : SlotOp :=
  memOp g (.sreg a.toNat :: reads) dests
    (fun _ r => (aligned (getS r a) (amoBytes (w == 1))).and fun _ => if phase then noPhase r else .ok)
    fun x r s => issueAccess x.slot r.task.pc (acc r) (laneOf r.task a.toNat) false s

/-- `ld.sc` (R337). -/
def opLdSc (g : BitVec 4) (d a : BitVec 6) (w : BitVec 1) : SlotOp :=
  scOp g [] [.sreg d.toNat] a w false fun r => .scLoad (getS r a) (w == 1) d

/-- The meaning of `ldSc`: its issue alone in a bundle. -/
def execLdSc (g : BitVec 4) (d a : BitVec 6) (w : BitVec 1) (st : State) : Result :=
  issueLone 6 (opLdSc g d a w) st

/-- `st.sc` (R337). -/
def opStSc (g : BitVec 4) (d a : BitVec 6) (w : BitVec 1) : SlotOp :=
  scOp g [.sreg d.toNat] [] a w false fun r => .scStore (getS r a) (w == 1) (getS r d)

/-- The meaning of `stSc`: its issue alone in a bundle. -/
def execStSc (g : BitVec 4) (d a : BitVec 6) (w : BitVec 1) (st : State) : Result :=
  issueLone 6 (opStSc g d a w) st

/-- `amo.sc` (R337): an atomic add. -/
def opAmoSc (g : BitVec 4) (d a b : BitVec 6) (w : BitVec 1) : SlotOp :=
  scOp g [.sreg b.toNat] [.sreg d.toNat] a w true fun r => .scAdd (getS r a) (w == 1) (getS r b) d

/-- The meaning of `amoSc`: its issue alone in a bundle. -/
def execAmoSc (g : BitVec 4) (d a b : BitVec 6) (w : BitVec 1) (st : State) : Result :=
  issueLone 6 (opAmoSc g d a b w) st


/-! ## Tiles and rims in memory -/

/-- The addresses of 16 rows (R221). -/
def rowVas (base stride : Word) : List Word := (List.range 16).map fun i => base + word i * stride

/-- The length of a row of a format. -/
def rowBytes (fmt : Nat) : Nat := if fmt = 4 then 128 else 64

/-- The 64-byte pieces of the rows. -/
def rowsPieces (fmt : Nat) (rows : List Word) : List (Word × Nat) := rows.flatMap fun v => rowPieces v (rowBytes fmt)

/-- ALIGNMENT of the first row that is not a multiple of 64. -/
def rowsAligned (rows : List Word) : Pre :=
  match rows.find? fun v => v.toNat % 64 != 0 with
  | some v => aligned v 64
  | none => .ok

/-- `tld` (R221): exposed with latency 6 when every row is an own-scratchpad access. An f64 tile whose pair leaves the quota traps QUOTA
before FORMAT_MISMATCH, also at an odd number (DESIGN CHOICE, log 74). -/
def opTld (g : BitVec 4) (d : BitVec 5) (a b : BitVec 6) (f : BitVec 4) : SlotOp :=
  SlotOp.making (acc := fun r => .loadTile d.toNat f (rowVas (getS r a) (getS r b)) Slots.identity false [])
  <| ownOp g [.sreg a.toNat, .sreg b.toNat] ((tileDests d.toNat f.toNat).map .tile)
      (fun r => rowsPieces f.toNat (rowVas (getS r a) (getS r b)))
      (fun _ r =>
        let rows := rowVas (getS r a) (getS r b)
        (needTiles r (tileDests d.toNat f.toNat)).and fun _ => (needEvenTile f.toNat d.toNat).and fun _ => (rowsAligned rows).and fun _ =>
          awaitFills r a.toNat false (rowsPieces f.toNat rows))
      fun x r s =>
        let rows := rowVas (getS r a) (getS r b)
        let pieces := rowsPieces f.toNat rows
        let acc : Access := .loadTile d.toNat f rows Slots.identity false []
        unlessFillFails x r false pieces a.toNat acc (fun s =>
          if allOwn r pieces then
            withOwn x r pieces none (fun l s =>
              expose x r 6 false false 0 (landTiles (tilesOfRows d.toNat f Slots.identity false (rowsOf f l))) s) s
          else issueAccess x.slot r.task.pc acc (laneOf r.task a.toNat) true s) s

/-- The meaning of `tld`: its issue alone in a bundle. -/
def execTld (g : BitVec 4) (d : BitVec 5) (a b : BitVec 6) (f : BitVec 4) (st : State) : Result :=
  issueLone 6 (opTld g d a b f) st


/-- The fields of a state word (R156). -/
def stateTag (w : Word) : Nat := bits w 0 4
def stateSlots (w : Word) : Slots :=
  ⟨BitVec.ofNat 7 (bits w 4 7), BitVec.ofNat 7 (bits w 11 7), BitVec.ofNat 7 (bits w 18 7), BitVec.ofNat 7 (bits w 25 7)⟩
def slotList (x : Slots) : List Nat := [x.rsh.toNat, x.rsc.toNat, x.csh.toNat, x.csc.toNat]

/-- The checks of a state word that is loaded (R154, R223). -/
def stateWordCheck (r : State) (n : Nat) (w : Word) : Pre :=
  let codes := slotList (stateSlots w)
  let t := stateTag w
  (Pre.need (decide (t < 0xD) && codes.all (fun c => c < 0x40 || c == 0x7F) && (isFloatTag t || codes.all (· == 0x7F)))
    causeInstruction 0).and fun _ =>
  (Pre.need (codes.all (fun c => c == 0x7F || decide (c < rimQuota r.task)) && (tileDests n t).all fun m => m < tileQuota r.task)
    causeQuota 0).and fun _ => needEvenTile t n

/-- The state word that the freeze of `tld.raw` has read. -/
def stateWordAt (r : State) (va : Word) : Option Word :=
  match r.task.stateWord with
  | some (v, w) => if v = va then some w else none
  | none => none

/-- `tld.raw` (R223): the state word is read first, then the rows, interlocked. Where it says f64, and once it has been read, its odd tile
is a destination that R415's check counts (DESIGN CHOICE, log 74: the rule speaks of the tags that the bundle's tiles hold). -/
def opTldRaw (g : BitVec 4) (d : BitVec 5) (a b : BitVec 6) : SlotOp :=
  { SlotOp.making (acc := fun r => .loadTile d.toNat 0 (rowVas (getS r a) (getS r b)) Slots.identity false [])
    <| memOp g [.sreg a.toNat, .sreg b.toNat] [.tile d.toNat]
      (fun x r =>
        let rows := rowVas (getS r a) (getS r b)
        let va := getS r a + 16 * getS r b
        (needTiles r [d.toNat]).and fun _ => (rowsAligned rows).and fun _ => (awaitFills r a.toNat false [(va, 8)]).and fun _ =>
          match stateWordAt r va with
          | none => if (failedFill r false [(va, 8)]).isSome then .ok else .freeze (.access x.slot (laneOf r.task a.toNat) (.stateWord va))
          | some w => (stateWordCheck r d.toNat w).and fun _ => awaitFills r a.toNat false (rowsPieces (stateTag w) rows))
      fun x r s =>
        let rows := rowVas (getS r a) (getS r b)
        let va := getS r a + 16 * getS r b
        match stateWordAt r va with
        | none => unlessFillFails x r false [(va, 8)] a.toNat (.stateWord va) id s
        | some w =>
          let f := BitVec.ofNat 4 (stateTag w)
          let pieces := rowsPieces f.toNat rows
          let acc : Access := .loadTile d.toNat f rows (stateSlots w) (bits w 32 1 == 1) []
          unlessFillFails x r false pieces a.toNat acc (fun s =>
            if allOwn r pieces then
              withOwn x r pieces (some (a.toNat, acc)) (writeTiles d.toNat f (stateSlots w) (bits w 32 1 == 1)) s
            else issueAccess x.slot r.task.pc acc (laneOf r.task a.toNat) true s) s with
    tagDests := fun r => match stateWordAt r (getS r a + 16 * getS r b) with
      | some w => if stateTag w = 4 then oddDest d.toNat else []
      | none => [] }

/-- The meaning of `tldRaw`: its issue alone in a bundle. -/
def execTldRaw (g : BitVec 4) (d : BitVec 5) (a b : BitVec 6) (st : State) : Result :=
  issueLone 6 (opTldRaw g d a b) st


/-- The rows of an operand as bytes: 64 bytes of containers, or 128 of an f64 pair (R221). -/
def opndRows (o : Opnd) : List (List Byte) :=
  (List.range 16).map fun i => (List.range 16).flatMap fun j => leBytes (if o.tag = 4 then 8 else 4) (o.at i j)

/-- The raw rows of a tile. -/
def rawRows (r : State) (n : Nat) : List (List Byte) :=
  let lo := containers (getTile r n)
  if tagOf r n = 4 then
    let hi := containers (getTile r (n + 1))
    (List.range 16).map fun i => (List.range 16).flatMap fun j =>
      leBytes 4 (lo.getD (16 * i + j) 0) ++ leBytes 4 (hi.getD (16 * i + j) 0)
  else (List.range 16).map fun i => (List.range 16).flatMap fun j => leBytes 4 (lo.getD (16 * i + j) 0)

/-- The tiles that a store of tile `n` reads. -/
def storedTiles (r : State) (n : Nat) : List Nat := tileDests n (tagOf r n)

/-- Store rows: those of the own scratchpad perform at t + 1, the others are interlocked (R222). Where one of these, or a line's fill, is
found to fault at once, no byte is stored: the resolve has been checked and its flags have risen by then (R170). -/
def storeRows (x : Ctx) (r : State) (base : BitVec 6) (forced ovpHit : Bool) (flags : Flags) (rows : List (Word × List Byte))
    (s : State) : State :=
  let pieces := rows.flatMap fun p => rowStores p.1 p.2
  let own := pieces.filter fun p => (ownSpot r p.1).isSome
  let far := pieces.filter fun p => (ownSpot r p.1).isNone
  match failedFill r true (pieces.map fun p => (p.1, p.2.length)) with
  | some fault =>
    complete x.slot r.task.pc forced ovpHit flags
      (fun s => detectAccess s x.slot r.task.pc fault (laneOf r.task base.toNat) (.storeRows pieces)) s
  | none =>
    if far.isEmpty then expose x r 1 forced ovpHit flags (own.map fun p => .store p.1 p.2) s
    else complete x.slot r.task.pc forced ovpHit flags (fun s =>
      match probePieces far s with
      | .fault f s1 => detectAccess s1 x.slot r.task.pc f (laneOf r.task base.toNat) (.storeRows pieces)
      | _ => issueAccess x.slot r.task.pc (.storeRows far) (laneOf r.task base.toNat) false
          (if own.isEmpty then s else expose x r 1 false false 0 (own.map fun p => .store p.1 p.2) s)) s

/-- The rows of `tst` and `tst.raw` at their addresses. -/
def storedSpans (r : State) (n : Nat) (a b : BitVec 6) : List (Word × Nat) :=
  rowsPieces (tagOf r n) (rowVas (getS r a) (getS r b))

/-- `tst` (R222): the resolved tile is stored. -/
def opTst (g : BitVec 4) (d : BitVec 5) (a b : BitVec 6) : SlotOp :=
  SlotOp.making (acc := fun r => .storeRows ((rowVas (getS r a) (getS r b)).map fun v => (v, [])))
  <| ownOp g [.tile d.toNat, .sreg a.toNat, .sreg b.toNat] [] (fun r => storedSpans r d.toNat a b)
    (fun _ r =>
      (needTiles r (storedTiles r d.toNat)).and fun _ => (needEvenTile (tagOf r d.toNat) d.toNat).and fun _ =>
        (rowsAligned (rowVas (getS r a) (getS r b))).and fun _ => (phaseStores r (rowVas (getS r a) (getS r b))).and fun _ =>
          (waitRims r false (rimsOf [(readOpnd r d.toNat, 4)])).and fun _ => awaitFills r a.toNat true (storedSpans r d.toNat a b))
    fun x r s =>
      let q := resolveAll r [(readOpnd r d.toNat, 4)]
      storeRows x r a false q.ovpHit q.flags ((rowVas (getS r a) (getS r b)).zip (opndRows (q.opnds.headD ⟨0, Slots.identity, false, #[]⟩))) s

/-- The meaning of `tst`: its issue alone in a bundle. -/
def execTst (g : BitVec 4) (d : BitVec 5) (a b : BitVec 6) (st : State) : Result :=
  issueLone 6 (opTst g d a b) st

/-- `tst.raw` (R223): the raw tile, then its state word with BUSY 0. -/
def opTstRaw (g : BitVec 4) (d : BitVec 5) (a b : BitVec 6) : SlotOp :=
  SlotOp.making (acc := fun r => .storeRows ((rowVas (getS r a) (getS r b)).map fun v => (v, [])))
  <| ownOp g [.tile d.toNat, .sreg a.toNat, .sreg b.toNat] []
    (fun r => storedSpans r d.toNat a b ++ [(getS r a + 16 * getS r b, 8)])
    (fun _ r =>
      (needTiles r (storedTiles r d.toNat)).and fun _ => (needEvenTile (tagOf r d.toNat) d.toNat).and fun _ =>
        (rowsAligned (rowVas (getS r a) (getS r b))).and fun _ =>
        (phaseStores r (rowVas (getS r a) (getS r b) ++ [getS r a + 16 * getS r b])).and fun _ =>
          awaitFills r a.toNat true (storedSpans r d.toNat a b ++ [(getS r a + 16 * getS r b, 8)]))
    fun x r s =>
      storeRows x r a false false 0 ((rowVas (getS r a) (getS r b)).zip (rawRows r d.toNat)
        ++ [(getS r a + 16 * getS r b, leBytes 8 (stateWordOf (getTile r d.toNat) false).toNat)]) s

/-- The meaning of `tstRaw`: its issue alone in a bundle. -/
def execTstRaw (g : BitVec 4) (d : BitVec 5) (a b : BitVec 6) (st : State) : Result :=
  issueLone 6 (opTstRaw g d a b) st


/-- `kld` (R224): exposed with latency 4 from the own scratchpad. -/
def opKld (g : BitVec 4) (k a : BitVec 6) (imm : BitVec 10) : SlotOp :=
  SlotOp.making (acc := fun r => .loadRim k.toNat (scaled r a imm 64))
  <| ownOp g [.sreg a.toNat] [.rim k.toNat] (fun r => [(scaled r a imm 64, 64)])
    (fun _ r => (needRims r [k.toNat]).and fun _ => (aligned (scaled r a imm 64) 64).and fun _ => (waitWrite r [k.toNat]).and fun _ =>
      awaitFills r a.toNat false [(scaled r a imm 64, 64)])
    fun x r s =>
      let va := scaled r a imm 64
      let acc : Access := .loadRim k.toNat va
      unlessFillFails x r false [(va, 64)] a.toNat acc (fun s =>
        if allOwn r [(va, 64)] then
          withOwn x r [(va, 64)] none (fun l s => expose x r 4 false false 0 [.rim k.toNat (rimOfBytes (l.headD []))] s) s
        else issueAccess x.slot r.task.pc acc (laneOf r.task a.toNat) true s) s

/-- The meaning of `kld`: its issue alone in a bundle. -/
def execKld (g : BitVec 4) (k a : BitVec 6) (imm : BitVec 10) (st : State) : Result :=
  issueLone 6 (opKld g k a imm) st

/-- `kst` (R224): it waits until the rim is READY. -/
def opKst (g : BitVec 4) (k a : BitVec 6) (imm : BitVec 10) : SlotOp :=
  SlotOp.making (acc := fun r => .store (scaled r a imm 64) (rimBytes (getRim r k.toNat).vals))
  <| ownOp g [.rim k.toNat, .sreg a.toNat] [] (fun r => [(scaled r a imm 64, 64)])
    (fun _ r => (needRims r [k.toNat]).and fun _ => (aligned (scaled r a imm 64) 64).and fun _ => (phaseStore r (scaled r a imm 64)).and fun _ =>
      (waitRims r false [k.toNat]).and fun _ => awaitFills r a.toNat true [(scaled r a imm 64, 64)])
    fun x r s => storeBytes x r a (scaled r a imm 64) (rimBytes (getRim r k.toNat).vals) s

/-- The meaning of `kst`: its issue alone in a bundle. -/
def execKst (g : BitVec 4) (k a : BitVec 6) (imm : BitVec 10) (st : State) : Result :=
  issueLone 6 (opKst g k a imm) st


/-! ## Operand loads (R225) -/

/-- The codes of an `oload` descriptor. -/
def loadCodes (f : Nat) (d : Word) : List Nat := slotList (oloadCodes (BitVec.ofNat 4 f) d)

/-- `oload` (R225). -/
def opOload (g : BitVec 4) (d a b : BitVec 6) (f : BitVec 4) : SlotOp :=
  SlotOp.making (acc := fun r => .loadSlot (getS r d).toNat ((mapped r (getS r d).toNat).getD 0) f (getS r a) (getS r b) [])
  <| memOp g [.sreg d.toNat, .sreg a.toNat, .sreg b.toNat] []
    (fun _ r =>
      let w := getS r b
      let codes := loadCodes f.toNat w
      (Pre.need ((mapped r (getS r d).toNat).isSome && codes.all fun c => decide (0x40 ≤ c) || decide (c < rimQuota r.task))
        causeQuota 0).and fun _ =>
      (Pre.need (codes.all fun c => decide (c < 0x40) || c == 0x7F) causeInstruction 0).and fun _ =>
      (Pre.need (!(bits w 32 1 == 1 && isQbTag f.toNat)) causeFormat 0).and fun _ =>
      (Pre.need ((getS r a).toNat % 16 == 0 && bits w 0 32 % 16 == 0) causeAlignment 0 |>.at (getS r a)).and fun _ =>
      (waitSlots r [(getS r d).toNat]).and fun _ =>
        awaitFills r a.toNat false (oloadPieces f (getS r a) w))
    fun x r s =>
      let phys := (mapped r (getS r d).toNat).getD 0
      let pieces := oloadPieces f (getS r a) (getS r b)
      let acc : Access := .loadSlot (getS r d).toNat phys f (getS r a) (getS r b) []
      unlessFillFails x r false pieces a.toNat acc (fun s =>
        if allOwn r pieces then withOwn x r pieces (some (a.toNat, acc)) (fillSlot phys f (getS r b)) s
        else issueAccess x.slot r.task.pc acc (laneOf r.task a.toNat) false s) s

/-- The meaning of `oload`: its issue alone in a bundle. -/
def execOload (g : BitVec 4) (d a b : BitVec 6) (f : BitVec 4) (st : State) : Result :=
  issueLone 6 (opOload g d a b f) st


/-! ## Atomics (R290 to R293) -/

/-- An atomic by operation number, with its width and scope. -/
def atomicOp (g : BitVec 4) (reads dests : List Dest) (a : BitVec 6) (n scope : Nat) (acc : State → Access) : SlotOp :=
  SlotOp.making (acc := acc)
  <| memOp g (.sreg a.toNat :: reads) dests
    (fun _ r => (aligned (getS r a) n).and fun _ => (noPhase r).and fun _ => releaseDone r scope)
    fun x r s => issueAccess x.slot r.task.pc (acc r) (laneOf r.task a.toNat) true s

/-- `amo` (R290). -/
def amoOp (op : Nat) (g : BitVec 4) (d a b : BitVec 6) (narrow : Bool) (scope : BitVec 3) : SlotOp :=
  atomicOp g [.sreg b.toNat] [.sreg d.toNat] a (amoBytes narrow) scope.toNat fun r => .amo op narrow (getS r a) (getS r b) d

/-- `amo.add` (R290). -/
def opAmoAdd (g : BitVec 4) (d a b : BitVec 6) (w : BitVec 1) (s : BitVec 3) : SlotOp :=
  amoOp 0 g d a b (w == 1) s

/-- The meaning of `amoAdd`: its issue alone in a bundle. -/
def execAmoAdd (g : BitVec 4) (d a b : BitVec 6) (w : BitVec 1) (s : BitVec 3) (st : State) : Result :=
  issueLone 6 (opAmoAdd g d a b w s) st

/-- `amo.and` (R290). -/
def opAmoAnd (g : BitVec 4) (d a b : BitVec 6) (w : BitVec 1) (s : BitVec 3) : SlotOp :=
  amoOp 1 g d a b (w == 1) s

/-- The meaning of `amoAnd`: its issue alone in a bundle. -/
def execAmoAnd (g : BitVec 4) (d a b : BitVec 6) (w : BitVec 1) (s : BitVec 3) (st : State) : Result :=
  issueLone 6 (opAmoAnd g d a b w s) st

/-- `amo.or` (R290). -/
def opAmoOr (g : BitVec 4) (d a b : BitVec 6) (w : BitVec 1) (s : BitVec 3) : SlotOp :=
  amoOp 2 g d a b (w == 1) s

/-- The meaning of `amoOr`: its issue alone in a bundle. -/
def execAmoOr (g : BitVec 4) (d a b : BitVec 6) (w : BitVec 1) (s : BitVec 3) (st : State) : Result :=
  issueLone 6 (opAmoOr g d a b w s) st

/-- `amo.xor` (R290). -/
def opAmoXor (g : BitVec 4) (d a b : BitVec 6) (w : BitVec 1) (s : BitVec 3) : SlotOp :=
  amoOp 3 g d a b (w == 1) s

/-- The meaning of `amoXor`: its issue alone in a bundle. -/
def execAmoXor (g : BitVec 4) (d a b : BitVec 6) (w : BitVec 1) (s : BitVec 3) (st : State) : Result :=
  issueLone 6 (opAmoXor g d a b w s) st

/-- `amo.min.i` (R290). -/
def opAmoMinI (g : BitVec 4) (d a b : BitVec 6) (w : BitVec 1) (s : BitVec 3) : SlotOp :=
  amoOp 4 g d a b (w == 1) s

/-- The meaning of `amoMinI`: its issue alone in a bundle. -/
def execAmoMinI (g : BitVec 4) (d a b : BitVec 6) (w : BitVec 1) (s : BitVec 3) (st : State) : Result :=
  issueLone 6 (opAmoMinI g d a b w s) st

/-- `amo.min.n` (R290). -/
def opAmoMinN (g : BitVec 4) (d a b : BitVec 6) (w : BitVec 1) (s : BitVec 3) : SlotOp :=
  amoOp 5 g d a b (w == 1) s

/-- The meaning of `amoMinN`: its issue alone in a bundle. -/
def execAmoMinN (g : BitVec 4) (d a b : BitVec 6) (w : BitVec 1) (s : BitVec 3) (st : State) : Result :=
  issueLone 6 (opAmoMinN g d a b w s) st

/-- `amo.max.i` (R290). -/
def opAmoMaxI (g : BitVec 4) (d a b : BitVec 6) (w : BitVec 1) (s : BitVec 3) : SlotOp :=
  amoOp 6 g d a b (w == 1) s

/-- The meaning of `amoMaxI`: its issue alone in a bundle. -/
def execAmoMaxI (g : BitVec 4) (d a b : BitVec 6) (w : BitVec 1) (s : BitVec 3) (st : State) : Result :=
  issueLone 6 (opAmoMaxI g d a b w s) st

/-- `amo.max.n` (R290). -/
def opAmoMaxN (g : BitVec 4) (d a b : BitVec 6) (w : BitVec 1) (s : BitVec 3) : SlotOp :=
  amoOp 7 g d a b (w == 1) s

/-- The meaning of `amoMaxN`: its issue alone in a bundle. -/
def execAmoMaxN (g : BitVec 4) (d a b : BitVec 6) (w : BitVec 1) (s : BitVec 3) (st : State) : Result :=
  issueLone 6 (opAmoMaxN g d a b w s) st

/-- `amo.swap` (R290). -/
def opAmoSwap (g : BitVec 4) (d a b : BitVec 6) (w : BitVec 1) (s : BitVec 3) : SlotOp :=
  amoOp 8 g d a b (w == 1) s

/-- The meaning of `amoSwap`: its issue alone in a bundle. -/
def execAmoSwap (g : BitVec 4) (d a b : BitVec 6) (w : BitVec 1) (s : BitVec 3) (st : State) : Result :=
  issueLone 6 (opAmoSwap g d a b w s) st

/-- `amo.fadd.f32` (R290). -/
def opAmoFaddF32 (g : BitVec 4) (d a b : BitVec 6) (s : BitVec 3) : SlotOp :=
  amoOp 9 g d a b true s

/-- The meaning of `amoFaddF32`: its issue alone in a bundle. -/
def execAmoFaddF32 (g : BitVec 4) (d a b : BitVec 6) (s : BitVec 3) (st : State) : Result :=
  issueLone 6 (opAmoFaddF32 g d a b s) st

/-- `cas` (R292). -/
def opCas (g : BitVec 4) (d a b : BitVec 6) (w : BitVec 1) (s : BitVec 3) : SlotOp :=
  atomicOp g [.sreg b.toNat, .sreg d.toNat] [.sreg d.toNat] a (amoBytes (w == 1)) s.toNat fun r =>
    .cas (w == 1) (getS r a) (getS r d) (getS r b) d

/-- The meaning of `cas`: its issue alone in a bundle. -/
def execCas (g : BitVec 4) (d a b : BitVec 6) (w : BitVec 1) (s : BitVec 3) (st : State) : Result :=
  issueLone 6 (opCas g d a b w s) st

/-- `cas.128` (R293). -/
def opCas128 (g : BitVec 4) (d a b : BitVec 6) (s : BitVec 3) : SlotOp :=
  atomicOp g [.sreg b.toNat, .sreg (b.toNat + 1), .sreg d.toNat, .sreg (d.toNat + 1)] [.sreg d.toNat, .sreg (d.toNat + 1)] a 16 s.toNat fun r =>
    .cas128 (getS r a) (getS r d) (getS r (d + 1)) (getS r b) (getS r (b + 1)) d

/-- The meaning of `cas128`: its issue alone in a bundle. -/
def execCas128 (g : BitVec 4) (d a b : BitVec 6) (s : BitVec 3) (st : State) : Result :=
  issueLone 6 (opCas128 g d a b s) st


/-! ## Copies -/

/-- The copies that the lower slots of the bundle issue. -/
def claimedCopies (x : Ctx) (p : Nat → Bool) : Nat :=
  (x.claims.filter fun c => match c with
    | .copy ch => p ch
    | _ => false).length

/-- A `cp` finds room: among the 16 copies of an open phase, or on its channel; and its release is done, which of one inside a phase is
that of the commit, here if its own bundle commits (R240, R277, R285). -/
def cpAdmitted (x : Ctx) (r : State) (ch : Nat) : Pre :=
  if phaseOpen r.task then
    (Pre.need (r.task.heldCopies.length + claimedCopies x (fun _ => true) < 16) causePhase 4).and fun _ =>
      if x.claims.contains (.phaseEnds true) then settled r else .ok
  else if 8 ≤ (channelOf r r.active ch).length + claimedCopies x (· == ch) then Pre.freeze .owed
  else settled r

/-- `cp` (R285): inside a phase it is held, at most 16; a full channel freezes (R240, R277). Beside the `phase.abort` of its bundle it is
discarded with the copies that are held. -/
def opCp (g : BitVec 4) (a : BitVec 6) (n : BitVec 2) : SlotOp :=
  { SlotOp.making (acc := fun r => .readPacket (getS r a) n.toNat)
    <| memOp g [.sreg a.toNat] []
      (fun x r =>
        (aligned (getS r a) 64).and fun _ =>
        (cpAdmitted x r n.toNat).and fun _ => awaitFills r a.toNat false [(getS r a, 64)])
      fun x r s =>
        let acc : Access := .readPacket (getS r a) n.toNat
        if x.claims.contains (.phaseEnds false) then s
        else
          unlessFillFails x r false [(getS r a, 64)] a.toNat acc (fun s =>
            match ownSpot r (getS r a) with
            | some p =>
              withOwn x r [(getS r a, 64)] (some (a.toNat, acc)) (fun l s =>
                issueCopy (phaseOpen r.task) (getS r a) p.off n.toNat (l.headD []) s) s
            | none => issueAccess x.slot r.task.pc acc (laneOf r.task a.toNat) false s) s with
    claim := some (.copy n.toNat) }

/-- The meaning of `cp`: its issue alone in a bundle. -/
def execCp (g : BitVec 4) (a : BitVec 6) (n : BitVec 2) (st : State) : Result :=
  issueLone 6 (opCp g a n) st

/-- The scope of the claim and the header of a `cpq`: fab where the descriptor lies on another module, else pkg (R286). -/
def queueScope (r : State) (descriptor : Word) : Nat := if BitVec.ofNat 8 (bits descriptor 54 8) = r.moduleId then 3 else 4

/-- `cpq` (R286): a release at its claim. A packet in the own scratchpad is read at the read point (R97), and once that has succeeded it
is not read again. -/
def opCpq (g : BitVec 4) (a b : BitVec 6) : SlotOp :=
  SlotOp.making (acc := fun r => .cpq (getS r a) (getS r b) [])
  <| memOp g [.sreg a.toNat, .sreg b.toNat] []
    (fun _ r => (aligned (getS r a) 128).and fun _ => (aligned (getS r b) 64).and fun _ => (noPhase r).and fun _ =>
      (releaseDone r (queueScope r (getS r a))).and fun _ => awaitFills r b.toNat false [(getS r b, 64)])
    fun x r s =>
      let acc : Access := .cpq (getS r a) (getS r b) []
      unlessFillFails x r false [(getS r b, 64)] a.toNat acc (fun s =>
        if allOwn r [(getS r b, 64)] && bits (getS r a) 62 2 == 0 then
          withOwn x r [(getS r b, 64)] (some (a.toNat, acc)) (fun l s =>
            issueAccess x.slot r.task.pc (.cpq (getS r a) (getS r b) l) (laneOf r.task a.toNat) true s) s
        else issueAccess x.slot r.task.pc acc (laneOf r.task a.toNat) true s) s

/-- The meaning of `cpq`: its issue alone in a bundle. -/
def execCpq (g : BitVec 4) (a b : BitVec 6) (st : State) : Result :=
  issueLone 6 (opCpq g a b) st


/-! ## Drains and fences -/

/-- Every copy of a channel of the core has completed, and no `cp` on it is still to be accepted. -/
def channelDrained (r : State) (n : Nat) : Bool :=
  (channelOf r r.active n).isEmpty && !(r.task.owed.any fun o => match o.kind with
    | .access (.readPacket _ ch) _ _ => ch == n
    | _ => false)

/-- An access writes on another module or in the pool: the target of its next request, a piece behind it, or a multicast that this
module has still to send out (R374). -/
def Access.writesFar (r : State) (a : Access) (target : Nat) : Bool :=
  a.isWrite && (target != r.moduleId.toNat || a.isMulticast
    || a.spans.any fun x => pieceAway r x.1 || (bits x.1 62 2 == 1 && (ownSpot r x.1).isNone))

/-- Write-backs of window lines that their home on another module has still to acknowledge belong to an owed access (R331). -/
def Access.returnsFar (r : State) : Access → Bool
  | .writeBack .. | .unmap _ | .remap .. => r.core.sent.any fun x => !x.release
  | _ => false

/-- No write to another module or to the pool is still to be acknowledged, and no request of the task lies on a frozen stream
(R287, R331, R370). -/
def farDrained (r : State) : Bool :=
  !(r.task.owed.any fun o => match o.kind with
    | .access a k t => a.writesFar r t || a.returnsFar r
        || streamStopped r r.active (r.core.run.getD 0) k && t != r.moduleId.toNat
    | .reduction .. => false)

/-- Freeze until a condition holds. -/
def untilTrue (b : Bool) : Pre := if b then .ok else .freeze .owed

/-- `drain.cp` (R287). -/
def opDrainCp (g : BitVec 4) (n : BitVec 2) : SlotOp :=
  memOp g [] [] (fun _ r => untilTrue (channelDrained r n.toNat)) fun _ _ s => s

/-- The meaning of `drainCp`: its issue alone in a bundle. -/
def execDrainCp (g : BitVec 4) (n : BitVec 2) (st : State) : Result :=
  issueLone 6 (opDrainCp g n) st

/-- `drain.far` (R287, R370). -/
def opDrainFar (g : BitVec 4) : SlotOp :=
  memOp g [] [] (fun _ r => untilTrue (farDrained r)) fun _ _ s => s

/-- The meaning of `drainFar`: its issue alone in a bundle. -/
def execDrainFar (g : BitVec 4) (st : State) : Result :=
  issueLone 6 (opDrainFar g) st

/-- `drain.all` (R287). -/
def opDrainAll (g : BitVec 4) : SlotOp :=
  memOp g [] [] (fun _ r => untilTrue ((List.range 4).all (channelDrained r) && farDrained r && r.task.owed.isEmpty)) fun _ _ s => s

/-- The meaning of `drainAll`: its issue alone in a bundle. -/
def execDrainAll (g : BitVec 4) (st : State) : Result :=
  issueLone 6 (opDrainAll g) st


/-- A fence (R288): what it waits for. -/
def fenceOp (g : BitVec 4) (wait : State → Pre) : SlotOp := .simple g [] [] (fun _ r => wait r) fun _ _ s => s

/-- `fence.acq` (R288). -/
def opFenceAcq (g : BitVec 4) (s : BitVec 2) : SlotOp :=
  fenceOp g readsDone

/-- The meaning of `fenceAcq`: its issue alone in a bundle. -/
def execFenceAcq (g : BitVec 4) (s : BitVec 2) (st : State) : Result :=
  issueLone 6 (opFenceAcq g s) st

/-- `fence.rel` (R288). -/
def opFenceRel (g : BitVec 4) (s : BitVec 2) : SlotOp :=
  fenceOp g fun r => releaseDone r (s.toNat + 1)

/-- The meaning of `fenceRel`: its issue alone in a bundle. -/
def execFenceRel (g : BitVec 4) (s : BitVec 2) (st : State) : Result :=
  issueLone 6 (opFenceRel g s) st

/-- `fence.full` (R288). -/
def opFenceFull (g : BitVec 4) (s : BitVec 2) : SlotOp :=
  fenceOp g fun r => (readsDone r).and fun _ => (writesDone r).and fun _ => releaseDone r (s.toNat + 1)

/-- The meaning of `fenceFull`: its issue alone in a bundle. -/
def execFenceFull (g : BitVec 4) (s : BitVec 2) (st : State) : Result :=
  issueLone 6 (opFenceFull g s) st

/-- `fence.acq.pool` (R288). -/
def opFenceAcqPool (g : BitVec 4) : SlotOp :=
  fenceOp g readsDone

/-- The meaning of `fenceAcqPool`: its issue alone in a bundle. -/
def execFenceAcqPool (g : BitVec 4) (st : State) : Result :=
  issueLone 6 (opFenceAcqPool g) st

/-- `fence.rel.pool` (R288). -/
def opFenceRelPool (g : BitVec 4) : SlotOp :=
  fenceOp g fun r => releaseDone r 5

/-- The meaning of `fenceRelPool`: its issue alone in a bundle. -/
def execFenceRelPool (g : BitVec 4) (st : State) : Result :=
  issueLone 6 (opFenceRelPool g) st

/-- `fence.full.pool` (R288). -/
def opFenceFullPool (g : BitVec 4) : SlotOp :=
  fenceOp g fun r => (readsDone r).and fun _ => (writesDone r).and fun _ => releaseDone r 5

/-- The meaning of `fenceFullPool`: its issue alone in a bundle. -/
def execFenceFullPool (g : BitVec 4) (st : State) : Result :=
  issueLone 6 (opFenceFullPool g) st


/-! ## Stash windows -/

/-- Two ranges overlap. -/
def overlaps (a n b m : Nat) : Bool := decide (a < b + m) && decide (b < a + n)

/-- The SMAP value of a window (R226). -/
def smapWord (off va len : Word) : Word :=
  word (va.toNat / 2 ^ 16 * 2 ^ 16 + off.toNat / 2 ^ 16 * 2 ^ 12 + len.toNat / 2 ^ 16 * 2 ^ 7 + 1)

/-- `smap` (R227): the checks in the order of the entry. -/
def opSmap (g : BitVec 4) (n : BitVec 4) (a b : BitVec 6) : SlotOp :=
  memOp g [.sreg a.toNat, .sreg b.toNat, .sreg (b.toNat + 1)] []
    (fun _ r =>
      let off := getS r a
      let va := getS r b
      let len := getS r (b + 1)
      (Pre.need (onPage off && onPage va && onPage len && len != 0 && decide (off.toNat + len.toNat ≤ 2 ^ 20)) causeAlignment 1).and fun _ =>
      (Pre.need ((validWindows r.core).all fun e => e.1 == n.toNat || !(overlaps off.toNat len.toNat (winOff e.2) (winLen e.2)
        || overlaps va.toNat len.toNat (winVa e.2) (winLen e.2))) causeAlignment 2).and fun _ =>
      (Pre.need (decide (bits va 62 2 ≤ 1)) causeTranslation 0 |>.at va).and fun _ => noPhase r)
    fun x r s =>
      issueAccess x.slot r.task.pc (.remap n.toNat (smapWord (getS r a) (getS r b) (getS r (b + 1)))) (laneOf r.task b.toNat) false s

/-- The meaning of `smap`: its issue alone in a bundle. -/
def execSmap (g : BitVec 4) (n : BitVec 4) (a b : BitVec 6) (st : State) : Result :=
  issueLone 6 (opSmap g n a b) st

/-- `sunmap` (R228). -/
def opSunmap (g : BitVec 4) (n : BitVec 4) : SlotOp :=
  memOp g [] [] (fun _ r => noPhase r) fun x r s => issueAccess x.slot r.task.pc (.unmap n.toNat) (laneOf r.task 0) false s

/-- The meaning of `sunmap`: its issue alone in a bundle. -/
def execSunmap (g : BitVec 4) (n : BitVec 4) (st : State) : Result :=
  issueLone 6 (opSunmap g n) st

/-- `swb` (R233). -/
def opSwb (g : BitVec 4) (a b : BitVec 6) : SlotOp :=
  memOp g [.sreg a.toNat, .sreg b.toNat] []
    (fun _ r => (Pre.need ((getS r a).toNat % 128 == 0 && (getS r b).toNat % 128 == 0) causeAlignment 0 |>.at (getS r a)).and fun _ => noPhase r)
    fun x r s => issueAccess x.slot r.task.pc (.writeBack (getS r a) (getS r b)) (laneOf r.task a.toNat) false s

/-- The meaning of `swb`: its issue alone in a bundle. -/
def execSwb (g : BitVec 4) (a b : BitVec 6) (st : State) : Result :=
  issueLone 6 (opSwb g a b) st

/-- `sinv` (R233). -/
def opSinv (g : BitVec 4) (a b : BitVec 6) : SlotOp :=
  memOp g [.sreg a.toNat, .sreg b.toNat] []
    (fun _ r => (Pre.need ((getS r a).toNat % 128 == 0 && (getS r b).toNat % 128 == 0) causeAlignment 0 |>.at (getS r a)).and fun _ => noPhase r)
    fun x r s => issueAccess x.slot r.task.pc (.invalidate (getS r a) (getS r b)) (laneOf r.task a.toNat) false s

/-- The meaning of `sinv`: its issue alone in a bundle. -/
def execSinv (g : BitVec 4) (a b : BitVec 6) (st : State) : Result :=
  issueLone 6 (opSinv g a b) st

/-- `pf` (R234): it starts a fill, or has no effect. -/
def opPf (g : BitVec 4) (a : BitVec 6) (imm : BitVec 10) : SlotOp :=
  memOp g [.sreg a.toNat] [] noCheck fun _ r s =>
    match ownSpot r (scaled r a imm 128) with
    | some (.window off) =>
      if (smFind r.core.lines (off / 128)).isSome || lineAsked r.core (off / 128) then s
      else startFill (laneOf r.task a.toNat) s ⟨off / 128, false, false, none, none⟩
    | _ => s

/-- The meaning of `pf`: its issue alone in a bundle. -/
def execPf (g : BitVec 4) (a : BitVec 6) (imm : BitVec 10) (st : State) : Result :=
  issueLone 6 (opPf g a imm) st


/-! ## Page operations -/

/-- A page operation (R311). -/
def pageOp (op : Nat) (g : BitVec 4) (a : BitVec 6) (wait : State → Pre) : SlotOp :=
  memOp g [.sreg a.toNat] [] (fun _ r => (aligned (getS r a) (2 ^ 16)).and fun _ => (noPhase r).and fun _ => wait r)
    fun x r s => issueAccess x.slot r.task.pc (.pageOp op (getS r a)) (laneOf r.task a.toNat) true s

/-- `pcommit` (R311). -/
def opPcommit (g : BitVec 4) (a : BitVec 6) : SlotOp :=
  pageOp 0 g a fun _ => .ok

/-- The meaning of `pcommit`: its issue alone in a bundle. -/
def execPcommit (g : BitVec 4) (a : BitVec 6) (st : State) : Result :=
  issueLone 6 (opPcommit g a) st

/-- `pfree` (R312): after every earlier access of the task. -/
def opPfree (g : BitVec 4) (a : BitVec 6) : SlotOp :=
  pageOp 1 g a settled

/-- The meaning of `pfree`: its issue alone in a bundle. -/
def execPfree (g : BitVec 4) (a : BitVec 6) (st : State) : Result :=
  issueLone 6 (opPfree g a) st

/-- `pin` (R311). -/
def opPin (g : BitVec 4) (a : BitVec 6) : SlotOp :=
  pageOp 2 g a fun _ => .ok

/-- The meaning of `pin`: its issue alone in a bundle. -/
def execPin (g : BitVec 4) (a : BitVec 6) (st : State) : Result :=
  issueLone 6 (opPin g a) st

/-- `unpin` (R311). -/
def opUnpin (g : BitVec 4) (a : BitVec 6) : SlotOp :=
  pageOp 3 g a fun _ => .ok

/-- The meaning of `unpin`: its issue alone in a bundle. -/
def execUnpin (g : BitVec 4) (a : BitVec 6) (st : State) : Result :=
  issueLone 6 (opUnpin g a) st


/-! ## Counters and posted operations -/

/-- The scope of a counter's increments (R334): fab for another module, else pkg or less. -/
def counterScope (r : State) (name : Word) : Nat := if nameModule name = r.moduleId then 3 else 4

/-- The number of free counters of a die is above `n`. -/
def countersLeft (r : State) (d n : Nat) : Bool :=
  decide (n < ((List.range 4096).filter fun i => !(getCounter r d i).live).length)

/-- The number of free posted-operation entries of a die is above `n`. -/
def entriesLeft (r : State) (d n : Nat) : Bool :=
  decide (n < 16384 - ((getDie r d).posted.filter fun e => e.2.used).length)

/-- `tcset` (R390). -/
def opTcset (g : BitVec 4) (d a : BitVec 6) : SlotOp :=
  { memOp g [.sreg a.toNat] [.sreg d.toNat]
      (fun x r => (noPhase r).and fun _ => .need (countersLeft r (dieOf r.active) (x.claims.filter (· = .counter)).length) causeTrigger 0)
      fun _ r s =>
        let die := dieOf s.active
        match freeCounter s die with
        | none => s
        | some i =>
          let s1 := setCounter s die i { getCounter s die i with live := true, value := getS r a, launch := s.task.launchId }
          setS s1 d (counterName s1 die i) with
    claim := some .counter }

/-- The meaning of `tcset`: its issue alone in a bundle. -/
def execTcset (g : BitVec 4) (d a : BitVec 6) (st : State) : Result :=
  issueLone 6 (opTcset g d a) st

/-- `tcadd` (R391): a release, then the increment. -/
def opTcadd (g : BitVec 4) (a b : BitVec 6) : SlotOp :=
  memOp g [.sreg a.toNat, .sreg b.toNat] []
    (fun _ r => (noPhase r).and fun _ => releaseDone r (counterScope r (getS r a)))
    fun x r s => issueAccess x.slot r.task.pc (.counterAdd (getS r a) (getS r b)) (laneOf r.task a.toNat) false s

/-- The meaning of `tcadd`: its issue alone in a bundle. -/
def execTcadd (g : BitVec 4) (a b : BitVec 6) (st : State) : Result :=
  issueLone 6 (opTcadd g a b) st

/-- `st.tc` (R392): the counter rises once the store has performed. -/
def opStTc (g : BitVec 4) (d a b : BitVec 6) (w : BitVec 1) : SlotOp :=
  SlotOp.making (acc := fun r => .storeThenRaise (getS r a) (leBytes (amoBytes (w == 1)) (getS r d).toNat) (getS r b))
  <| memOp g [.sreg d.toNat, .sreg a.toNat, .sreg b.toNat] []
    (fun _ r => (aligned (getS r a) (amoBytes (w == 1))).and fun _ => (noPhase r).and fun _ =>
      (releaseDone r (counterScope r (getS r b))).and fun _ => awaitFills r a.toNat true [(getS r a, amoBytes (w == 1))])
    fun x r s =>
      let n := amoBytes (w == 1)
      let va := getS r a
      let bytes := leBytes n (getS r d).toNat
      let acc : Access := .storeThenRaise va bytes (getS r b)
      unlessFillFails x r true [(va, n)] a.toNat acc (fun s =>
        if allOwn r [(va, n)] then expose x r 1 false false 0 [.storeRaise va bytes (getS r b) (laneOf r.task a.toNat)] s
        else issueAccess x.slot r.task.pc acc (laneOf r.task a.toNat) false s) s

/-- The meaning of `stTc`: its issue alone in a bundle. -/
def execStTc (g : BitVec 4) (d a b : BitVec 6) (w : BitVec 1) (st : State) : Result :=
  issueLone 6 (opStTc g d a b w) st

/-- `tcread` (R393). -/
def opTcread (g : BitVec 4) (d a : BitVec 6) : SlotOp :=
  memOp g [.sreg a.toNat] [.sreg d.toNat] noCheck fun x r s =>
    issueAccess x.slot r.task.pc (.counterRead (getS r a) d) (laneOf r.task a.toNat) true s

/-- The meaning of `tcread`: its issue alone in a bundle. -/
def execTcread (g : BitVec 4) (d a : BitVec 6) (st : State) : Result :=
  issueLone 6 (opTcread g d a) st

/-- `tpost` (R395). -/
def opTpost (g : BitVec 4) (d a : BitVec 6) : SlotOp :=
  { SlotOp.making (acc := fun r => .readDescriptor (getS r a) d)
    <| memOp g [.sreg a.toNat] [.sreg d.toNat]
      (fun x r => (aligned (getS r a) 64).and fun _ => (noPhase r).and fun _ =>
        (Pre.need (entriesLeft r (dieOf r.active) (x.claims.filter (· = .entry)).length) causeTrigger 0).and fun _ =>
          awaitFills r a.toNat false [(getS r a, 64)])
      fun x r s =>
        let acc : Access := .readDescriptor (getS r a) d
        unlessFillFails x r false [(getS r a, 64)] a.toNat acc (fun s =>
          if allOwn r [(getS r a, 64)] then
            withOwn x r [(getS r a, 64)] (some (a.toNat, acc)) (fun l s => postDescriptor d (l.headD []) s) s
          else issueAccess x.slot r.task.pc acc (laneOf r.task a.toNat) false s) s with
    claim := some .entry }

/-- The meaning of `tpost`: its issue alone in a bundle. -/
def execTpost (g : BitVec 4) (d a : BitVec 6) (st : State) : Result :=
  issueLone 6 (opTpost g d a) st

/-- `tcancel` (R396). -/
def opTcancel (g : BitVec 4) (a : BitVec 6) : SlotOp :=
  memOp g [.sreg a.toNat] [] (fun _ r => noPhase r) fun x r s => issueAccess x.slot r.task.pc (.cancel (getS r a)) (laneOf r.task a.toNat) false s

/-- The meaning of `tcancel`: its issue alone in a bundle. -/
def execTcancel (g : BitVec 4) (a : BitVec 6) (st : State) : Result :=
  issueLone 6 (opTcancel g a) st


/-! ## Multicast (R374) -/

/-- A multicast write. -/
def multicastOp (g : BitVec 4) (d a b : BitVec 6) (w : BitVec 1) (sequenced : Bool) : SlotOp :=
  SlotOp.making (acc := fun r => .multicast (getS r b) (getS r a) (w == 1) (getS r d) sequenced)
  <| memOp g [.sreg d.toNat, .sreg a.toNat, .sreg b.toNat] []
    (fun _ r => (aligned (getS r a) (amoBytes (w == 1))).and fun _ => noPhase r)
    fun x r s => issueAccess x.slot r.task.pc (.multicast (getS r b) (getS r a) (w == 1) (getS r d) sequenced) (laneOf r.task a.toNat) false s

/-- `mcst` (R374). -/
def opMcst (g : BitVec 4) (d a b : BitVec 6) (w : BitVec 1) : SlotOp :=
  multicastOp g d a b w false

/-- The meaning of `mcst`: its issue alone in a bundle. -/
def execMcst (g : BitVec 4) (d a b : BitVec 6) (w : BitVec 1) (st : State) : Result :=
  issueLone 6 (opMcst g d a b w) st

/-- `mcst.seq` (R374). -/
def opMcstSeq (g : BitVec 4) (d a b : BitVec 6) (w : BitVec 1) : SlotOp :=
  multicastOp g d a b w true

/-- The meaning of `mcstSeq`: its issue alone in a bundle. -/
def execMcstSeq (g : BitVec 4) (d a b : BitVec 6) (w : BitVec 1) (st : State) : Result :=
  issueLone 6 (opMcstSeq g d a b w) st


end Sys2Proof.Machine
end

