-- ==== Sys2Proof/Machine/Bundle.lean ====
section
/-! DEFINITION. The syllable that each instruction is, and the bundle that a decoded bundle issues as (R43, R52). -/

namespace Sys2Proof.Machine

/-- The syllable of an instruction; an event is none. -/
def opOf (i : Instr) : Option SlotOp :=
  match i with
  | .fullBundle => none
  | .reference => none
  | .skip => none
  | .exposedResultLands => none
  | .interlockedCompletion _ _ => none
  | .stashFill _ _ => none
  | .trapEntry => none
  | .rimWaitPark => none
  | .waitTimeout _ _ => none
  | .waitWakeup _ _ => none
  | .quantumExpiry => none
  | .preemption _ _ => none
  | .contextRestore _ _ => none
  | .phaseCancel => none
  | .packetTake _ => none
  | .instanceCreation _ _ => none
  | .taskPlacement _ => none
  | .classAging _ => none
  | .frameDisplacement _ => none
  | .launchComplete _ _ => none
  | .hoopPhaseComplete _ _ => none
  | .firmwareCheckpoint _ => none
  | .lockstepMismatch _ => none
  | .copyStart _ => none
  | .copyComplete _ => none
  | .copyQueueTake _ => none
  | .scPerform => none
  | .frameReclaim _ => none
  | .migratePage _ => none
  | .evictPage _ => none
  | .fetchInPage _ => none
  | .evictionPolicy _ => none
  | .dieWarmReset _ => none
  | .dieResetClear _ => none
  | .dieReadmission _ => none
  | .dieFailure _ => none
  | .dieLinkFailure _ _ => none
  | .freeFramePush _ _ => none
  | .poolPagePush _ _ => none
  | .faultResume _ _ => none
  | .faultRefuse _ _ => none
  | .regionTableWrite _ _ => none
  | .registerWrite _ _ => none
  | .bar0MalformedAccess _ _ _ => none
  | .registerLaunchQueue _ _ => none
  | .registerCopyQueue _ _ => none
  | .unregisterQueue _ _ => none
  | .setContextPool _ _ _ => none
  | .attestationReport _ => none
  | .packageBoot _ _ _ => none
  | .clockStep _ => none
  | .hostAccess _ _ _ _ => none
  | .hostAtomic _ _ _ _ _ => none
  | .remoteRequest _ _ _ _ _ _ _ => none
  | .holdReply _ _ _ => none
  | .streamFaultTimeout _ _ => none
  | .fabricLinkFailure _ _ => none
  | .streamRepin _ _ _ => none
  | .moduleDeath _ => none
  | .remoteBackInvalidate _ _ => none
  | .mcstSeqRoot _ _ _ _ => none
  | .postedOpDone _ _ => none
  | .launchOpRetry _ _ => none
  | .rimwArrival _ _ _ => none
  | .backInvalidateSnoop _ _ => none
  | .poolPortLoss _ => none
  | .extentForcedRelease _ => none
  | .add g d a b => some (opAdd g d a b)
  | .sub g d a b => some (opSub g d a b)
  | .and g d a b => some (opAnd g d a b)
  | .or g d a b => some (opOr g d a b)
  | .xor g d a b => some (opXor g d a b)
  | .andn g d a b => some (opAndn g d a b)
  | .shl g d a b => some (opShl g d a b)
  | .shrN g d a b => some (opShrN g d a b)
  | .shrI g d a b => some (opShrI g d a b)
  | .rot g d a b => some (opRot g d a b)
  | .minI g d a b => some (opMinI g d a b)
  | .minN g d a b => some (opMinN g d a b)
  | .maxI g d a b => some (opMaxI g d a b)
  | .maxN g d a b => some (opMaxN g d a b)
  | .addi g d a imm => some (opAddi g d a imm)
  | .andi g d a imm => some (opAndi g d a imm)
  | .ori g d a imm => some (opOri g d a imm)
  | .xori g d a imm => some (opXori g d a imm)
  | .shli g d a imm => some (opShli g d a imm)
  | .shriN g d a imm => some (opShriN g d a imm)
  | .shriI g d a imm => some (opShriI g d a imm)
  | .li g d imm => some (opLi g d imm)
  | .lih g d a imm => some (opLih g d a imm)
  | .mul g d a b => some (opMul g d a b)
  | .mulhI g d a b => some (opMulhI g d a b)
  | .mulhN g d a b => some (opMulhN g d a b)
  | .mulhIn g d a b => some (opMulhIn g d a b)
  | .divI g d a b => some (opDivI g d a b)
  | .divN g d a b => some (opDivN g d a b)
  | .remI g d a b => some (opRemI g d a b)
  | .remN g d a b => some (opRemN g d a b)
  | .clz g d a => some (opClz g d a)
  | .ctz g d a => some (opCtz g d a)
  | .popc g d a => some (opPopc g d a)
  | .brev g d a => some (opBrev g d a)
  | .bswap g d a => some (opBswap g d a)
  | .bfxI g d a b => some (opBfxI g d a b)
  | .bfxN g d a b => some (opBfxN g d a b)
  | .bfi g d a b => some (opBfi g d a b)
  | .fshl g d a b => some (opFshl g d a b)
  | .fshr g d a b => some (opFshr g d a b)
  | .cmp g p a b c => some (opCmp g p a b c)
  | .cmpi g p c a imm => some (opCmpi g p c a imm)
  | .pand g d a b => some (opPand g d a b)
  | .por g d a b => some (opPor g d a b)
  | .pxor g d a b => some (opPxor g d a b)
  | .pandn g d a b => some (opPandn g d a b)
  | .pmov g d a => some (opPmov g d a)
  | .pset g d => some (opPset g d)
  | .pclr g d => some (opPclr g d)
  | .sel g d a b p => some (opSel g d a b p)
  | .faddF64 g d a b => some (opFaddF64 g d a b)
  | .fsubF64 g d a b => some (opFsubF64 g d a b)
  | .fmulF64 g d a b => some (opFmulF64 g d a b)
  | .fdivF64 g d a b => some (opFdivF64 g d a b)
  | .fsqrtF64 g d a => some (opFsqrtF64 g d a)
  | .fminF64 g d a b => some (opFminF64 g d a b)
  | .fmaxF64 g d a b => some (opFmaxF64 g d a b)
  | .faddF32 g d a b => some (opFaddF32 g d a b)
  | .fsubF32 g d a b => some (opFsubF32 g d a b)
  | .fmulF32 g d a b => some (opFmulF32 g d a b)
  | .fdivF32 g d a b => some (opFdivF32 g d a b)
  | .fsqrtF32 g d a => some (opFsqrtF32 g d a)
  | .fminF32 g d a b => some (opFminF32 g d a b)
  | .fmaxF32 g d a b => some (opFmaxF32 g d a b)
  | .fcvtF64I64 g d a => some (opFcvtF64I64 g d a)
  | .fcvtF64N64 g d a => some (opFcvtF64N64 g d a)
  | .fcvtI64F64 g d a => some (opFcvtI64F64 g d a)
  | .fcvtN64F64 g d a => some (opFcvtN64F64 g d a)
  | .fcvtF32F64 g d a => some (opFcvtF32F64 g d a)
  | .fcvtF64F32 g d a => some (opFcvtF64F32 g d a)
  | .fcvtF32I64 g d a => some (opFcvtF32I64 g d a)
  | .fcvtI64F32 g d a => some (opFcvtI64F32 g d a)
  | .fcmpF64 g p a b c => some (opFcmpF64 g p a b c)
  | .fcmpF32 g p a b c => some (opFcmpF32 g p a b c)
  | .mfs g d reg => some (opMfs g d reg)
  | .mts g a reg => some (opMts g a reg)
  | .b g disp => some (opB g disp)
  | .call g disp => some (opCall g disp)
  | .jr g a => some (opJr g a)
  | .callr g a => some (opCallr g a)
  | .ret g => some (opRet g)
  | .loop g a o s => some (opLoop g a o s)
  | .loopSt g a o s => some (opLoopSt g a o s)
  | .spawn g a b c => some (opSpawn g a b c)
  | .spawnSib g a b c => some (opSpawnSib g a b c)
  | .exit g => some (opExit g)
  | .yield g => some (opYield g)
  | .wait g a b c n => some (opWait g a b c n)
  | .halloc g d => some (opHalloc g d)
  | .hfree g a => some (opHfree g a)
  | .hjoin g a => some (opHjoin g a)
  | .hleave g a => some (opHleave g a)
  | .hbar g a => some (opHbar g a)
  | .hsize g d a => some (opHsize g d a)
  | .phaseBegin g => some (opPhaseBegin g)
  | .phaseCommit g => some (opPhaseCommit g)
  | .phaseAbort g => some (opPhaseAbort g)
  | .sys g c => some (opSys g c)
  | .trap g c => some (opTrap g c)
  | .brk g c => some (opBrk g c)
  | .eret g => some (opEret g)
  | .tcwait g a b c => some (opTcwait g a b c)
  | .tlbiPage g a => some (opTlbiPage g a)
  | .tlbiRange g a b => some (opTlbiRange g a b)
  | .tlbiAll g => some (opTlbiAll g)
  | .pattr g a b c => some (opPattr g a b c)
  | .vadd g d a b => some (opVadd g d a b)
  | .vsub g d a b => some (opVsub g d a b)
  | .vmul g d a b => some (opVmul g d a b)
  | .vfma g d a b => some (opVfma g d a b)
  | .vmin g d a b => some (opVmin g d a b)
  | .vmax g d a b => some (opVmax g d a b)
  | .vabs g d a => some (opVabs g d a)
  | .vneg g d a => some (opVneg g d a)
  | .vmov g d a => some (opVmov g d a)
  | .vand g d a b => some (opVand g d a b)
  | .vor g d a b => some (opVor g d a b)
  | .vxor g d a b => some (opVxor g d a b)
  | .vshl g d a b => some (opVshl g d a b)
  | .vshr g d a b => some (opVshr g d a b)
  | .vcmpeq g d a b => some (opVcmpeq g d a b)
  | .vcmplt g d a b => some (opVcmplt g d a b)
  | .vcmple g d a b => some (opVcmple g d a b)
  | .vsel g d a b => some (opVsel g d a b)
  | .vcvt g d a f => some (opVcvt g d a f)
  | .vmaxe g a => some (opVmaxe g a)
  | .vcvqQ3 g d a => some (opVcvqQ3 g d a)
  | .vcvqQ5 g d a => some (opVcvqQ5 g d a)
  | .vcvqQ8 g d a => some (opVcvqQ8 g d a)
  | .vdq g d a => some (opVdq g d a)
  | .vexp2 g d a => some (opVexp2 g d a)
  | .vlog2 g d a => some (opVlog2 g d a)
  | .vrcp g d a => some (opVrcp g d a)
  | .vrsqrt g d a => some (opVrsqrt g d a)
  | .vsqrt g d a => some (opVsqrt g d a)
  | .vtanh g d a => some (opVtanh g d a)
  | .vsigm g d a => some (opVsigm g d a)
  | .vsilu g d a => some (opVsilu g d a)
  | .vgelu g d a => some (opVgelu g d a)
  | .verf g d a => some (opVerf g d a)
  | .vgactSilu g d a b => some (opVgactSilu g d a b)
  | .vgactGelu g d a b => some (opVgactGelu g d a b)
  | .vgactSigm g d a b => some (opVgactSigm g d a b)
  | .vgactRelu g d a b => some (opVgactRelu g d a b)
  | .vbas g d a k => some (opVbas g d a k)
  | .vbasSilu g d a k => some (opVbasSilu g d a k)
  | .vbasGelu g d a k => some (opVbasGelu g d a k)
  | .vbasSigm g d a k => some (opVbasSigm g d a k)
  | .vbasRelu g d a k => some (opVbasRelu g d a k)
  | .vrsum g t k => some (opVrsum g t k)
  | .vrmax g t k => some (opVrmax g t k)
  | .vrmin g t k => some (opVrmin g t k)
  | .vrsumsq g t k => some (opVrsumsq g t k)
  | .vcsum g t k => some (opVcsum g t k)
  | .vcmax g t k => some (opVcmax g t k)
  | .vxpose g d a => some (opVxpose g d a)
  | .vxrot g d a n => some (opVxrot g d a n)
  | .vxbrow g d a n => some (opVxbrow g d a n)
  | .vperm g d a b => some (opVperm g d a b)
  | .vbcast g s t => some (opVbcast g s t)
  | .vbrow g t k => some (opVbrow g t k)
  | .vbcol g t k => some (opVbcol g t k)
  | .kadd g d a b => some (opKadd g d a b)
  | .kmul g d a b => some (opKmul g d a b)
  | .kmax g d a b => some (opKmax g d a b)
  | .krcp g d a => some (opKrcp g d a)
  | .krsqrt g d a => some (opKrsqrt g d a)
  | .kneg g d a => some (opKneg g d a)
  | .kmov g d a => some (opKmov g d a)
  | .klse g d a b => some (opKlse g d a b)
  | .kbind g t k s => some (opKbind g t k s)
  | .kunbind g t s => some (opKunbind g t s)
  | .ksetRow g t k n => some (opKsetRow g t k n)
  | .ksetCol g t k n => some (opKsetCol g t k n)
  | .tres g d => some (opTres g d)
  | .tresPart g d s => some (opTresPart g d s)
  | .tstat g d t => some (opTstat g d t)
  | .kpend g k => some (opKpend g k)
  | .kwait g k => some (opKwait g k)
  | .vtag g d a f => some (opVtag g d a f)
  | .vzero g d => some (opVzero g d)
  | .mma g d a b => some (opMma g d a b)
  | .mmz g d a b => some (opMmz g d a b)
  | .mmaTap g d a b => some (opMmaTap g d a b)
  | .mmzTap g d a b => some (opMmzTap g d a b)
  | .mmaBt g d a b => some (opMmaBt g d a b)
  | .mmzBt g d a b => some (opMmzBt g d a b)
  | .mmaTapBt g d a b => some (opMmaTapBt g d a b)
  | .mmzTapBt g d a b => some (opMmzTapBt g d a b)
  | .mres g d => some (opMres g d)
  | .msacc g d s k => some (opMsacc g d s k)
  | .mrd g a t f => some (opMrd g a t f)
  | .mwr g a t f => some (opMwr g a t f)
  | .mzero g d => some (opMzero g d)
  | .mdrain g => some (opMdrain g)
  | .mfmt g a b => some (opMfmt g a b)
  | .oclaim g s => some (opOclaim g s)
  | .orel g o => some (opOrel g o)
  | .mofs g s o => some (opMofs g s o)
  | .ldI8 g d a imm => some (opLdI8 g d a imm)
  | .ldN8 g d a imm => some (opLdN8 g d a imm)
  | .ldI16 g d a imm => some (opLdI16 g d a imm)
  | .ldN16 g d a imm => some (opLdN16 g d a imm)
  | .ldI32 g d a imm => some (opLdI32 g d a imm)
  | .ldN32 g d a imm => some (opLdN32 g d a imm)
  | .ld64 g d a imm => some (opLd64 g d a imm)
  | .st8 g s a imm => some (opSt8 g s a imm)
  | .st16 g s a imm => some (opSt16 g s a imm)
  | .st32 g s a imm => some (opSt32 g s a imm)
  | .st64 g s a imm => some (opSt64 g s a imm)
  | .ldAcq32 g d a s => some (opLdAcq32 g d a s)
  | .ldAcq64 g d a s => some (opLdAcq64 g d a s)
  | .stRel32 g d a s => some (opStRel32 g d a s)
  | .stRel64 g d a s => some (opStRel64 g d a s)
  | .ldSc g d a w => some (opLdSc g d a w)
  | .stSc g d a w => some (opStSc g d a w)
  | .amoSc g d a b w => some (opAmoSc g d a b w)
  | .tld g d a b f => some (opTld g d a b f)
  | .tldRaw g d a b => some (opTldRaw g d a b)
  | .tst g d a b => some (opTst g d a b)
  | .tstRaw g d a b => some (opTstRaw g d a b)
  | .st128 g s a imm => some (opSt128 g s a imm)
  | .oload g d a b f => some (opOload g d a b f)
  | .kld g k a imm => some (opKld g k a imm)
  | .kst g k a imm => some (opKst g k a imm)
  | .amoAdd g d a b w s => some (opAmoAdd g d a b w s)
  | .amoAnd g d a b w s => some (opAmoAnd g d a b w s)
  | .amoOr g d a b w s => some (opAmoOr g d a b w s)
  | .amoXor g d a b w s => some (opAmoXor g d a b w s)
  | .amoMinI g d a b w s => some (opAmoMinI g d a b w s)
  | .amoMinN g d a b w s => some (opAmoMinN g d a b w s)
  | .amoMaxI g d a b w s => some (opAmoMaxI g d a b w s)
  | .amoMaxN g d a b w s => some (opAmoMaxN g d a b w s)
  | .amoSwap g d a b w s => some (opAmoSwap g d a b w s)
  | .amoFaddF32 g d a b s => some (opAmoFaddF32 g d a b s)
  | .cas g d a b w s => some (opCas g d a b w s)
  | .cas128 g d a b s => some (opCas128 g d a b s)
  | .cp g a n => some (opCp g a n)
  | .cpq g a b => some (opCpq g a b)
  | .drainCp g n => some (opDrainCp g n)
  | .drainFar g => some (opDrainFar g)
  | .drainAll g => some (opDrainAll g)
  | .fenceAcq g s => some (opFenceAcq g s)
  | .fenceRel g s => some (opFenceRel g s)
  | .fenceFull g s => some (opFenceFull g s)
  | .fenceAcqPool g => some (opFenceAcqPool g)
  | .fenceRelPool g => some (opFenceRelPool g)
  | .fenceFullPool g => some (opFenceFullPool g)
  | .smap g n a b => some (opSmap g n a b)
  | .sunmap g n => some (opSunmap g n)
  | .swb g a b => some (opSwb g a b)
  | .sinv g a b => some (opSinv g a b)
  | .pf g a imm => some (opPf g a imm)
  | .pcommit g a => some (opPcommit g a)
  | .pfree g a => some (opPfree g a)
  | .pin g a => some (opPin g a)
  | .unpin g a => some (opUnpin g a)
  | .stTc g d a b w => some (opStTc g d a b w)
  | .tcadd g a b => some (opTcadd g a b)
  | .tpost g d a => some (opTpost g d a)
  | .tcset g d a => some (opTcset g d a)
  | .tcread g d a => some (opTcread g d a)
  | .tcancel g a => some (opTcancel g a)
  | .mcst g d a b w => some (opMcst g d a b w)
  | .mcstSeq g d a b w => some (opMcstSeq g d a b w)
  | .fabricLinkRecovery _ _ => none
  | .moduleAdmission _ => none
  | .poolPortLinkUp _ => none
  | .debuggerResume _ _ => none
  | .stopAll => none
  | .injectEcc _ _ => none

/-- The syllables of a decoded bundle in slot order. -/
def bundleOps (b : Bundle) : List (Nat × SlotOp) := b.syllables.filterMap fun x => (opOf x.instr).map fun o => (x.slot, o)

end Sys2Proof.Machine
end

