-- ==== Sys2Proof/Machine/Parity.lean ====
section
/-! DEFINITION. Register parity and the replay queue (R236, R237): what a bundle, a landing and a completion enter, and the repair
or the report of a read that finds an error. -/

namespace Sys2Proof.Machine

/-! ## What a syllable reads and writes -/

/-- The register a landing writes. -/
def Landing.dest : Landing → Option Dest
  | .tile n _ | .slotCode n _ _ => some (.tile n)
  | .scalar d _ => some (.sreg d.toNat)
  | .rim k _ => some (.rim k)
  | .latch _ => some .latch
  | _ => none

/-- A syllable that works from register to register: a scalar or vector slot that reads no system register. -/
def registerOp (slot : Nat) (x : SlotOp) : Bool :=
  (slot == 1 || slot == 3 || slot == 4) && x.reads.all fun d => match d with
    | .sys _ => false
    | _ => true

/-- The rims that factor codes name: of the tiles that a syllable reads, and for the matrix slot of every accumulator and operand slot. -/
def SlotOp.codes (slot : Nat) (x : SlotOp) (r : State) : List Nat :=
  let slots := fun (c : Slots) => [c.rsh.toNat, c.rsc.toNat, c.csh.toNat, c.csc.toNat]
  let tiles := x.reads.flatMap fun d => match d with
    | .tile n => slots (getTile r n).slots
    | _ => []
  let matrix := r.task.accs.flatMap (fun a => [a.2.rsc.toNat, a.2.csc.toNat]) ++ r.core.oslots.flatMap fun o => slots o.2.codes
  ((tiles ++ if slot = 5 then matrix else []).filter (· < 64)).eraseDups

/-- The rims that a syllable reads through factor codes: those which it would wait for (R160). -/
def SlotOp.factorRims (slot : Nat) (x : SlotOp) (r : State) : List Nat :=
  (x.codes slot r).filter fun k =>
    match x.check ⟨slot, 0, []⟩ (setRim r k { getRim r k with state := .pending 6 0 }) with
    | .freeze (.rim j _) => j == k
    | _ => false

/-- The registers that carry parity or a version among those a syllable reads: its guard, those that it names, and the rims of the factors
that it applies. -/
def SlotOp.sources (slot : Nat) (x : SlotOp) (r : State) : List Dest :=
  ((Dest.pred x.guard.toNat :: x.reads ++ oddTiles r x.reads ++ (x.factorRims slot r).map Dest.rim).filter fun d => d.key.isSome).eraseDups

/-- The destinations that a syllable has written at once, once its effect from the read point is `y`: not what is in flight, owed, or
lost to a fault. -/
def SlotOp.wrote (x : SlotOp) (r y : State) : List Dest :=
  if y.task.cancel ≠ r.task.cancel then []
  else
    let air := (y.task.inflight.drop r.task.inflight.length).flatMap fun e => e.results.filterMap Landing.dest
    let owed := y.task.owed.filterMap fun o => match o.kind with
      | .reduction k .. => some (Dest.rim k)
      | .access .. => none
    let left := air ++ owed ++ openDests y.task
    (x.dests ++ (x.tagDests r).map Dest.tile).filter fun d => d.key.isSome && !left.contains d

/-- The value a register holds, as a result rewrites it. -/
def regValue (t : Task) (d : Dest) : Option RegValue :=
  match d with
  | .sreg n => some (.sreg n (smGet 0 t.sregs n))
  | .pred n => some (.pred n (t.preds.getLsbD n))
  | .tile n => some (.tile n (smGet Tile.initial t.tiles n).data)
  | .rim k => some (.rim k (smGet Rim.initial t.rims k).vals)
  | _ => none

/-! ## The replay queue (R236) -/

/-- The last 32 results stay. -/
def Task.enter (t : Task) (e : ReplayResult) : Task :=
  let l := t.replayQueue ++ [e]
  { t with replayQueue := l.drop (l.length - 32) }

/-- A result is entered as its register holds it. -/
def Task.enterValue (t : Task) (pc : Word) (slot : Nat) (sources : List (Dest × Nat)) (d : Dest) : Task :=
  match regValue t d with
  | some v => t.enter ⟨pc, slot, v, sources, true⟩
  | none => t

/-- What a live slot of an issued bundle leaves: the writes that it has made, with their entries, and what it has read for those that
have still to land. `r` is the read point; a `kpend` is never entered. -/
def trackSlot (link : Word) (r : State) (t : Task) (x : Nat × SlotOp) : Task :=
  let y := x.2.eff ⟨x.1, link, []⟩ r r
  let wrote := x.2.wrote r y
  let sources := (x.2.sources x.1 r).map fun d => (d, r.task.version d)
  let later := y.task.inflight.length != r.task.inflight.length || y.task.owed.any fun o => match o.kind with
    | .reduction .. => !r.task.owed.contains o
    | .access .. => false
  let t1 := wrote.foldl (fun t d =>
    let t := t.noteWrite d
    match registerOp x.1 x.2, d with
    | true, .rim _ => t
    | true, d => t.enterValue r.task.pc x.1 sources d
    | false, _ => t) t
  if registerOp x.1 x.2 && later then { t1 with issuedReads := t1.issuedReads ++ [⟨r.task.pc, x.1, sources⟩] } else t1

/-- The bundle has issued: its frame runs on, one bundle time further. -/
def issuedFrom (before after : State) : Bool :=
  after.active == before.active && after.core.run == before.core.run && after.task.bt == before.task.bt + 1

/-- Note what a bundle that has issued from the read point `r` has written (R236). -/
def trackIssue (o : Origin) (b : List (Nat × SlotOp)) (r s : State) : State :=
  if issuedFrom r s then { s with task := (live r b).foldl (trackSlot (nextPosition o r.task.pc) r) s.task } else s

/-- An operation that has issued lands or completes: what it read. -/
def Task.takeReads (t : Task) (pc : Word) (slot : Nat) : Option IssuedRead × Task :=
  match t.issuedReads.find? fun x => x.pc == pc && x.slot == slot with
  | some x => (some x, { t with issuedReads := t.issuedReads.erase x })
  | none => (none, t)

/-- Registers are written by an operation that landed or completed; its results are entered where its syllable was one from register
to register. A changed slot code leaves a tile's containers. -/
def Task.noteResults (t : Task) (pc : Word) (slot : Nat) (l : List Landing) (written : Bool) : Task :=
  let r := t.takeReads pc slot
  if !written then r.2
  else
    l.foldl (fun t x => match x, x.dest with
      | .slotCode n _ _, _ => t.advanceVersion (.tile n)
      | _, some d =>
        let t1 := t.noteWrite d
        (match r.1 with
        | some i => t1.enterValue pc slot i.sources d
        | none => t1)
      | _, none => t) r.2

/-- Note the writes of accesses and waits that were open and are so no longer (R236): a fault or a cancel writes nothing. -/
def trackOpen (before s : State) : State :=
  if s.task.cancel ≠ before.task.cancel then s
  else
    let gone := (openDests before.task).filter fun d => !(openDests s.task).contains d
    { s with task := gone.foldl Task.noteWrite s.task }

/-! ## A read that finds an error (R237) -/

/-- Rewrite a register's damaged part. -/
def Task.rewrite (t : Task) (v : RegValue) : Task :=
  match v with
  | .sreg n w => { t with sregs := putS t.sregs n w }
  | .pred n b => { t with preds := putP t.preds n b }
  | .tile n d => { t with tiles := smSet Tile.initial t.tiles n { smGet Tile.initial t.tiles n with data := d } }
  | .rim k d => { t with rims := smSet Rim.initial t.rims k { smGet Rim.initial t.rims k with vals := d } }

/-- Repair a register by the newest entry for it, where the register still holds that result and every version that it read is current; a
source that is damaged itself is repaired first. -/
def repair (fuel : Nat) (d : Dest) (t : Task) : Option Task :=
  match fuel with
  | 0 => none
  | n + 1 =>
    match t.replayQueue.reverse.find? fun e => e.value.dest == d with
    | none => none
    | some e =>
      if e.current && e.sources.all fun x => t.version x.1 == x.2 then
        let bad := (e.sources.map Prod.fst).filter t.parityBad.contains
        (bad.foldlM (fun (t : Task) x => if t.parityBad.contains x then repair n x t else some t) t).map fun (t : Task) =>
          { t.rewrite e.value with parityBad := t.parityBad.filter (· ≠ d) }
      else none

/-- The reads of a bundle that find a parity error, by slot: those of its live slots, and every guard. -/
def badReads (r : State) (b : List (Nat × SlotOp)) : List (Nat × Dest) :=
  b.flatMap fun x =>
    ((if getP r x.2.guard then x.2.sources x.1 r else [.pred x.2.guard.toNat]).filter r.task.parityBad.contains).map fun d => (x.1, d)

/-- A slot that has read an uncorrectable error does nothing: it cancels the phase, or traps with the PC of its bundle. -/
def SlotOp.spoiled (x : SlotOp) : SlotOp :=
  .simple 0 [] [] noCheck fun c r s => consumeError s c.slot r.task.pc r.task.pc []

/-- The slots of a bundle as they issue: those that read what cannot be repaired are spoiled. -/
def checkedOps (b : List (Nat × SlotOp)) (o : Origin) (s : State) : List (Nat × SlotOp) :=
  let bad := if s.task.parityBad.isEmpty then [] else badReads (arrive o s) b
  b.map fun x => if bad.any fun y => y.1 == x.1 then (x.1, x.2.spoiled) else x

/-- A register that the bundle reads is repaired first. -/
def repairFor (b : List (Nat × SlotOp)) (o : Origin) (s : State) : Option Task :=
  if s.task.parityBad.isEmpty then none else (badReads (arrive o s) b).findSome? fun x => repair 32 x.2 s.task

/-- Issue a bundle whose reads check parity: a repair takes a frozen tick and is logged. -/
def issueChecked (b : List (Nat × SlotOp)) (sp : Bool) (skip : Nat) (o : Origin) (s : State) : State :=
  match repairFor b o s with
  | some t => logError { s with task := t, tick := s.tick + 1 } (dieOf s.active)
  | none =>
    let ops := checkedOps b o s
    trackIssue o ops (arrive o s) (issueBundle ops sp skip o s)

/-! ## Uncorrectable errors (R113, R216, R235, R236, R343) -/

/-- What an error strikes reads with that error from now on. -/
def strike (u : Upset) (s : State) : State :=
  match u with
  | .register g pos d =>
    (match d with
    | .sreg _ | .pred _ | .tile _ | .rim _ =>
      if d.key.isSome then updFrame s g pos fun t => { t with parityBad := d :: t.parityBad.filter (· ≠ d) } else s
    | _ => s)
  | .accumulator g pos n e =>
    if n < 8 ∧ e < 256 then
      updFrame s g pos fun t =>
        let a := smGet Acc.initial t.accs n
        { t with accs := smSet Acc.initial t.accs n { a with bad := e :: a.bad.filter (· ≠ e) } }
    else s
  | .operand g p k =>
    if p < 64 ∧ k < 128 then
      updCore s g fun c =>
        let o := smGet OSlot.initial c.oslots p
        { c with oslots := smSet OSlot.initial c.oslots p { o with bad := k :: o.bad.filter (· ≠ k) } }
    else s
  | .snapshot g pos => updFrame s g pos fun t => { t with snapBad := t.snapBad || snapCount t != 0 }
  | .scratch g x =>
    if x < 32768 then updCore s g fun c => { c with eccBad := if c.eccBad.contains x then c.eccBad else c.eccBad ++ [x] } else s
  | .memory d pa => if d < 4 ∧ pa < dieBytes s d then markLine s (Place.dram d pa).key else s
  | .table g e => if e < 512 then updCore s g fun c => { c with btabBad := e :: c.btabBad.filter (· ≠ e) } else s
  | .record va =>
    { s with clusters := s.clusters.map fun k => (k.1, { k.2 with saved := k.2.saved.map fun x =>
        if x.record = va then { x with bad := true } else x }) }

end Sys2Proof.Machine
end

