-- ==== Sys2Proof/Machine/Sequencer.lean ====
section
/-! DEFINITION. The events of a core's sequencer: bundles and references (R43, R47), SKIP (R45), landings (R94, R95), completions
(R96, R364), stash fills (R231), waits (R101, R141), the slot wheel (R336), phase cancels (R241), trap entry (R108), the quantum
(R261) and the debugger (R87, R88). -/

namespace Sys2Proof.Machine

/-- An event whose precondition does not hold. -/
def notDue : Result := .refused .notEnabled

/-- An attempt that a home holds has asked other modules for something. -/
def asksMore (before after : State) : Bool := { keepAsks before after with nextOwed := before.nextOwed } != before

/-- What an event touches is held at its home: the event is not due, but what other modules must do first has been asked of them. -/
def heldEnd (st s : State) : Result := if asksMore st s then .next (keepAsks st s) else notDue

/-! ## Landings (R94, R95) -/

/-- AMAX after a `vcvq` (R177). -/
def amaxAfter (w : Word) (nan : Bool) (largest : BitVec 32) : Word :=
  let w1 := if bits w 0 31 < largest.toNat then setBits w 0 32 largest.toNat else w
  if nan then setBits w1 32 1 1 else w1

/-- A landing writes its destination. -/
def applyLanding (e : Exposed) (s : State) (l : Landing) : State :=
  match l with
  | .tile n t => { s with task := { s.task with tiles := smSet Tile.initial s.task.tiles n t } }
  | .slotCode n sel code =>
    let t := getTile s n
    if isFactor code && !isFloatTag t.tag.toNat then s
    else
      let slots := t.slots.setPos (sel + 1) code
      let t1 : Tile := ⟨t.tag, slots, t.ovp && factored slots, t.data⟩
      { s with task := { s.task with tiles := smSet Tile.initial s.task.tiles n t1 } }
  | .scalar d v => { s with task := { s.task with sregs := putS s.task.sregs d.toNat v } }
  | .rim k v => { s with task := { s.task with rims := smSet Rim.initial s.task.rims k ⟨.ready, v⟩ } }
  | .latch rows => { s with task := { s.task with slatch := smOfFn 0 16 fun i => rows.getD i 0 } }
  | .quant nan largest sat =>
    { s with task := { s.task with amax := amaxAfter s.task.amax nan largest,
                                   fpcsr := if sat then setBits s.task.fpcsr 13 1 1 else s.task.fpcsr } }
  | .store va b => attemptAccess e.slot e.pc (.store va b) (laneOf s.task 0) false s
  | .storeRaise va b name lane => issueAccess e.slot e.pc (.storeThenRaise va b name) lane false s

/-- A trap or a cancel waits for the frame's operations. -/
def Task.trapPending (t : Task) : Bool := t.trapping.isSome || !t.detected.isEmpty || t.cancel.isSome

/-- An `exit` or an `eret` waits for the frame's interlocked operations and will then discard its results in flight (R139, R147). -/
def Task.ending (t : Task) : Bool := (t.flow == .exit || t.flow == .eret) && !t.trapPending

/-- The exposed result that is due first, in issue order. Before an `exit` or `eret` only a store that raises a counter lands. -/
def dueResult (t : Task) : Option Exposed :=
  t.inflight.find? fun e => decide (e.due ≤ t.bt.toNat) && (!t.ending || e.results.any Landing.raises)

/-- A due result lands: its flags rise, and it writes or traps under FPCSR as it stands (R23, R170). -/
def landResult (e : Exposed) (s : State) : State :=
  let s1 := complete e.slot e.pc e.forced e.ovpHit e.flags (fun s => e.results.foldl (applyLanding e) s)
    { s with task := { s.task with inflight := s.task.inflight.erase e } }
  { s1 with task := s1.task.noteResults e.pc e.slot e.results (verdict s.task.fpcsr e.forced e.ovpHit e.flags).isNone }

/-- Every due result lands. -/
def landDue (fuel : Nat) (s : State) : State :=
  match fuel with
  | 0 => s
  | n + 1 => match dueResult s.task with
    | some e => landDue n (landResult e s)
    | none => s

/-- EXPOSED_RESULT_LANDS. -/
def execExposedResultLands (st : State) : Result :=
  match st.core.run, dueResult st.task with
  | some _, some e => .next (landResult e st)
  | _, _ => notDue

/-! ## Completions (R96, R158, R364) -/

/-- A reduction completes (R158): its rim is READY, with its values, or where it traps with what it held before (R182). -/
def completeReduction (o : Owed) (k : Nat) (vals old : SMap (BitVec 32)) (flags : BitVec 5) (forced ovpHit : Bool) (s : State) : State :=
  let s1 := complete o.slot o.pc forced ovpHit flags (fun s => setRim s k ⟨.ready, vals⟩) (setRim s k ⟨.ready, old⟩)
  { s1 with task := s1.task.noteResults o.pc o.slot [.rim k vals] (verdict s.task.fpcsr forced ovpHit flags).isNone }

/-- After accesses or waits of the running frame have moved on: what they wrote is noted (R236), and the checkpoint of a `phase.begin`
takes what its own bundle's slots owed it (R145). -/
def settle (before s : State) : State := syncCheckpoint (trackOpen before s)

/-- The wait for an owed operation. -/
def Wait.onReply (id : Nat) (w : Wait) : Bool :=
  match w.kind with
  | .reply i => i == id
  | _ => false

/-- What an owed operation goes on to wait for parks only where its bundle might. -/
def parkLike (o : Owed) (before s : State) : State :=
  { s with task := { s.task with
      waits := s.task.waits.map fun w => if before.task.waits.contains w then w else w.parkIf o.park
      owed := s.task.owed.map fun x => if before.task.owed.contains x then x else x.parkIf o.park } }

/-- An owed operation of the running frame completes: a reduction; an access that its home held, performed now unless an earlier one
must precede it (R314, R323, R335); or an access that another module has answered. -/
def completeOwed (r : Reply) (o : Owed) (s : State) : State :=
  match o.kind with
  | .reduction k vals old flags forced ovpHit => completeReduction o k vals old flags forced ovpHit (dropOwed s o.id)
  | .access a k target =>
    if target = s.moduleId.toNat then
      let before := s.task.owed.takeWhile fun x => x.id != o.id
      if behindOwed s before (a.touches s) || a.queued s o.id || rootHolds s before a then s
      else settle s (parkLike o s (endReplyWait (carryOn o a s)))
    else settle s (parkLike o s (answerOwed o a k target r s))

/-- The frame that owes an operation. -/
def findOwed (s : State) (id : Nat) : Option (Nat × Nat × Owed) :=
  (allFrames s).findSome? fun e => (e.2.2.owed.find? fun o => o.id == id).map fun o => (e.1, e.2.1, o)

/-- Change every copy of the module. -/
def mapJobs (s : State) (f : CopyJob → CopyJob) : State :=
  let fix := fun (m : SMap (List CopyJob)) => m.map fun e => (e.1, e.2.map f)
  let s1 := (touchedCores s).foldl (fun s g => updCore s g fun c => { c with channels := fix c.channels }) s
  { s1 with clusters := s1.clusters.map fun k => (k.1, { k.2 with queueJobs := fix k.2.queueJobs }),
            dies := s1.dies.map fun d => (d.1, { d.2 with trigStream := d.2.trigStream.map f }) }

/-- A member has answered for a copy of a sequenced write (R374): the first fault is kept, with its member as DETAIL. -/
def RootWrite.answered (id : Nat) (r : Reply) (w : RootWrite) : RootWrite :=
  match w.asked.find? fun x => x.1 == id with
  | none => w
  | some (_, m) =>
    { w with
      asked := w.asked.filter fun x => x.1 != id
      fault := w.fault.or (match r with
        | .data _ => none
        | .error c _ | .nack c => some (c, BitVec.ofNat 16 m)) }

/-- A write with every copy acknowledged is acknowledged to its source: an error where a copy faulted. -/
def closeRoots (s : State) : State :=
  let done := s.rootWrites.filter fun w => w.asked.isEmpty
  let reply := fun (w : RootWrite) => Outbox.reply w.source w.core w.frame w.stream (match w.fault with
    | some (c, d) => .error c d
    | none => .data [])
  { s with rootWrites := s.rootWrites.filter fun w => !w.asked.isEmpty, outbox := s.outbox ++ done.map reply }

/-- Another module has answered for an increment that an engine raises there: an error is logged (R377, R386). -/
def answerNotice (id : Nat) (r : Reply) (s : State) : State :=
  match s.notices.find? fun n => n.id == id with
  | none => s
  | some n =>
    let s1 := { s with notices := s.notices.filter fun x => x.id != id }
    match r with
    | .data _ => s1
    | .error c _ | .nack c => logFailure s1 n.die n.handle c n.name

/-- What zqdbg prints for an answer (R414). -/
def Printed.ofReply : Reply → Printed
  | .data b => .word (BitVec.ofNat 64 (leNat (b.take 8)))
  | .error c d => ofFault c d
  | .nack c => .fault c
where
  /-- A pool region that serves nothing is named by its STATE. -/
  ofFault (c : BitVec 8) (d : BitVec 16) : Printed :=
    if c = causeRegion ∧ d = 1 then .region 3 else if c = causeRegion ∧ d = 2 then .region 0 else .fault c

/-- Another module has answered for the word that zqdbg prints. -/
def answerPrint (id : Nat) (r : Reply) (s : State) : State :=
  if s.printed = .awaiting id then { s with printed := Printed.ofReply r } else s

/-- The first answer for an engine's request is kept with what asked: a copy, a posted operation, an image, a queue slot, a root's write, a
window line, an increment. -/
def answerEngine (s : State) (id : Nat) (r : Reply) : State :=
  let mine := fun (awaiting : Option Nat) (answer : Option Reply) => awaiting == some id && answer.isNone
  let s1 := mapJobs s fun j => if mine j.awaiting j.answer then { j with answer := some r } else j
  let s1 := closeRoots { s1 with rootWrites := s1.rootWrites.map (RootWrite.answered id r) }
  let s2 := (touchedCores s1).foldl (fun s g => updCore s g fun c =>
    { c with image := c.image.map fun i => if mine i.awaiting i.answer then { i with answer := some r } else i }) s1
  let voids := fun (k : Cluster) =>
    { k with voids := k.voids.map fun v => if mine v.awaiting v.answer = true then { v with answer := some r } else v }
  answerPrint id r <| answerNotice id r (answerLines id r { s2 with
    clusters := s2.clusters.map fun k => (k.1, voids k.2)
    dies := s2.dies.map fun d => (d.1, { d.2 with posted := d.2.posted.map fun p =>
      (p.1, if mine p.2.awaiting p.2.answer then { p.2 with answer := some r } else p.2) }) })

/-- The 32-byte sectors of a line whose mask bits are set are written back. -/
def storeMasked (m : Memory) (home mask : Nat) (b : List Byte) : Memory :=
  (List.range 4).foldl (fun m i => if mask.testBit i then memStore m (home + 32 * i) ((b.drop (32 * i)).take 32) else m) m

/-- A holder has answered a back-invalidation (R366): the masks of its dirty sectors and of those with an uncorrectable error (R235), and
the line; or nothing dirty. -/
def answerHolders (id : Nat) (r : Reply) (s : State) : State :=
  (s.holders.filter fun h => (h.asked.map (·.1)) == some id).foldl (fun s h =>
    let masks := match r with
      | .data (m :: _ :: _) => m.toNat
      | _ => 0
    let dirty := masks % 16
    let bad := masks / 16
    let b := match r with
      | .data (_ :: b) => (List.range 128).map fun i => b.getD i 0
      | _ => []
    let s1 := { s with mem := storeMasked s.mem h.home (Nat.xor dirty (Nat.land dirty bad)) b }
    let s2 := if Nat.land dirty bad ≠ 0 then markLine s1 h.home else if dirty = 15 then cleanLine s1 h.home else s1
    { s2 with holders := s2.holders.filterMap fun x =>
        if x = h then (if h.asked = some (id, true) then none else some { x with exclusive := false, asked := none }) else some x }) s

/-- A die in warm reset serves what it had admitted, and what its own engines do, after its links have stopped taking requests (R344). -/
def openDie (d : Nat) (s : State) : State := updDie s d fun k => { k with online := true }

def shutDie (d : Nat) (s : State) : State := updDie s d fun k => { k with online := false }

def insideDie (d : Nat) (f : State → State) (s : State) : State := shutDie d (f (openDie d s))

/-- The die in warm reset that has admitted a request. -/
def admittedBy (s : State) (p : Die → Bool) : Option Nat := (List.range 4).find? fun d => !(getDie s d).online && p (getDie s d)

/-- What an owed operation comes to where a die in warm reset had admitted it: it completes normally (R348). -/
def asAdmitted (id : Nat) (f : State → State) (s : State) : State :=
  match admittedBy s fun k => k.admitted.contains id with
  | some d => insideDie d f s
  | none => f s

/-- INTERLOCKED_COMPLETION. An answer to a request that has been given up has no effect. -/
def execInterlockedCompletion (id : Nat) (reply : Reply) (st : State) : Result :=
  match findOwed st id with
  | some (g, pos, o) =>
    if o.held then notDue else .next (releaseHeld g pos (withFrame g pos (asAdmitted id (completeOwed reply o)) st))
  | none => if 0 < id ∧ id ≤ st.nextOwed then .next (flushRecords (answerHolders id reply (answerEngine st id reply))) else notDue

/-! ## Stash fills (R231, R316) -/

/-- The first fill of a core that is under way and answers to no owed request. -/
def nextFill (c : Core) : Option Fill := c.fills.find? fun f => f.failed.isNone && f.request.isNone

/-- The fill of the core still has something to do. -/
def fillWanted (c : Core) (f : Fill) : Bool :=
  (windowAtOff c (f.line * 128)).isSome && (match smFind c.lines f.line with
    | some ln => f.upgrade && !ln.exclusive
    | none => !f.upgrade)

/-- The page of an address is being moved (R314): a `pf` to it is dropped. -/
def pageMoves (s : State) (g : Nat) (va : Word) : Bool :=
  match translatorNow s (Agent.ofCore g) va with
  | some (t, v) => (match leafNow t va s v with
    | .ok c => leafMig c.entry != 0
    | .error _ => false)
  | none => false

/-- A fill ends, unless its home holds it. A prefetch of a page that moves is dropped (R314). -/
def fillStep (core : Nat) (f : Fill) (reply : Reply) (st : State) : Result :=
  let va := lineVa (getCore st core) f.line
  if !fillWanted (getCore st core) f then .next (endFill st core f)
  else if !f.demand && pageMoves st core va then .next (endFill st core f)
  else if queuedBehind st (st.nextOwed + 1) f.upgrade [(va, 128)] then notDue
  else
    match translate (Agent.ofCore core) .read va st with
    | .remote _ _ => .next (remoteFill st core f va reply)
    | _ =>
      match if f.upgrade then upgradeLine st core f.line else fillLine st core f.line with
      | .ok _ s1 => .next (endFill s1 core f)
      | .fault r s1 => .next (failFill s1 core f r.cause r.detail)
      | .remote _ s1 => .next (remoteFill s1 core f va reply)
      | .held s1 => heldEnd st s1

/-- STASH_FILL: the fill that began first ends; one that a die in warm reset had admitted ends normally (R348). -/
def execStashFill (core : Nat) (reply : Reply) (st : State) : Result :=
  match nextFill (getCore st core) with
  | none => notDue
  | some f =>
    match admittedBy st fun k => k.filling.contains (core, f.line) with
    | some d => match fillStep core f reply (openDie d st) with
      | .next s1 => .next (shutDie d s1)
      | x => x
    | none => fillStep core f reply st

/-! ## SC operations at their core's position (R336) -/

/-- SC operations perform in slot order, all in one tick: where a home does not serve one of them now, none does. One that a window leads
to another module has no place there (R337). -/
def performSc (pc : Word) : List Replay → State → Got Unit
  | [], s => .ok () s
  | x :: rest, s =>
    match performAccess x.slot pc x.lane x.access s with
    | .ok _ s1 => performSc pc rest (watched x.access s s1)
    | .fault f s1 => performSc pc rest (detectFault s1 x.slot pc f [x])
    | .remote _ _ => performSc pc rest (detectFault s x.slot pc ⟨causeTranslation, 6, x.access.va⟩ [x])
    | .held s1 => .held s1

/-- The running frame's SC operations perform, or wait for the core's next position. -/
def performWheel (s : State) : State :=
  let s1 := landDue s.task.inflight.length s
  match s1.task.waits.findSome? fun w => w.kind.scOps.map fun l => (w, l) with
  | some (w, l) =>
    match performSc w.pc l s1 with
    | .ok _ s2 => settle s1 { s2 with task := s2.task.endWaits (· == w) s2.tick }
    | .held s2 => keepAsks s1 s2
    | _ => s1
  | none => s1

/-! ## Bundles, references, SKIP -/

/-- The frame may issue its next bundle. -/
def mayIssue (t : Task) : Bool :=
  t.waits.isEmpty && t.skip == 0 && t.trapping.isNone && t.detected.isEmpty && t.cancel.isNone && t.flow == .next
    && (dueResult t).isNone && !checkpointOwed t

/-- The replay entries are performed again, in order; what they owe is waited for, and none of them parks the task (R110). -/
def performReplays (s : State) : State :=
  let s1 := s.task.replays.foldl (fun s x => issueAccess x.slot s.task.pc x.access x.lane true s)
    { s with task := { s.task with replays := [] } }
  settle s (parkOnly false s1)

/-- A bundle uses what the replay entries have still to write. -/
def usesReplays (r : State) (b : List (Nat × SlotOp)) : Bool :=
  let left := r.task.replays.flatMap fun x => x.access.dests
  b.any fun x => left.contains (.pred x.2.guard.toNat) || (x.2.uses r).any left.contains

/-- A bundle issues with the replay entries that have been performed for it: they leave no cancel, no place on the slot wheel, and no wait
beside its own. -/
def joinsReplays (s : State) (b : List (Nat × SlotOp)) : Bool :=
  s.task.cancel.isNone && !(s.task.waits.any fun w => w.kind.scOps.isSome)
    && (s.task.waits.isEmpty || b.all fun x => x.1 != 2 && x.1 < 6)

/-- An SC operation that issues as the wheel stands at its core's position performs in that tick (R336). -/
def wheelAtIssue (before s : State) : State :=
  if before.tick % 1024 = before.active ∧ issuedFrom before s = true ∧ (s.task.waits.any fun w => w.kind.scOps.isSome) ∧ owedAccesses s.task = 0
  then performWheel s else s

/-- Issue what the latch holds. The replay entries are performed as it issues (R110): before it, where it needs what they write. -/
def issueLatched (b : Bundle) (o : Origin) (s : State) : State :=
  let ops := bundleOps b
  if s.task.replays.isEmpty then wheelAtIssue s (issueChecked ops b.sp b.skip o s)
  else if usesReplays s ops then performReplays s
  else if (repairFor ops o s).isSome || !issuesNow (checkedOps ops o s) o s then issueChecked ops b.sp b.skip o s
  else
    let s1 := performReplays s
    if joinsReplays s1 ops then wheelAtIssue s1 (issueChecked ops b.sp b.skip o s1) else s1

/-- A breakpoint stops the core in front of what it would do now (R87): at its position, at the table entry that it is about to issue,
or at its bundle time; not where the debugger has just resumed it. -/
def stopsHere (s : State) : Bool :=
  s.core.passBreak != s.core.run.map (fun p => (p, s.task.pc, s.task.bt)) && s.breaks.any fun x => match x.2 with
    | .position pc => s.task.skip == 0 && pc == s.task.pc
    | .entry table n => s.task.skip == 0 && (match s.task.latch with
      | .reference e .. => table == s.core.btabVa && n == e
      | _ => false)
    | .bundleTime c n => c == s.active && n == s.task.bt.toNat
    | .watch .. => false

/-- The core stops in front of its next bundle. -/
def stopCore (s : State) : State := { s with core := { s.core with stopped := true } }

/-- The trap of a fetch or a decode (R47, R55), or of a table entry with a parity error (R113). -/
def latchTrap (cause : BitVec 8) (info : BitVec 10) (detail : BitVec 16) (va : Word) (s : State) : State :=
  raiseTrap ⟨cause, detail, (info.extractLsb' 0 9).toNat, info.getLsbD 9, cause = causeParity, va, s.task.pc⟩ s

/-- The trap is one of a fetch, of the issue class (R113). -/
def fetchCause (c : BitVec 8) : Bool := decide (causeTranslation.toNat ≤ c.toNat) && decide (c.toNat ≤ causeAttribute.toNat)

/-- FULL_BUNDLE: the decoded bundle issues, or its fetch or decode traps. A due SAFEPOINT_OVERRUN comes before the trap of a fetch, as before
the issue checks (R416); a decode trap of the next bundle comes before it, and its `eret` restarts the count, where R103 leaves their order
open (DESIGN CHOICE, log 74). -/
def execFullBundle (st : State) : Result :=
  match st.core.run with
  | none => .fault .noRunningFrame
  | some _ =>
    if !mayIssue st.task || st.core.stopped then notDue
    else if stopsHere st then .next (stopCore st)
    else
      match st.task.latch with
      | .full b => .next (issueLatched b .full st)
      | .trap c info d va => .next (if overrun st.task && fetchCause c then issueTrap causeOverrun 0 0 0 st else latchTrap c info d va st)
      | _ => notDue

/-- REFERENCE: a bundle-table entry issues once. -/
def execReference (st : State) : Result :=
  match st.core.run with
  | none => .fault .noRunningFrame
  | some _ =>
    if !mayIssue st.task || st.core.stopped then notDue
    else if stopsHere st then .next (stopCore st)
    else
      match st.task.latch with
      | .reference entry n last b => .next (issueLatched b (.reference entry n last) st)
      | _ => notDue

/-- SKIP: one empty bundle time (R45, R93), once what is due has landed and nothing else comes first. -/
def execSkip (st : State) : Result :=
  if st.core.run.isNone || st.task.skip == 0 || st.core.stopped || (dueResult st.task).isSome || st.task.trapPending || st.task.ending
      || checkpointOwed st.task then notDue
  else if stopsHere st then .next (stopCore st)
  else
    .next { st with
      tick := st.tick + 1
      core := { st.core.countStep with passBreak := none }
      task := { st.task with bt := st.task.bt + 1, skip := st.task.skip - 1, sinceSp := st.task.sinceSp + 1,
                             quantum := st.task.quantum + 1 } }

/-! ## Waits -/

/-- RIM_WAIT_PARK: the frame parks in front of its bundle (R101, R102). Where slots of the bundle wait for rims of which one wait never
parks, the first in slot order decides; the spec gives no order (DESIGN CHOICE, log 68). -/
def execRimWaitPark (st : State) : Result :=
  let parks := fun (k : Nat) (slot : Nat) =>
    let s1 := startWait (.rim k) none true slot st.task.pc { st with task := { st.task with rimWait := none, latch := .empty } }
    Host.Outcome.next (switchFrame s1)
  let latched := match st.task.latch with
    | .full b => some (b, Origin.full)
    | .reference e n l b => some (b, Origin.reference e n l)
    | _ => none
  match st.core.run, st.task.rimWait, latched with
  | some _, some since, some (b, o) =>
    if !st.core.stopped ∧ since + Config.rimParkTicks ≤ st.tick ∧ b.sp ∧ st.task.inflight.isEmpty ∧ snapCount st.task = 0 then
      match firstFreeze (nextPosition o st.task.pc) st (live st (bundleOps b)) with
      | some (.rim k true) => parks k 0
      | _ => notDue
    else notDue
  | _, _, _ => notDue

/-- A wait of `wait` or `tcwait`, whose read another module may still owe, whose deadline has passed. -/
def Wait.expired (tick : Nat) (w : Wait) : Bool :=
  (w.setsP1 || (match w.kind with
    | .reply _ => true
    | _ => false)) && (match w.deadline with
    | some d => decide (d ≤ tick)
    | none => false)

/-- An owed access is the read of a wait. -/
def Owed.ofWait (o : Owed) : Bool :=
  match o.kind with
  | .access (.waitWord ..) _ _ => true
  | .access (.counterWait ..) _ _ => true
  | _ => false

/-- WAIT_TIMEOUT: p1 becomes 0 (R141). -/
def execWaitTimeout (core pos : Nat) (st : State) : Result :=
  match getFrame st core pos with
  | none => notDue
  | some t =>
    if t.waits.any (Wait.expired st.tick) then
      .next (withFrame core pos (fun s =>
        let t1 := s.task.endWaits (Wait.expired s.tick) s.tick
        settle s (setP1 { s with task := { t1 with owed := t1.owed.filter fun o => !o.ofWait } } false)) st)
    else notDue

/-- A rerun of the core's phase cancel is still under way (R241). -/
def rerunsLeft (s : State) : Bool := s.core.channels.any fun e => e.2.any (·.rerun)

/-- The wait looks again: whether it ends now, with what it writes. -/
def lookAgain (w : Wait) (s : State) : State :=
  let done := fun (s : State) => { s with task := s.task.endWaits (· == w) s.tick }
  let ask := fun (a : Access) (lane : Lane) (m : BitVec 8) (s : State) =>
    if s.task.owed.any Owed.ofWait then s else oweAccess w.slot w.pc a lane m.toNat false s
  match w.kind with
  | .word va cond value timeout lane =>
    let a : Access := .waitWord va cond value timeout (if cond = 4 then some value else none) w.park
    match taskRead va 8 s with
    | .ok b s1 => if waitMet cond value (word (leNat b)) then setP1 (done s1) true else s1
    | .fault f s1 => detectAccess (done s1) w.slot w.pc f lane a
    | .remote m s1 => ask a lane m s1
    | .held s1 => s1
  | .counter name value timeout lane =>
    let a : Access := .counterWait name value timeout w.park
    match counterAt w.pc name s with
    | .ok di s1 => if value.toNat ≤ (getCounter s1 di.1 di.2).value.toNat then setP1 (done s1) true else s1
    | .fault f s1 => detectAccess (done s1) w.slot w.pc f lane a
    | .remote m s1 => ask a lane m s1
    | .held s1 => s1
  | .rim k => if rimPending s k then s else done s
  | .reruns => if rerunsLeft s then s else done s
  | _ => s

/-- WAIT_WAKEUP: the waits of a frame look again (R141). -/
def execWaitWakeup (core pos : Nat) (st : State) : Result :=
  match getFrame st core pos with
  | none => notDue
  | some t => if t.waits.isEmpty then notDue else .next (withFrame core pos (fun s => settle s (s.task.waits.foldl (fun s w => lookAgain w s) s)) st)

/-! ## The slot wheel (R336) -/

/-- The wheel's position belongs to a core that may use it, whose running frame waits for it with its earlier accesses visible. -/
def scFrame (s : State) : Option (Nat × Nat) :=
  let g := s.tick % 1024
  if decide (768 ≤ g) || !present s g || !(getDie s (dieOf g)).online then none
  else
    (getCore s g).run.bind fun p => (getFrame s g p).bind fun t =>
      if (t.waits.any fun w => w.kind.scOps.isSome) && owedAccesses t == 0 then some (g, p) else none

/-- SC_PERFORM: the wheel stands at a core's position, and the SC operations that its running frame waits with perform. -/
def execScPerform (st : State) : Result :=
  match scFrame st with
  | some (g, p) =>
    let s1 := withFrame g p performWheel st
    if waitKinds s1 g p = waitKinds st g p then heldEnd st s1 else .next s1
  | none => notDue
where
  /-- What a frame waits for. -/
  waitKinds (s : State) (g p : Nat) : Option (List WaitKind) := (getFrame s g p).map fun t => t.waits.map (·.kind)

/-! ## Phase cancels (R241) -/

/-- The scratchpad offset of packet (i, h) of the phase descriptor (R239). -/
def packetOffset (t : Task) (i h : Nat) : Nat := bits t.phasectl 8 12 * 256 + 128 * i + 64 * h

/-- The channel on which a declared input's packet reruns: the one of the `cp` that last issued it, else channel i (R241, R285). -/
def rerunChannel (s : State) (i : Nat) : Nat :=
  (smFind s.core.packetChannel (packetOffset s.task i (bits s.task.phasectl (40 + i) 1) / 64)).getD i

/-- A rerun of a declared input, on its packet's channel. A packet with an uncorrectable error cannot be read: it is logged, and there is
no rerun. -/
def startRerun (s : State) (i : Nat) : State :=
  let off := packetOffset s.task i (bits s.task.phasectl (40 + i) 1)
  if sectorBad s.core off 64 then logError (consumeBad s s.active off 64) (dieOf s.active)
  else
    let ch := rerunChannel s i
    let packet := memBytes s.mem (Place.scratch s.active off).key 64
    setChannel s s.active ch (channelOf s s.active ch ++ [CopyJob.ofPacket packet (some s.active) true])

/-- The inputs that the phase declares. -/
def declaredInputs (t : Task) : List Nat := (List.range 4).filter fun i => bits t.phasectl (32 + i) 1 = 1

/-- Every channel has room for the reruns that go to it (R277). -/
def rerunRoom (s : State) : Bool :=
  let l := (declaredInputs s.task).map (rerunChannel s)
  l.all fun ch => decide ((channelOf s s.active ch).length + l.count ch ≤ 8)

/-- The reruns of the declared inputs. -/
def startReruns (s : State) : State :=
  (declaredInputs s.task).foldl startRerun s

/-- The restored state of a cancel, steps 2 to 4. -/
def cancelPhase (c : Checkpoint) (s : State) : State :=
  let t := s.task
  { s with task := { t with
      sregs := c.sregs, preds := c.preds, pc := c.pc, repLeft := c.repLeft, skip := 0, inflight := [], heldCopies := [],
      detected := [], waits := [], cancel := none, latch := .empty, flow := .next, trapping := none, rimWait := none,
      stateWord := none, replayQueue := [], issuedReads := [],
      parityBad := t.parityBad.filter fun d => match d with
        | .sreg _ | .pred _ => false
        | _ => true
      phasectl := setBits t.phasectl 26 2 (bits t.phasectl 26 2 + 1) } }

/-- PHASE_CANCEL, once the channels have room for the reruns. The fourth cancel closes the phase and traps PHASE_REPEAT. -/
def execPhaseCancel (st : State) : Result :=
  match st.core.run, st.task.cancel, st.task.checkpoint with
  | some _, some at', some c =>
    if st.core.stopped || !st.task.owed.isEmpty || !st.task.waits.isEmpty then notDue
    else
      let s1 := cancelPhase c st
      if bits st.task.phasectl 26 2 = 3 then
        .next (detect { s1 with task := { s1.task with phasectl := setBits s1.task.phasectl 25 3 0, checkpoint := none } }
          ⟨causeRepeat, 0, 0, at', []⟩)
      else if !rerunRoom st then notDue
      else
        let s2 := startReruns s1
        .next (if rerunsLeft s2 then startWait .reruns none false 0 s2.task.pc s2 else s2)
  | _, _, _ => notDue

/-! ## Traps, flow and frames -/

/-- TRAP_ENTRY (R108): once the frame's interlocked operations are over and what is due has landed. -/
def execTrapEntry (st : State) : Result :=
  if st.core.run.isNone || st.core.stopped || !st.task.owed.isEmpty || !st.task.waits.isEmpty || (dueResult st.task).isSome then notDue
  else
    match st.task.trapping with
    | some r => .next (enterTrap r st.task.detected st)
    | none => if st.task.detected.isEmpty then notDue else .next (takeDetected st)

/-- `yield` hands the core to another ready frame of equal or higher class; where there is none it has no effect (R140). -/
def yieldFrame (s : State) : State :=
  if s.core.frames.any fun e => runnable e.2 && decide (e.2.effClass ≤ s.task.effClass) then switchFrame s else s

/-- The flow that a bundle left, once nothing is owed: an `exit` ends the task, an `eret` returns. Replay entries that an `eret` has
brought back are performed before an `exit` that was waiting ends (R110, R139). -/
def finishFlow (s : State) : State :=
  match s.task.flow with
  | .exit => if s.task.replays.isEmpty then endTask none s else performReplays s
  | .eret => returnTrap s.task.skip s
  | .yield => yieldFrame { s with task := { s.task with flow := .next } }
  | _ => s

/-- The frame stands in an effective safe point, its SKIP issued (R100, R102). -/
def atSafePoint (t : Task) : Bool :=
  t.atSafe && t.skip == 0 && t.inflight.isEmpty && snapCount t == 0 && t.trapping.isNone && t.detected.isEmpty
    && t.cancel.isNone && t.flow == .next

/-- QUANTUM_EXPIRY (R261). -/
def execQuantumExpiry (st : State) : Result :=
  if st.core.run.isSome && !st.core.stopped && atSafePoint st.task && st.task.waits.isEmpty && decide (Config.quantum ≤ st.task.quantum) then
    .next (switchFrame st)
  else notDue

/-- A resident frame of higher effective class is ready (R102, R260). -/
def higherReady (s : State) : Bool :=
  s.core.frames.any fun e => runnable e.2 && decide (e.2.effClass < s.task.effClass)

/-! ## The debugger (R87, R88) -/

/-- A frame is parked: it waits, off the core, or on it with nothing left that keeps it there (R102). -/
def frameParked (running : Bool) (t : Task) : Bool :=
  !t.waits.isEmpty && (!running || (t.skip == 0 && !t.trapPending && !t.ending && t.waits.all (·.park)))

/-- Only parked frames are on the core: `step` and `cont` are refused (R298). -/
def onlyParked (s : State) (g : Nat) : Bool :=
  !(residents s g).isEmpty && (residents s g).all fun e => frameParked ((getCore s g).run == some e.1) e.2

/-- Where the running frame of a core stands, for the breakpoint that it passes there. -/
def standsAt (s : State) (g : Nat) : Option (Nat × Word × Word) :=
  (getCore s g).run.bind fun p => (getFrame s g p).map fun t => (p, t.pc, t.bt)

/-- DEBUGGER_RESUME. -/
def execDebuggerResume (core : Nat) (steps : Option Nat) (st : State) : Result :=
  if (getCore st core).stopped && !onlyParked st core then
    .next (updCore st core fun c => match steps with
      | some 0 => c
      | n => { c with stopped := false, stepsLeft := n, passBreak := standsAt st core })
  else notDue

/-- An aligned word read at its home for the debugger, which changes no leaf (R414). -/
def debugRead (ag : Agent) (t : Translator) (v : Nat) (va : Word) (s : State) : Got (List Byte) :=
  awaitHolders (leafAsks t s v) false s fun s =>
    match leafNow t va s v with
    | .error f => .fault f s
    | .ok c =>
      let g := targetOf s t c v
      let bad := (leafCheck s t.tableDie t.isPool ag .read c.size c.entry (v - c.page)).or
        (if leafLoc c.entry then regionCheck s g.attr (leafFrame c.entry + (v - c.page)) else none)
      match bad with
      | some (cause, d) => .fault ⟨cause, d, va⟩ s
      | none => homeRead s g.key 8 va

/-- `print word` (R414): the 8 bytes as an acquire load of the selected core would read them at their home, a scratchpad's as they are. It
stops no core, and beside recalls it changes nothing. What other modules must give back first is asked for, and the command is given
again. -/
def printWord (g : Nat) (va : Word) (s : State) : State :=
  let ag := Agent.ofCore g
  let ask : Got (List Byte) :=
    if va.toNat % 8 ≠ 0 then .fault ⟨causeAlignment, 0, va⟩ s
    else match ag.space s va with
      | .scratch h off => .ok (memBytes s.mem (Place.scratch h off).key 8) s
      | .remote m _ _ => remoteFate s ag m va
      | .device d off =>
        if (getDie s d).online then debugRead ag (.die d (portOf s ag d)) off va s else .fault ⟨causeOffline, 0, va⟩ s
      | .pool pva => debugRead ag (.pool (bits s.poolrootLive 2 2)) pva va s
      | .nowhere => .fault ⟨causeTranslation, 0, va⟩ s
  match ask with
  | .ok b s1 => { s1 with printed := Printed.ofReply (.data b) }
  | .fault f s1 => { s1 with printed := Printed.ofReply (.error f.cause f.detail) }
  | .remote m s1 =>
    let q := askRemote s1 m va (.read 8)
    { q.2 with printed := .awaiting q.1 }
  | .held s1 => keepAsks s s1

/-- The debugger's `break`, `watch`, `delete` (R88) and `print word`: breakpoints are numbered from 1, in the order they are set. -/
def debugCommand (c : DebugCommand) (s : State) : State :=
  match c with
  | .set b => { s with breaks := s.breaks ++ [((s.breaks.foldl (fun n x => max n x.1) 0) + 1, b)] }
  | .delete n => { s with breaks := s.breaks.filter fun x => x.1 != n }
  | .printWord g va => printWord g va s

/-- STOP_ALL. -/
def execStopAll (st : State) : Result :=
  .next ((List.range 768).foldl (fun s g => if present s g then updCore s g fun c => { c with stopped := true } else s) st)

/-- INJECT_ECC: the sector's next read reports an uncorrectable error, once (R88). -/
def execInjectEcc (core offset : Nat) (st : State) : Result :=
  if st.debugMode && present st core then
    .next (updCore st core fun c =>
      { c with eccOnce := if c.eccOnce.contains (offset / 32) then c.eccOnce else c.eccOnce ++ [offset / 32] })
  else notDue

end Sys2Proof.Machine
end

