-- ==== Sys2Proof/Machine/Record.lean ====
section
/-! DEFINITION. Context records (R105, R106, R264, R265): what a record holds, saving a frame to one, and restoring a task from one;
and the writes of engines that answer to nobody. -/

namespace Sys2Proof.Machine

/-! ## Writes of engines -/

/-- A write that an engine makes: a fault is logged, also one that another module answers with. An error where its home holds it. -/
def engineWrite (ag : Agent) (logDie : Nat) (va : Word) (b : List Byte) (s : State) : Except State State :=
  (pageParts va b).foldl (fun acc p => acc.bind fun s =>
    match agentWrite ag p.1 p.2 s with
    | .ok _ s1 => .ok s1
    | .fault _ s1 => .ok (logError s1 logDie)
    | .remote m s1 =>
      let q := askRemote s1 m p.1 (.write p.2)
      .ok { q.2 with notices := q.2.notices ++ [⟨q.1, logDie, none, p.1⟩] }
    | .held s1 => .error s1) (.ok s)

/-- A word that an engine has written on another module is still to be acknowledged. -/
def wordPending (s : State) (logDie : Nat) (va : Word) : Bool :=
  va != 0 && s.notices.any fun n => n.die == logDie && n.handle.isNone && (pageParts va (List.replicate 8 0)).any fun p => p.1 == n.name

/-- An 8-byte word read by an engine. -/
def engineWord (ag : Agent) (va : Word) (s : State) : Except State (Word × State) :=
  match agentRead ag va 8 s with
  | .ok b s1 => .ok (word (leNat b), s1)
  | .held s1 => .error s1
  | _ => .error s

/-! ## What a record holds (R264) -/

/-- The distance of context records in the pool (R355). -/
def recordBytes : Nat := 0x160000

/-- The lowest free context record. -/
def freeRecord (k : Cluster) : Option Word :=
  ((List.range k.ctxCount).map fun i => k.ctxBase + word (i * recordBytes)).find? fun r => k.saved.all fun x => x.record != r

/-- The park kind, address, value and deadline of a wait as its record holds them (R264). -/
def parkFields (t : Task) : Nat × Nat × Nat × Word × Word × Word :=
  match t.waits with
  | [] => (0, 0, 0, 0, 0, 0)
  | w :: _ =>
    let d := match w.deadline with
      | some n => word n
      | none => BitVec.allOnes 64
    match w.kind with
    | .word va c v _ _ => (0, c, 0, va, v, d)
    | .counter n v _ _ => (1, 0, 0, n, v, d)
    | .hoop h p => (2, 0, 0, word h, word p, d)
    | .rim k => (3, 0, k, 0, 0, d)
    | _ => (0, 0, 0, 0, 0, d)

/-- The state word of a rim in a record (R264). -/
def rimRecord (r : Rim) : Word :=
  match r.state with
  | .ready => 0
  | .pending p b => word (1 + p * 2 + b % 2 ^ 32 * 2 ^ 32)

/-- The bytes of a slot of operand memory. -/
def slotBytes (o : OSlot) : List Byte := (List.range 4096).map fun i => smGet 0 o.data i

/-- The header words of a record. -/
def recordWords (s : State) (g : Nat) (t : Task) : List (Nat × Word) :=
  let p := parkFields t
  let member := t.hoops.filter fun h => (smGet Hoop.initial (getCluster s (clusterOf g)).hoops h).members.contains t.ident
  let sysRegs := [t.fpcsr, t.amax, word (leNat ((List.range 8).map fun i => smGet 0 t.slatch i)),
    word (leNat ((List.range 8).map fun i => smGet 0 t.slatch (8 + i))), t.frcnt, t.mfmt, t.discards, t.bt, t.taskctl, t.streamsel,
    t.phasectl, t.sfcm, t.prebound, t.trapcause, t.trappc, t.trapva, t.trapinfo, t.tvec]
  [(0, t.pc), (8, t.repLeft),
   (0x10, word (t.skip % 256 + (if t.supervisor then 2 ^ 8 else 0) + (if t.waits.isEmpty then 0 else 2 ^ 9) + t.prio * 2 ^ 10
     + p.1 * 2 ^ 12 + p.2.1 * 2 ^ 15 + p.2.2.1 * 2 ^ 19)),
   (0x18, word t.taskId.toNat), (0x20, word t.launchId.toNat), (0x28, word t.weight), (0x30, word t.quota.toNat),
   (0x38, word (coreNoOf g + clusterOf g % 4 * 2 ^ 6 + dieOf g * 2 ^ 8 + s.moduleId.toNat * 2 ^ 12 + t.regionOff / 2 ^ 16 * 2 ^ 32)),
   (0x40, p.2.2.2.1), (0x48, p.2.2.2.2.1), (0x50, p.2.2.2.2.2), (0x58, t.preds.setWidth 64),
   (0x60, word (member.foldl (fun a h => a + 2 ^ h) 0))]
  ++ ((List.range 64).map fun n => (0x100 + 8 * n, smGet 0 t.sregs n))
  ++ (sysRegs.zip (List.range 18)).map (fun x => (0x300 + 8 * x.2, x.1))
  ++ ((List.range 4).map fun n => (0x390 + 8 * n, smGet 0 t.ofs n))
  ++ ((List.range 4).map fun n => (0x3B0 + 8 * n, smGet 0 t.ofstep n))
  ++ ((List.range (tileQuota t)).map fun n => (0x400 + 8 * n, stateWordOf (smGet Tile.initial t.tiles n) false))
  ++ ((List.range (rimQuota t)).map fun n => (0x500 + 8 * n, rimRecord (smGet Rim.initial t.rims n)))
  ++ (List.range (accQuota t)).map fun n =>
    let a := smGet Acc.initial t.accs n
    (0x700 + 8 * n, word (a.rsc.toNat + a.csc.toNat * 2 ^ 7 + (if a.clr then 2 ^ 14 else 0)))

/-- The checkpoint words of a record, where a phase is open. -/
def checkpointWords (t : Task) : List (Nat × Word) :=
  match t.checkpoint with
  | none => []
  | some c =>
    ((List.range 63).map fun n => (0xC08 + 8 * n, smGet 0 c.sregs (n + 1)))
      ++ [(0xE00, c.preds.setWidth 64), (0xE08, c.pc), (0xE10, c.repLeft),
          (0xE18, word ((t.heldCopies.zip (List.range 16)).foldl (fun a x => a + x.1.channel * 2 ^ (5 + 2 * x.2)) t.heldCopies.length))]

/-- The operand words of a record, for the mapped numbers. -/
def operandWords (s : State) (g : Nat) (t : Task) : List (Nat × Word) :=
  t.omap.map fun e =>
    let o := smGet OSlot.initial (getCore s g).oslots e.2
    (0x800 + 8 * e.1, word (1 + o.fmt.toNat * 2 + o.codes.rsh.toNat * 2 ^ 5 + o.codes.rsc.toNat * 2 ^ 12 + o.codes.csh.toNat * 2 ^ 19
      + o.codes.csc.toNat * 2 ^ 26))

/-- The larger parts of a record. -/
def recordBlocks (s : State) (g : Nat) (t : Task) : List (Nat × List Byte) :=
  ((List.range (rimQuota t)).map fun n => (0x1000 + 64 * n, rimBytes (smGet Rim.initial t.rims n).vals))
  ++ ((List.range (tileQuota t)).map fun n =>
    (0x2000 + 1024 * n, (List.range 256).flatMap fun i => leBytes 4 (smGet 0 (smGet Tile.initial t.tiles n).data i).toNat))
  ++ ((List.range (accQuota t)).map fun n =>
    (0xA000 + 4096 * n, (List.range 256).flatMap fun i => leBytes 16 (smGet 0 (smGet Acc.initial t.accs n).vals i).toNat))
  ++ ((List.range 512).map fun i => (0x12000 + 32 * i, leBytes 32 (smGet 0 (getCore s g).btab i).toNat))
  ++ (t.omap.map fun e => (0x16000 + 4096 * e.1, slotBytes (smGet OSlot.initial (getCore s g).oslots e.2)))
  ++ ((t.heldCopies.zip (List.range 16)).map fun x => (0x56000 + 64 * x.2, x.1.packet))
  ++ (List.range (t.spad / 4096)).map fun i => (0x60000 + 4096 * i, memBytes s.mem (Place.scratch g (t.regionOff + 4096 * i)).key 4096)

/-! ## Writing a record -/

/-- The offsets in a record of what cannot be read without an error: sectors of the region, entries of the table. -/
def badParts (s : State) (g : Nat) (t : Task) : List Nat :=
  let c := getCore s g
  ((c.eccBad ++ c.eccOnce).filter fun x => decide (t.regionOff ≤ x * 32) && decide (x * 32 < t.regionOff + t.spad)).map
    (fun x => 0x60000 + (x * 32 - t.regionOff)) ++ c.btabBad.map fun e => 0x12000 + 32 * e

/-- An error goes with what is written to an address: its line is marked (R235, R343). -/
def markAt (ag : Agent) (va : Word) (s : State) : State :=
  match translate ag .probe va s with
  | .ok t _ => markLine s t.key
  | _ => s

/-- Write a task's context record. An error where its home holds it. -/
def writeRecord (g : Nat) (rec : Word) (t : Task) (s : State) : Except State State :=
  let ag := Agent.ofDie (dieOf g)
  let words := recordWords s g t ++ checkpointWords t ++ operandWords s g t
  let parts := words.map (fun x => (x.1, leBytes 8 x.2.toNat)) ++ recordBlocks s g t
  (parts.foldl (fun (acc : Except State State) x => acc.bind fun s => engineWrite ag (dieOf g) (rec + word x.1) x.2 s) (.ok s)).map fun s1 =>
    (badParts s g t).foldl (fun s o => markAt ag (rec + word o) s) s1

/-- The windows of a core that lie inside a task's region. -/
def regionWindows (s : State) (g : Nat) (t : Task) : List (Nat × Word × BitVec 32) :=
  ((validWindows (getCore s g)).filter fun e =>
    decide (t.regionOff ≤ winOff e.2) && decide (winOff e.2 + winLen e.2 ≤ t.regionOff + t.spad)).map
      fun e => (e.1, e.2, smGet 0 (getCore s g).winLaunch e.1)

/-- The lines of some windows of a core. -/
def windowLines (s : State) (g : Nat) (wins : List Word) : List (Nat × Line) :=
  (getCore s g).lines.filter fun e => wins.any fun w => windowLine w e.1

/-- A line's home is on a die in warm reset: its sectors stay (R348). -/
def offlineLine (s : State) (g : Nat) (e : Nat × Line) : Bool := ((lineFault s g e).map (·.cause)) == some causeOffline

/-- Some lines of a core leave their windows for an engine, which counts no discards: a line that must wait is waited for, also that of a
die in warm reset; one that meets another fault is logged and lost. -/
def engineReturns (g logDie : Nat) (l : List (Nat × Line)) (s : State) : Except State State :=
  let r := l.foldl (fun (acc : Bool × State) e =>
    match returnLine true false g e acc.2 with
    | .ok _ s1 => (acc.1, s1)
    | .held s1 | .remote _ s1 => (true, s1)
    | .fault f s1 => if f.cause = causeOffline then (true, s1) else (acc.1, dropLine (logError s1 logDie) g e.1)) (false, s)
  if r.1 then .error r.2 else .ok r.2

/-- An engine unmaps windows of a core as by `sunmap` (R228). -/
def engineUnmaps (g logDie : Nat) (wins : List (Nat × Word)) (s : State) : Except State State :=
  (engineReturns g logDie (windowLines s g (wins.map Prod.snd)) s).map fun s1 => wins.foldl (fun s w => closeWindow s g w.1) s1

/-- The dirty sectors of some lines that have no home (R312). -/
def lostSectors (s : State) (g : Nat) (l : List (Nat × Line)) : Nat :=
  (l.filter fun e => e.2.dirty != 0 && lineHome s g e.1 e.2 == .nowhere).foldl (fun n e => n + (dirtyList e.2).length) 0

/-- Take a frame off its core; another one runs if it was the running one. -/
def removeFrame (s : State) (g pos : Nat) : State :=
  if g = s.active ∧ s.core.run = some pos then
    let s1 := { s with core := { s.core with run := none, lastRun := pos }, task := Task.fresh }
    match nextFrame s1.core with
    | some q => startFrame s1 q
    | none => s1
  else updCore s g fun c => { c with frames := smErase c.frames pos, run := if c.run = some pos then none else c.run }

/-- Since when a task counts as READY once it is saved: from now, or a frame that was PLACED without running since it was, or one that had
aged before it waited by that much longer (R260, R265). -/
def savedSince (running : Bool) (t : Task) (tick : Nat) : Nat :=
  if running then tick else if runnable t then t.readySince else tick - t.aged

/-- Save a frame to a context record (R106, R264): its windows inside the region are unmapped first. The wait, the class, the age, and
what a register holds of errors stay with the scheduler and the hardware (DESIGN CHOICE, log 28). -/
def saveFrame (g pos : Nat) (t : Task) (rec : Word) (s : State) : Except State State :=
  let wins := regionWindows s g t
  let pairs := wins.map fun w => (w.1, w.2.1)
  let lost := lostSectors s g (windowLines s g (pairs.map Prod.snd))
  let t1 := { t with discards := word ((t.discards.toNat + lost) % 2 ^ 32) }
  (engineUnmaps g (dieOf g) pairs s).bind fun s1 =>
  (writeRecord g rec t1 s1).map fun s2 =>
    let keep := fun (e : Nat × Nat) => (e.1, smGet OSlot.initial (getCore s1 g).oslots e.2)
    let x : Saved := ⟨{ t1 with readySince := savedSince ((getCore s g).run == some pos) t s.tick, preemptReq := false, latch := .empty,
                                replayQueue := [], issuedReads := [] }, g, rec, t.omap.map keep, false, wins⟩
    let s3 := updCore s2 g fun c => releaseSlots c t.omap
    updCluster (removeFrame s3 g pos) (clusterOf g) fun k => { k with saved := k.saved ++ [x] }

/-- A frame can be saved now (R105): it stands in an effective safe point, or parked at a pre-read one, and owes nothing; the debugger
has not stopped it there; and no line of its windows belongs to a die in warm reset. -/
def savable (s : State) (g pos : Nat) (t : Task) : Bool :=
  let running := (getCore s g).run == some pos
  t.owed.isEmpty && (if running then atSafePoint t && t.waits.all (·.park) && !(getCore s g).stopped else true)
    && !(windowLines s g ((regionWindows s g t).map fun w => w.2.1)).any (offlineLine s g)

/-- Pre-empt a frame: now, or at its next effective safe point. -/
def preemptFrame (g pos : Nat) (t : Task) (s : State) : Result :=
  match freeRecord (getCluster s (clusterOf g)) with
  | none => notDue
  | some rec =>
    if savable s g pos t then
      match saveFrame g pos t rec s with
      | .ok s1 => .next s1
      | .error s1 => heldEnd s s1
    else if t.preemptReq then notDue
    else .next (updFrame s g pos fun t => { t with preemptReq := true })

/-! ## Reading a record (R265) -/

/-- Pieces of a record by their offsets. -/
abbrev RecordBytes := List (Nat × List Byte)

/-- The bytes at an offset. -/
def fieldAt (l : RecordBytes) (off n : Nat) : List Byte :=
  match l.find? fun p => decide (p.1 ≤ off) && decide (off + n ≤ p.1 + p.2.length) with
  | some p => (p.2.drop (off - p.1)).take n
  | none => []

/-- The word at an offset. -/
def wordAt (l : RecordBytes) (off : Nat) : Word := word (leNat (fieldAt l off 8))

/-- The pieces that a restore reads: those that the save wrote, within the task's quota and map; the table where the core is empty. -/
def recordLayout (x : Saved) (table : Bool) : List (Nat × Nat) :=
  let t := x.task
  [(0, 0x68), (0x100, 0x200), (0x300, 0xD0), (0x400, 8 * tileQuota t), (0x500, 8 * rimQuota t), (0x700, 8 * accQuota t)]
    ++ (x.oslots.map fun e => (0x800 + 8 * e.1, 8))
    ++ (if t.checkpoint.isSome then [(0xC08, 0x1F8), (0xE00, 0x20)] else [])
    ++ ((List.range (rimQuota t)).map fun n => (0x1000 + 64 * n, 64))
    ++ ((List.range (tileQuota t)).map fun n => (0x2000 + 1024 * n, 1024))
    ++ ((List.range (accQuota t)).map fun n => (0xA000 + 4096 * n, 4096))
    ++ (if table then [(0x12000, 0x4000)] else [])
    ++ (x.oslots.map fun e => (0x16000 + 4096 * e.1, 4096))
    ++ ((List.range t.heldCopies.length).map fun q => (0x56000 + 64 * q, 64))
    ++ (List.range (t.spad / 4096)).map fun i => (0x60000 + 4096 * i, 4096)

/-- Read pieces of a record; the bytes of one that cannot be read are free. The flag says whether all could be read. An error where a
home holds them. -/
def readRecord (ag : Agent) (rec : Word) : List (Nat × Nat) → State → Except State (RecordBytes × Bool × State)
  | [], s => .ok ([], true, s)
  | p :: rest, s =>
    let one : Except State (List Byte × Bool × State) := match agentRead ag (rec + word p.1) p.2 s with
      | .ok b s1 => .ok (b, true, s1)
      | .held s1 => .error s1
      | .fault _ s1 | .remote _ s1 => .ok ((freeBytes s1 p.2).1, false, (freeBytes s1 p.2).2)
    one.bind fun x => (readRecord ag rec rest x.2.2).map fun y => ((p.1, x.1) :: y.1, x.2.1 && y.2.1, y.2.2)

/-- The trap of a factor code that a record brings back (R113, R154). -/
def codeFault (t : Task) (c : Nat) : Option (BitVec 8) :=
  if c = 0x7F then none else if 0x40 ≤ c then some causeInstruction else if rimQuota t ≤ c then some causeQuota else none

/-- The trap of a tile's state word, as `tld.raw` judges it (R223). -/
def stateFault (t : Task) (w : Word) : Option (BitVec 8) :=
  let codes := slotList (stateSlots w)
  if 0xD ≤ stateTag w ∨ (isFloatTag (stateTag w) = false ∧ codes.any (· != 0x7F)) then some causeInstruction
  else codes.findSome? (codeFault t)

/-- The codes of an operand word. -/
def operandCodes (w : Word) : Slots :=
  ⟨BitVec.ofNat 7 (bits w 5 7), BitVec.ofNat 7 (bits w 12 7), BitVec.ofNat 7 (bits w 19 7), BitVec.ofNat 7 (bits w 26 7)⟩

/-- The first bad factor code that a record brings back. -/
def recordFault (l : RecordBytes) (x : Saved) : Option (BitVec 8) :=
  let t := x.task
  ((List.range (tileQuota t)).findSome? fun n => stateFault t (wordAt l (0x400 + 8 * n))).or
    (((List.range (accQuota t)).findSome? fun n =>
      let w := wordAt l (0x700 + 8 * n)
      [bits w 0 7, bits w 7 7].findSome? (codeFault t)).or
    (x.oslots.findSome? fun e => (slotList (operandCodes (wordAt l (0x800 + 8 * e.1)))).findSome? (codeFault t)))

/-- A code, or identity for a bad one. -/
def soundCode (t : Task) (c : BitVec 7) : BitVec 7 := if (codeFault t c.toNat).isSome then 0x7F else c
def soundSlots (t : Task) (x : Slots) : Slots := ⟨soundCode t x.rsh, soundCode t x.rsc, soundCode t x.csh, soundCode t x.csc⟩

/-- A tile of a record. One whose state word is bad has no factors, and no format where the format is the fault. -/
def recordTile (l : RecordBytes) (t : Task) (n : Nat) : Tile :=
  let w := wordAt l (0x400 + 8 * n)
  let tag := stateTag w
  let slots := if isFloatTag tag then soundSlots t (stateSlots w) else Slots.identity
  let b := fieldAt l (0x2000 + 1024 * n) 1024
  mkTile (if tag < 0xD then tag else 0) slots (bits w 32 1 == 1 && factored slots)
    ((Array.range 256).map fun i => leNat ((b.drop (4 * i)).take 4))

/-- A rim of a record. -/
def recordRim (l : RecordBytes) (n : Nat) : Rim :=
  let w := wordAt l (0x500 + 8 * n)
  ⟨if bits w 0 1 = 1 then .pending (bits w 1 3) (bits w 32 32) else .ready, rimOfBytes (fieldAt l (0x1000 + 64 * n) 64)⟩

/-- An accumulator of a record. -/
def recordAcc (l : RecordBytes) (t : Task) (n : Nat) : Acc :=
  let w := wordAt l (0x700 + 8 * n)
  let b := fieldAt l (0xA000 + 4096 * n) 4096
  ⟨soundCode t (BitVec.ofNat 7 (bits w 0 7)), soundCode t (BitVec.ofNat 7 (bits w 7 7)), bits w 14 1 == 1,
   smOfFn 0 256 fun i => BitVec.ofNat 128 (leNat ((b.drop (16 * i)).take 16)), (smGet Acc.initial t.accs n).bad⟩

/-- A phase checkpoint of a record. -/
def recordCheckpoint (l : RecordBytes) (c : Checkpoint) : Checkpoint :=
  { c with sregs := smOfFn 0 64 fun n => if n = 0 then 0 else wordAt l (0xC00 + 8 * n)
           preds := BitVec.ofNat 16 (bits (wordAt l 0xE00) 0 16), pc := wordAt l 0xE08, repLeft := wordAt l 0xE10 }

/-- The held copies of a record. -/
def recordCopies (l : RecordBytes) (h : List HeldCopy) : List HeldCopy :=
  (h.zip (List.range h.length)).map fun x =>
    { x.1 with packet := fieldAt l (0x56000 + 64 * x.2) 64, channel := bits (wordAt l 0xE18) (5 + 2 * x.2) 2 }

/-- A task as its record has it (R264), reserved bits of its system registers as zero (R8); `bad`: the record holds an error, which is PARITY_UNREPAIRED, with the PC in TRAPVA (R113). -/
def taskOfRecord (l : RecordBytes) (bad : Bool) (x : Saved) : Task :=
  let t := x.task
  let sys := fun (n : Nat) => wordAt l (0x300 + 8 * n)
  let pc := wordAt l 0
  { t with
    pc := pc
    repLeft := wordAt l 8
    skip := bits (wordAt l 0x10) 0 8
    supervisor := bits (wordAt l 0x10) 8 1 == 1
    preds := BitVec.ofNat 16 (bits (wordAt l 0x58) 0 16)
    sregs := smOfFn 0 64 fun n => if n = 0 then 0 else wordAt l (0x100 + 8 * n)
    fpcsr := sys 0 &&& 0xFF7F
    amax := sys 1 &&& 0x1FFFFFFFF
    slatch := smOfFn 0 16 fun i => BitVec.ofNat 8 (bits (sys (2 + i / 8)) (8 * (i % 8)) 8)
    frcnt := sys 4 &&& 0xFFFFFFFF
    mfmt := sys 5 &&& 0x1FF
    discards := sys 6 &&& 0xFFFFFFFF
    bt := sys 7
    taskctl := sys 8 &&& 1
    streamsel := sys 9 &&& 0x3F
    phasectl := sys 10 &&& 0xF0F0E0FFF00
    sfcm := sys 11 &&& 1
    prebound := sys 12 &&& 0xFFFFFFFF
    trapcause := sys 13 &&& 0x7FF
    trappc := sys 14
    trapva := sys 15
    trapinfo := sys 16 &&& 0xFFFF0FFF
    tvec := sys 17 &&& ~~~ (0x1F : Word)
    ofs := smOfFn 0 4 fun n => wordAt l (0x390 + 8 * n) &&& ofsMask n
    ofstep := smOfFn 0 4 fun n => wordAt l (0x3B0 + 8 * n) &&& 0xFFFFFF
    tiles := smOfFn Tile.initial (tileQuota t) (recordTile l t)
    rims := smOfFn Rim.initial (rimQuota t) (recordRim l)
    accs := smOfFn Acc.initial (accQuota t) (recordAcc l t)
    checkpoint := t.checkpoint.map (recordCheckpoint l)
    heldCopies := recordCopies l t.heldCopies
    trapping := (recordFault l x).map fun c => ⟨c, 0, 0, false, false, 0, pc⟩
    detected := if bad then t.detected ++ [⟨causeParity, 0, 0, pc, []⟩] else t.detected }

/-- The saved operand slots as the record has them. -/
def recordSlots (l : RecordBytes) (x : Saved) : SMap OSlot :=
  x.oslots.map fun e =>
    let w := wordAt l (0x800 + 8 * e.1)
    let b := fieldAt l (0x16000 + 4096 * e.1) 4096
    (e.1, { e.2 with fmt := BitVec.ofNat 4 (bits w 1 4), codes := soundSlots x.task (operandCodes w),
                     data := smOfFn 0 4096 fun i => b.getD i 0 })

/-- The bundle table of a record. -/
def recordTable (l : RecordBytes) : SMap (BitVec 256) :=
  let b := fieldAt l 0x12000 0x4000
  smOfFn 0 512 fun i => BitVec.ofNat 256 (leNat ((b.drop (32 * i)).take 32))

/-- The lowest free operand slots of a core, one for each saved one. -/
def restoreSlots (c : Core) (l : SMap OSlot) : Core × SMap Nat :=
  l.foldl (fun acc e =>
    match (List.range 64).find? fun p => !(smGet OSlot.initial acc.1.oslots p).claimed with
    | some p => ({ acc.1 with oslots := smSet OSlot.initial acc.1.oslots p e.2 }, smPut acc.2 e.1 p)
    | none => acc) (c, [])

/-- The region of a record comes back into the scratchpad, whole. -/
def restoreRegion (l : RecordBytes) (x : Saved) (s : State) : State :=
  let t := x.task
  let mem := (List.range (t.spad / 4096)).foldl (fun m i =>
    memStore m (Place.scratch x.core (t.regionOff + 4096 * i)).key (fieldAt l (0x60000 + 4096 * i) 4096)) s.mem
  updCore { s with mem := mem } x.core fun c => mendSectors c t.regionOff t.spad

/-- What a saved task brings back of its age: as READY that goes on; as parked it stands still until its wait ends (R260, R265). -/
def Task.ageOf (t : Task) (tick : Nat) : Nat := if runnable t then 0 else tick - t.readySince

/-- Restore a saved task on its core from its record (R265). An empty core takes the record's table too. Its windows
come back with all lines invalid. Where another task has mapped one of their numbers since, the restore takes the number over without
unmapping it; lines that the core then holds in the scratchpad range of a window that comes back are dropped, not written back. The rule
names neither case (DESIGN CHOICE, log 74). -/
def restoreSaved (x : Saved) (p : Spot) (s : State) : Except State State :=
  let g := x.core
  let empty := (tasksOn s g).isEmpty
  (readRecord (Agent.ofDie (dieOf g)) x.record (recordLayout x empty) s).map fun r =>
    let s1 := restoreRegion r.1 x r.2.2
    let o := restoreSlots (getCore s1 g) (recordSlots r.1 x)
    let c1 : Core := if empty then { o.1 with btab := recordTable r.1, btabBad := [], btabVa := x.task.btabVa, image := none } else o.1
    let c2 := x.windows.foldl (fun (c : Core) w =>
      { c with smap := smSet 0 c.smap w.1 w.2.1, winLaunch := smSet 0 c.winLaunch w.1 w.2.2
               lines := c.lines.filter fun e => !windowLine w.2.1 e.1 }) c1
    putFrame (setCore s1 g c2) g p { taskOfRecord r.1 (x.bad || !r.2.1) x with omap := o.2, atSafe := true, aged := x.task.ageOf s.tick }

end Sys2Proof.Machine
end

