-- ==== Sys2Proof/Machine/Cluster.lean ====
section
/-! DEFINITION. The events of a cluster: queues and firmware (R244 to R250, R269, R270), the dependence table (R252 to R255),
tasks and placement (R256 to R263), pre-emption and restore (R105, R265) and hoops (R266). -/

namespace Sys2Proof.Machine

/-! ## Queues (R244 to R246) -/

/-- The words of a queue's descriptor. -/
structure Ring where
  write : Nat
  read : Nat
  ring : Nat
  log2n : Nat
  tvec : Word
  deriving DecidableEq, Repr

/-- Read a descriptor. A RING that is not aligned to 64 bytes is rounded down: the spec asks for the alignment and does not say what
becomes of another address (DESIGN CHOICE, log 68). -/
def readRing (ag : Agent) (d : Word) (s : State) : Except State (Ring × State) :=
  (engineWord ag d s).bind fun w =>
  (engineWord ag (d + 8) w.2).bind fun t =>
  (engineWord ag (d + 0x80) t.2).bind fun r =>
  (engineWord ag (d + 0x88) r.2).bind fun g =>
  (engineWord ag (d + 0x90) g.2).map fun n =>
    (⟨w.1.toNat, r.1.toNat, g.1.toNat / 64 * 64, n.1.toNat % 256, t.1⟩, n.2)

/-- The address of the slot of an index. -/
def Ring.slot (q : Ring) (i : Nat) : Word := word (q.ring + i % 2 ^ min 20 (max 4 q.log2n) * 64)

/-- The published packet at READ of a queue, if there is one. -/
def publishedPacket (ag : Agent) (d : Word) (s : State) : Except State (Ring × List Byte × State) :=
  (readRing ag d s).bind fun q =>
    if q.1.write = q.1.read then .error s
    else
      match agentRead ag (q.1.slot q.1.read) 64 q.2 with
      | .ok b s1 => if leNat ((b.drop 4).take 4) = q.1.read % 2 ^ 32 then .ok (q.1, b, s1) else .error s
      | .held s1 => .error s1
      | _ => .error s

/-- Advance READ as a release (R246). -/
def advanceRead (ag : Agent) (die : Nat) (d : Word) (q : Ring) (s : State) : Except State State :=
  engineWrite ag die (d + 0x80) (leBytes 8 (q.read + 1)) s

/-- The die of a cluster. -/
def dieOfCluster (cl : Nat) : Nat := cl / 4

/-! ## Launch packets (R247 to R250) -/

/-- A field of a packet. -/
def packetField (b : List Byte) (off n : Nat) : Word := word (leNat ((b.drop off).take n))

/-- The packet-field checks of R249. -/
def packetBad (b : List Byte) : Bool :=
  let h := packetField b 0 8
  let off := fun (at' n : Nat) => (packetField b at' 8).toNat % n != 0
  bits h 0 8 != 1 || bits h 28 4 != 0 || bits h 8 2 == 3 || bits h 10 2 == 3 || bits h 12 2 == 3 || decide (2 ≤ bits h 20 2)
    || decide (4 < bits h 24 3) || packetField b 0x18 4 == 0 || off 0x08 32 || off 0x20 128 || off 0x28 32 || off 0x30 8
    || (bits h 24 3 != 0 && packetField b 0x20 8 == 0)

/-- Record `f` of a footprint block is in order; an unused one is zero. -/
def recordBad (fb : List Byte) (nfp f : Nat) : Bool :=
  let base := packetField fb (16 * f) 8
  let size := packetField fb (16 * f + 8) 4
  let flags := packetField fb (16 * f + 12) 4
  if f < nfp then
    size == 0 || base.toNat % 128 != 0 || size.toNat % 128 != 0 || bits base 62 2 != 0 || bits flags 0 2 == 0 || bits flags 3 29 != 0
  else base != 0 || size != 0 || flags != 0

/-- The footprint-block checks of R250. A POOLBASE that is misaligned or not device-global fails as well where POOLSIZE is not zero, though
the rule's list of failing blocks does not name it (DESIGN CHOICE, log 74). -/
def blockBad (fb : List Byte) (nfp : Nat) : Bool :=
  let spad := (packetField fb 0x58 8).toNat
  (List.range 4).any (recordBad fb nfp) || spad % 65536 != 0 || decide (2 ^ 20 < spad)
    || ((fb.drop 0x60).take 32).any (· != 0)
    || (packetField fb 0x48 8 != 0 && ((packetField fb 0x40 8).toNat % 128 != 0 || bits (packetField fb 0x40 8) 62 2 != 0))

/-- The REJECT code of a packet; `block`: its footprint block, if it names one that can be read. -/
def rejectCode (s : State) (cl : Nat) (b : List Byte) (block : Option (List Byte)) : Nat :=
  let h := packetField b 0 8
  if packetBad b then 1
  else if packetField b 0x20 8 != 0 && (match block with
      | some fb => blockBad fb (bits h 24 3)
      | none => true) then 2
  else if bits h 20 2 == 1 && !((List.range 4).any fun i => present s (cl * 48 + 44 + i)) then 3
  else 0

/-! ## Renaming (R253, R254) -/

/-- Two byte ranges overlap. -/
def rangesMeet (a n b m : Nat) : Bool := decide (a < b + m) && decide (b < a + n)

/-- Two footprints conflict (R252). -/
def conflict (a b : Footprint) : Bool :=
  rangesMeet a.base a.size b.base b.size && (decide (2 ≤ a.intent) || decide (2 ≤ b.intent))

/-- Buffers that nobody uses or maps return to their pools (R254). -/
def Cluster.sweepBuffers (k : Cluster) : Cluster := { k with buffers := k.buffers.filter fun x => x.mapped || decide (0 < x.users) }

/-- Change the users of a buffer. -/
def Cluster.useBuffer (k : Cluster) (base : Nat) (f : Nat → Nat) : Cluster :=
  { k with buffers := k.buffers.map fun x => if x.base = base then { x with users := f x.users } else x }

/-- A buffer is no longer mapped. -/
def Cluster.unmapBuffer (k : Cluster) (base : Nat) : Cluster :=
  { k with buffers := k.buffers.map fun x => if x.base = base then { x with mapped := false } else x }

/-- The map entry of an exact original. -/
def Cluster.mappedTo (k : Cluster) (base size : Nat) : Option Rename := k.renames.find? fun r => r.base = base ∧ r.size = size

/-- End the map entries that a fixed write footprint overlaps. -/
def Cluster.endOverlaps (k : Cluster) (base size : Nat) : Cluster :=
  let hit := fun (r : Rename) => rangesMeet base size r.base r.size
  let k1 := (k.renames.filter hit).foldl (fun k r => k.unmapBuffer r.buffer) k
  { k1 with renames := k1.renames.filter fun r => !hit r }

/-- First fit in a pool, at 128-byte alignment: the pool's start, or the end of a buffer. -/
def fitBuffer (k : Cluster) (pool poolSize size : Nat) : Option Nat :=
  let starts := pool :: k.buffers.map fun x => (x.base + x.size + 127) / 128 * 128
  let ok := starts.filter fun b => decide (pool ≤ b) && decide (b + size ≤ pool + poolSize)
    && k.buffers.all fun x => !rangesMeet b size x.base x.size
  ok.foldl (fun m b => match m with
    | none => some b
    | some a => some (min a b)) none

/-- Rename one footprint: what it is ordered on, and the cluster after it. -/
def renameOne (k : Cluster) (pool poolSize base size intent : Nat) (ren : Bool) : Footprint × Cluster :=
  let current := k.mappedTo base size
  let onBuffer := fun (r : Rename) => ((⟨r.buffer, size, intent, true⟩ : Footprint), k.useBuffer r.buffer (· + 1))
  let fixed : Footprint := ⟨base, size, intent, false⟩
  if intent = 2 then
    let fresh := if ren ∧ (current.isSome ∨ k.renames.length < 64) then fitBuffer k pool poolSize size else none
    match fresh, current with
    | some b, some r =>
      let k1 := k.unmapBuffer r.buffer
      (⟨b, size, intent, true⟩, { k1 with
        renames := k1.renames.map fun x => if x = r then ⟨base, size, b⟩ else x,
        buffers := k1.buffers ++ [⟨b, size, pool, 1, true⟩] })
    | some b, none =>
      (⟨b, size, intent, true⟩, { k with renames := k.renames ++ [⟨base, size, b⟩], buffers := k.buffers ++ [⟨b, size, pool, 1, true⟩] })
    | none, some r => if ren then onBuffer r else (fixed, k.endOverlaps base size)
    | none, none => (fixed, k.endOverlaps base size)
  else
    match current with
    | some r => onBuffer r
    | none => (fixed, if intent = 3 then k.endOverlaps base size else k)

/-- Rename the records of a block in order. -/
def renameAll (k : Cluster) (fb : List Byte) (nfp : Nat) : List Footprint × Cluster :=
  (List.range nfp).foldl (fun acc f =>
    let flags := packetField fb (16 * f + 12) 4
    let r := renameOne acc.2 (packetField fb 0x40 8).toNat (packetField fb 0x48 8).toNat (packetField fb (16 * f) 8).toNat
      (packetField fb (16 * f + 8) 4).toNat (bits flags 0 2) (bits flags 2 1 == 1)
    (acc.1 ++ [r.1], r.2.sweepBuffers)) ([], k)

/-! ## Taking a packet -/

/-- The next launch id: 0 is never assigned (R131). -/
def followingLaunch (n : BitVec 32) : BitVec 32 := if n = 0xFFFFFFFF then 1 else n + 1

/-- The launch of an accepted packet. -/
def launchOfPacket (id : BitVec 32) (b : List Byte) (fb : List Byte) (tvec : Word) (fps : List Footprint)
    (preds : List (BitVec 32)) : Launch where
  id := id
  st := if preds.isEmpty then .issuing else .waiting
  hdr := packetField b 0 8
  entry := packetField b 0x08 8
  args := packetField b 0x10 8
  done := packetField b 0x30 8
  doneVal := packetField b 0x38 8
  trig := packetField b 0x1C 4
  btab := packetField b 0x28 8
  tvec := tvec
  statusVa := packetField fb 0x50 8
  spad := (packetField fb 0x58 8).toNat
  footprints := fps
  preds := preds
  share := 2 ^ 31
  reserve := 2 ^ 31
  toCreate := (packetField b 0x18 4).toNat
  count := (packetField b 0x18 4).toNat
  nextIndex := 0
  placed := false
  fatals := 0
  firstCause := 0
  lastCause := 0
  reject := 0
  posted := false

/-- Accept a packet: a dependence-table entry, renamed footprints and predecessors (R252, R255). -/
def acceptLaunch (cl : Nat) (b fb : List Byte) (tvec : Word) (s : State) : State :=
  let k := getCluster s cl
  let r := renameAll k fb (bits (packetField b 0 8) 24 3)
  let preds := (k.launches.filter fun l => l.footprints.any fun x => r.1.any (conflict x)).map (·.id)
  let l := launchOfPacket s.nextLaunch b fb tvec r.1 preds
  { setCluster s cl { r.2 with launches := r.2.launches ++ [l] } with nextLaunch := followingLaunch s.nextLaunch }

/-- Write a status word, where there is one. -/
def writeStatus (cl : Nat) (va : Word) (v : Nat) (s : State) : Except State State :=
  if va = 0 then .ok s else engineWrite (Agent.ofCluster cl) (dieOfCluster cl) va (leBytes 8 v) s

/-- A command takes effect, and STATUS shows its result. -/
def Cluster.applyCommand (k : Cluster) (o : FirmwareOutput) : Cluster :=
  match o with
  | .launchQueue d => { k with launchQueues := k.launchQueues ++ [⟨d⟩], formerQueues := k.formerQueues.filter (· ≠ d), mbStatus := 0 }
  | .copyQueue d =>
    match (List.range 16).find? fun q => (smFind k.copyQueues q).isNone with
    | some q => { k with copyQueues := smPut k.copyQueues q ⟨d⟩, formerQueues := k.formerQueues.filter (· ≠ d), mbStatus := 0 }
    | none => { k with mbStatus := 4 }
  | .unregister d =>
    { k with launchQueues := k.launchQueues.filter fun q => q.descriptor != d,
             copyQueues := k.copyQueues.filter fun q => q.2.descriptor != d, mbStatus := 0 }
  | .contextPool b n => { k with ctxBase := b, ctxCount := n, mbStatus := 0 }
  | .failed c => { k with mbStatus := word (2 * c) }
  | .rejected .. | .leaving .. => k

/-- An output leaves the pair (R249, R269): a command takes effect; of a rejected packet the status word is written and then, once it is
there, the completion word. What has still to follow stays. -/
def outputStep (cl : Nat) (o : FirmwareOutput) (s : State) : Except State (List FirmwareOutput × State) :=
  let die := dieOfCluster cl
  let last := fun (status done doneVal : Word) (s : State) =>
    if wordPending s die status then Except.ok ([FirmwareOutput.leaving status none done doneVal], s)
    else (engineWrite (Agent.ofCluster cl) die done (leBytes 8 doneVal.toNat) s).map fun s1 => ([], s1)
  match o with
  | .rejected status value done doneVal | .leaving status (some value) done doneVal =>
    if wordPending s die status then .ok ([.leaving status (some value) done doneVal], s)
    else (writeStatus cl status value s).bind (last status done doneVal)
  | .leaving status none done doneVal => last status done doneVal s
  | o => .ok ([], updCluster s cl fun k => k.applyCommand o)

/-- The outputs that a test names leave, in order. -/
def flushOutputs (cl : Nat) (p : FirmwareOutput → Bool) (s : State) : Except State State :=
  (getCluster s cl).fwPending.foldl (fun (acc : Except State State) o => acc.bind fun s =>
    let keep := fun (l : List FirmwareOutput) (s : State) => updCluster s cl fun k => { k with fwPending := k.fwPending ++ l }
    if p o then (outputStep cl o s).map fun r => keep r.1 r.2 else .ok (keep [o] s))
    (.ok (updCluster s cl fun k => { k with fwPending := [] }))

/-- An output that has left the pair. -/
def FirmwareOutput.left : FirmwareOutput → Bool
  | .leaving .. => true
  | _ => false

/-- The firmware writes the words of a rejected packet (R249, R269): in lockstep mode they leave the pair at its next checkpoint. -/
def rejectPacket (cl : Nat) (status : Word) (value : Nat) (done doneVal : Word) (s : State) : Except State State :=
  let keep := fun (o : FirmwareOutput) => updCluster s cl fun k => { k with fwPending := k.fwPending ++ [o] }
  if (getCluster s cl).lockstep then .ok (keep (.rejected status value done doneVal))
  else flushOutputs cl FirmwareOutput.left (keep (.leaving status (some value) done doneVal))

/-- Handle a packet that has been taken: its status word is zeroed, whatever becomes of it (R249). -/
def handlePacket (cl : Nat) (b : List Byte) (tvec : Word) (s : State) : Except State State :=
  let ag := Agent.ofCluster cl
  let fpb := packetField b 0x20 8
  if bits (packetField b 0 8) 0 8 = 0 then .ok s
  else
    let read : Except State (Option (List Byte) × State) :=
      if fpb = 0 ∨ fpb.toNat % 128 ≠ 0 then .ok (none, s)
      else match agentRead ag fpb 128 s with
        | .ok fb s1 => .ok (some fb, s1)
        | .held s1 => .error s1
        | _ => .ok (none, s)
    read.bind fun block =>
    let fb := block.1.getD (List.replicate 128 0)
    let status := packetField fb 0x50 8
    (writeStatus cl status 0 block.2).bind fun s1 =>
      match rejectCode s cl b block.1 with
      | 0 => .ok (acceptLaunch cl b fb tvec s1)
      | code => rejectPacket cl status (code * 2 ^ 24) (packetField b 0x30 8) (packetField b 0x38 8) s1

/-- A published packet, or a read that waits for another module; nothing where there is neither. -/
def orNothing {α : Type} (s : State) (x : Except State α) : Option (Except State α) :=
  match x with
  | .ok a => some (.ok a)
  | .error s1 => if asksMore s s1 then some (.error s1) else none

/-- The queue whose turn it is: the first after the last one that has a published packet. -/
def nextQueue (cl : Nat) (s : State) : Option (Except State (Nat × Word × Ring × List Byte × State)) :=
  let k := getCluster s cl
  let n := k.launchQueues.length
  (List.range n).findSome? fun i =>
    let q := (k.rr + i) % n
    (k.launchQueues[q]?).bind fun x =>
      (orNothing s (publishedPacket (Agent.ofCluster cl) x.descriptor s)).map fun r =>
        r.map fun p => (q, x.descriptor, p.1, p.2.1, p.2.2)

/-- The engines of a cluster work: its die is online. -/
def clusterUp (s : State) (cl : Nat) : Bool := (getDie s (dieOfCluster cl)).online

/-- The void packets that a cluster has still to write (R286). -/
def flushVoids (cl : Nat) (s : State) : State :=
  (getCluster s cl).voids.foldl (writeVoid cl) (updCluster s cl fun k => { k with voids := [] })

/-- A take of this package tick by a later cluster has been numbered already (R131). -/
def takeLate (s : State) (cl : Nat) : Bool :=
  match s.lastTake with
  | some (tick, c) => tick == s.tick && decide (cl < c)
  | none => false

/-- Take the packet at READ of the queue whose turn it is. -/
def takePacket (cl : Nat) (st : State) : Result :=
  match nextQueue cl st with
  | none => notDue
  | some (.error s1) => heldEnd st s1
  | some (.ok (q, d, ring, b, s1)) =>
    match (advanceRead (Agent.ofCluster cl) (dieOfCluster cl) d ring s1).bind fun s2 =>
        handlePacket cl b ring.tvec (updCluster s2 cl fun k => { k with rr := q + 1 }) with
    | .ok s3 => .next { s3 with lastTake := some (st.tick, cl) }
    | .error s3 => heldEnd st s3

/-- PACKET_TAKE (R246). Void packets and words that the cluster has still to write come first. -/
def execPacketTake (cluster : Nat) (st : State) : Result :=
  let k := getCluster st cluster
  let s0 := flushVoids cluster st
  if !clusterUp st cluster || !st.booted then notDue
  else if (getCluster s0 cluster).voids ≠ k.voids then .next s0
  else if k.fwPending.any FirmwareOutput.left then
    match flushOutputs cluster FirmwareOutput.left st with
    | .error s1 => heldEnd st s1
    | .ok s1 => if (getCluster s1 cluster).fwPending ≠ k.fwPending then .next s1 else takeNext st
  else takeNext st
where
  /-- The next packet is taken where the cluster may take one. -/
  takeNext (s : State) : Result :=
    let k := getCluster s cluster
    if k.fwHalted || decide (256 ≤ k.launches.length) || takeLate s cluster then notDue else takePacket cluster s

/-! ## The end of a launch (R255, R263) -/

/-- The status word of R249. -/
def statusWord (l : Launch) : Nat :=
  min l.fatals (2 ^ 32 - 1) * 2 ^ 32 + l.reject * 2 ^ 24 + l.lastCause.toNat * 2 ^ 8 + l.firstCause.toNat

/-- The windows that a launch owns on a core (R229). -/
def launchWindows (s : State) (g : Nat) (id : BitVec 32) : List (Nat × Word) :=
  (validWindows (getCore s g)).filter fun e => smGet 0 (getCore s g).winLaunch e.1 == id

/-- Unmap the windows that a launch owns on every core of its cluster (R229). -/
def unmapLaunch (cl : Nat) (id : BitVec 32) (s : State) : Except State State :=
  let r := (coresOf cl).foldl (fun (acc : Bool × State) g =>
    match engineUnmaps g (dieOfCluster cl) (launchWindows acc.2 g id) acc.2 with
    | .ok s1 => (acc.1, s1)
    | .error s1 => (true, s1)) (false, s)
  if r.1 then .error r.2 else .ok r.2

/-- A launch without a predecessor that has completed (R255). -/
def Launch.without (x : Launch) (id : BitVec 32) : Launch :=
  let p := x.preds.filter (· ≠ id)
  { x with preds := p, st := if x.st = LaunchState.waiting ∧ p = [] then LaunchState.issuing else x.st }

/-- A completed launch leaves the table, and its substitute buffers lose a user (R254, R255). -/
def Cluster.dropLaunch (k : Cluster) (l : Launch) : Cluster :=
  let rest := (k.launches.filter fun (x : Launch) => x.id != l.id).map fun (x : Launch) => x.without l.id
  let k1 : Cluster := { k with launches := rest }
  ((l.footprints.filter fun (f : Footprint) => f.substitute).foldl
    (fun (k : Cluster) (f : Footprint) => k.useBuffer f.base (· - 1)) k1).sweepBuffers

/-- Release what a launch holds of the table: successors, buffers, hoops. -/
def releaseLaunch (cl : Nat) (l : Launch) (s : State) : State :=
  let s1 := updCluster s cl fun k => k.dropLaunch l
  ((getCluster s1 cl).hoops.filter fun h => h.2.allocated && h.2.owner == l.id).foldl (fun s h => freeHoop s cl h.1) s1

/-- The end of a launch, in order: its windows are unmapped, the status word is written, and once that is there the completion word and,
unless the launch was rejected, TRIG (R229, R249, R255, R263). Each waits for what other modules have still to acknowledge. -/
def finishLaunch (cl : Nat) (l : Launch) (s : State) : Except State State :=
  let die := dieOfCluster cl
  if wordPending s die l.statusVa then .error s
  else
    (if l.posted then .ok s else (unmapLaunch cl l.id s).bind (writeStatus cl l.statusVa (statusWord l))).bind fun s1 =>
      if wordPending s1 die l.statusVa then .ok (updCluster s1 cl fun k => updLaunch k l.id fun l => { l with posted := true })
      else
        (engineWrite (Agent.ofCluster cl) die l.done (leBytes 8 l.doneVal.toNat) s1).map fun s2 =>
          let s3 := if l.reject == 0 && bits l.hdr 27 1 == 1 then raiseByEngine s2 die none l.trig 1 else s2
          releaseLaunch cl l (freeTriggers s3 l.id)

/-- LAUNCH_COMPLETE: the weight is whole and no instance is left to create (R263). -/
def execLaunchComplete (cluster entry : Nat) (st : State) : Result :=
  match (getCluster st cluster).launches[entry]? with
  | some l =>
    if l.st ≠ .waiting ∧ l.toCreate = 0 ∧ l.reserve + l.share = 2 ^ 32 ∧ clusterUp st cluster = true then
      match finishLaunch cluster l st with
      | .ok s1 => .next s1
      | .error s1 => heldEnd st s1
    else notDue
  | none => notDue

/-! ## Instances and placement (R257 to R260) -/

/-- The registers of instance `i` at its start (R91). -/
def instanceRegs (l : Launch) (i : Nat) : SMap Word :=
  let base := fun (f : Nat) => word ((l.footprints[f]?.map (·.base)).getD 0)
  smOfFn 0 8 fun n =>
    if n = 1 then word i else if n = 6 then l.args else if n = 7 then word l.id.toNat
    else if 2 ≤ n ∧ n ≤ 5 then base (n - 2) else 0

/-- The root task of instance `i` (R91, R248). -/
def rootTask (l : Launch) (i weight tick : Nat) : Task :=
  { Task.fresh with
    pc := l.entry, sregs := instanceRegs l i, initRegs := instanceRegs l i,
    quota := BitVec.ofNat 6 (bits l.hdr 12 2 + bits l.hdr 10 2 * 4 + bits l.hdr 8 2 * 16),
    place := bits l.hdr 20 2, prio := bits l.hdr 22 2, effClass := bits l.hdr 22 2, readySince := tick, spad := l.spad,
    btabVa := l.btab, tvec := l.tvec, launchId := l.id, taskId := BitVec.ofNat 32 i, weight := weight }

/-- A core without a frame is loading another image for a READY task. -/
def loadingFor (s : State) (cl g : Nat) (t : Task) : Bool :=
  match (getCore s g).image with
  | some i => i.va != t.btabVa && (getCluster s cl).ready.any fun x => x.btabVa == i.va
  | none => false

/-- The cores of a cluster on which a task fits (R258). -/
def fittingCores (s : State) (cl : Nat) (t : Task) : List (Nat × Spot) :=
  (coresOf cl).filterMap fun g => if loadingFor s cl g t then none else (spotFor s g t false).map fun p => (g, p)

/-- The core that the scheduler chooses (R259): the hinted one, else the one with the fewest frames. -/
def chooseCore (s : State) (cl hint : Nat) (t : Task) : Option (Nat × Spot) :=
  let l := fittingCores s cl t
  match l.find? fun x => x.1 == cl * 48 + hint && decide (hint < 48) with
  | some x => some x
  | none => l.foldl (fun best x => match best with
    | none => some x
    | some y => if (residents s x.1).length < (residents s y.1).length then some x else some y) none

/-- One task before another in the scheduler's order: by class, then by age (R259). -/
def before (a b : Task) : Bool := decide (a.effClass < b.effClass) || (a.effClass == b.effClass && decide (a.readySince < b.readySince))

/-- Put a task in its place among others, behind its equals. -/
def insertTask (t : Task) : List Task → List Task
  | [] => [t]
  | x :: l => if before t x then t :: x :: l else x :: insertTask t l

/-- Tasks in the scheduler's order. -/
def inOrder (l : List Task) : List Task := l.foldl (fun m t => insertTask t m) []

/-- The READY tasks that can be placed, in order, with their cores. -/
def placements (s : State) (cl : Nat) : List (Task × Nat × Spot) :=
  let k := getCluster s cl
  let hint := fun (t : Task) => ((launchOf k t.launchId).map fun l => bits l.hdr 14 6).getD 63
  (inOrder k.ready).filterMap fun t => (chooseCore s cl (hint t) t).map fun c => (t, c)

/-- The saved tasks that fit their cores, with their spots (R258, R265). -/
def restorable (s : State) (cl : Nat) : List (Saved × Spot) :=
  (getCluster s cl).saved.filterMap fun x =>
    if loadingFor s cl x.core x.task then none else (spotFor s x.core x.task true).map fun p => (x, p)

/-- No fitting task of a higher class waits, READY or saved (R260). -/
def classTurn (s : State) (cl : Nat) (t : Task) : Bool :=
  (placements s cl).all (fun x => decide (t.effClass ≤ x.1.effClass)) && (restorable s cl).all fun x => decide (t.effClass ≤ x.1.task.effClass)

/-- The weight of a launch's next instance, and the instance. -/
def nextWeight (l : Launch) : Nat := max 1 (l.share / l.toCreate)
def nextInstance (l : Launch) (tick : Nat) : Task := rootTask l l.nextIndex (nextWeight l) tick

/-- A launch has an instance to create, with its weight, that fits a core (R257). -/
def creatable (s : State) (cl : Nat) (l : Launch) : Bool :=
  l.st == .issuing && decide (0 < l.toCreate) && decide (nextWeight l ≤ l.share + l.reserve)
    && !(fittingCores s cl (nextInstance l s.tick)).isEmpty

/-- INSTANCE_CREATION: one at each placement that the scheduler can make, where no READY task can be placed (R257), and no fitting task of
a higher class waits, to be created, placed or restored (R260). -/
def execInstanceCreation (cluster entry : Nat) (st : State) : Result :=
  match (getCluster st cluster).launches[entry]? with
  | none => notDue
  | some l =>
    let t := nextInstance l st.tick
    if clusterUp st cluster ∧ (placements st cluster).isEmpty = true ∧ creatable st cluster l = true ∧ classTurn st cluster t = true
      ∧ ((getCluster st cluster).launches.all fun x => decide (t.prio ≤ bits x.hdr 22 2) || !creatable st cluster x) = true then
      let w := nextWeight l
      .next (updCluster st cluster fun k => { updLaunch k l.id fun l =>
          { l with share := l.share - min w l.share, reserve := l.reserve - (w - min w l.share), toCreate := l.toCreate - 1,
                   nextIndex := l.nextIndex + 1, st := if l.toCreate = 1 then .running else .issuing } with
        ready := k.ready ++ [t] })
    else notDue

/-- A launch whose image cannot be read at its first placement ends with REJECT 4, as a rejected one does (R249): its READY instances go,
and its end is due. -/
def rejectImage (cl : Nat) (l : Launch) (s : State) : State :=
  updCluster s cl fun k => { updLaunch k l.id fun l =>
      { l with st := .running, toCreate := 0, share := 2 ^ 31, reserve := 2 ^ 31, reject := 4 } with
    ready := k.ready.filter fun t => t.launchId != l.id }

/-- A task leaves the READY list for a core, and its launch has been placed. -/
def settleTask (cl g : Nat) (p : Spot) (t : Task) (s : State) : State :=
  placeTask (updCluster s cl fun k => updLaunch { k with ready := k.ready.erase t } t.launchId fun l => { l with placed := true }) g p t

/-- An empty core loads the task's image (R48): begun, or carried on. -/
def loadImage (g : Nat) (t : Task) (s : State) : State :=
  advanceImage g (if (getCore s g).image.map (·.va) = some t.btabVa then s else startImage g t.btabVa s)

/-- Place a READY task, or go on loading its image; nothing where that waits. An image that cannot be read ends the launch at its first
placement; later it leaves every entry invalid. -/
def placeReady (cl : Nat) (t : Task) (g : Nat) (p : Spot) (s : State) : Option State :=
  if !(tasksOn s g).isEmpty then some (settleTask cl g p t s)
  else
    let s1 := loadImage g t s
    let s2 := dropImage g s1
    match (getCore s1 g).image, launchOf (getCluster s1 cl) t.launchId with
    | none, _ => some (settleTask cl g p t s1)
    | some i, l =>
      match i.ended, l with
      | none, _ => if s1 = s then none else some s1
      | some false, some l => some (if l.placed then settleTask cl g p t s2 else rejectImage cl l s2)
      | _, _ => some (settleTask cl g p t s2)

/-- TASK_PLACEMENT (R259). A task whose image another module has still to send holds nobody back. -/
def execTaskPlacement (cluster : Nat) (st : State) : Result :=
  if !clusterUp st cluster then notDue
  else
    match ((placements st cluster).filter fun x => classTurn st cluster x.1).findSome? fun x => placeReady cluster x.1 x.2.1 x.2.2 st with
    | some s1 => .next s1
    | none => notDue

/-- The class of a task that has waited since a tick (R260). -/
def agedClass (tick : Nat) (t : Task) : Nat := t.prio - (tick - t.readySince) / Config.agingTicks

/-- A resident task that is PLACED: ready, and not the running one. -/
def placedFrames (s : State) (cl : Nat) : List (Nat × Nat × Task) :=
  (allFrames s).filter fun e => clusterOf e.1 == cl && runnable e.2.2 && (getCore s e.1).run != some e.2.1

/-- CLASS_AGING (R260): of the tasks READY, PLACED without running, or waiting to be restored. -/
def execClassAging (cluster : Nat) (st : State) : Result :=
  let k := getCluster st cluster
  let age := fun (t : Task) => { t with effClass := agedClass st.tick t }
  let due := fun (t : Task) => t.effClass != agedClass st.tick t
  if k.ready.any due || (placedFrames st cluster).any (fun e => due e.2.2) || k.saved.any fun x => due x.task then
    let s1 := (placedFrames st cluster).foldl (fun s e => updFrame s e.1 e.2.1 age) st
    .next (updCluster s1 cluster fun k => { k with ready := k.ready.map age,
                                                   saved := k.saved.map fun x => { x with task := age x.task } })
  else notDue

/-! ## Pre-emption, restore, displacement (R105, R262, R265) -/

/-- PREEMPTION (R105). -/
def execPreemption (core pos : Nat) (st : State) : Result :=
  match getFrame st core pos with
  | some t => preemptFrame core pos t st
  | none => notDue

/-- CONTEXT_RESTORE (R265): where the task fits its core, and none of a higher class that fits waits (R260). -/
def execContextRestore (cluster index : Nat) (st : State) : Result :=
  match (getCluster st cluster).saved[index]? with
  | none => notDue
  | some x =>
    match spotFor st x.core x.task true with
    | none => notDue
    | some p =>
      if loadingFor st cluster x.core x.task || !classTurn st cluster x.task then notDue
      else
        match restoreSaved x p st with
        | .ok s1 => .next (updCluster s1 cluster fun k => { k with saved := k.saved.eraseIdx index })
        | .error s1 => heldEnd st s1

/-- The frames that a READY task may displace: those on cores that its placement class admits, a limit that R262 does not set (DESIGN
CHOICE, log 74). -/
def displaceable (s : State) (cl : Nat) (t : Task) : List (Nat × Nat × Task) :=
  (allFrames s).filter fun e =>
    clusterOf e.1 == cl && coreAdmits s e.1 t &&
      (if runnable e.2.2 || (getCore s e.1).run == some e.2.1 then decide (t.effClass < e.2.2.effClass)
       else decide (t.effClass ≤ e.2.2.effClass) && e.2.2.owed.isEmpty && decide (t.readySince + Config.agingTicks ≤ s.tick))

/-- The frame to displace: the lowest class, then the most recently placed. -/
def victimOf (l : List (Nat × Nat × Task)) : Option (Nat × Nat × Task) :=
  l.foldl (fun best x => match best with
    | none => some x
    | some y =>
      if y.2.2.effClass < x.2.2.effClass ∨ (y.2.2.effClass = x.2.2.effClass ∧ y.2.2.placedAt < x.2.2.placedAt) then some x
      else some y) none

/-- FRAME_DISPLACEMENT (R262): for the first READY task, in the scheduler's order, that fits no core and finds a frame to displace. -/
def execFrameDisplacement (cluster : Nat) (st : State) : Result :=
  let stuck := (inOrder (getCluster st cluster).ready).filter fun t => (fittingCores st cluster t).isEmpty
  let try' := fun (t : Task) => (victimOf (displaceable st cluster t)).bind fun v =>
    match preemptFrame v.1 v.2.1 v.2.2 st with
    | .next s1 => some s1
    | _ => none
  match stuck.findSome? try' with
  | some s1 => .next s1
  | none => notDue

/-! ## Hoops and firmware -/

/-- HOOP_PHASE_COMPLETE (R266). -/
def execHoopPhaseComplete (cluster hoop : Nat) (st : State) : Result :=
  if (smGet Hoop.initial (getCluster st cluster).hoops hoop).due then .next (completeHoop st cluster hoop) else notDue

/-- The firmware answers a command: at once in split mode, at the next checkpoint in lockstep mode (R269, R270). -/
def Cluster.answer (k : Cluster) (o : FirmwareOutput) : Cluster :=
  if k.lockstep then { k with fwPending := k.fwPending ++ [o], mbStatus := 1 } else k.applyCommand o

/-- A mailbox command with its arguments; a halted pair stays busy, and so does one whose firmware has not passed its check (R356). -/
def command (s : State) (cl : Nat) (a0 a1 : Word) (out : State → FirmwareOutput × State) : Result :=
  let s1 := updCluster s cl fun k => { k with arg0 := a0, arg1 := a1 }
  if (getCluster s1 cl).fwHalted || !s1.booted then .next (updCluster s1 cl fun k => { k with mbStatus := 1 })
  else
    let r := out s1
    .next (updCluster r.2 cl fun k => k.answer r.1)

/-- The package ticks between two checkpoints of a pair: a cycle of a control core counts as a tick (DESIGN CHOICE, log 26). -/
def checkpointTicks : Nat := 2 ^ 16

/-- The pair's next checkpoint is due (R270). -/
def Cluster.checkpointDue (k : Cluster) (tick : Nat) : Bool :=
  k.lockstep && !k.fwHalted && decide (k.fwSince + checkpointTicks ≤ tick)

/-- FIRMWARE_CHECKPOINT (R270): the outputs held back leave, and a new interval begins. -/
def execFirmwareCheckpoint (cluster : Nat) (st : State) : Result :=
  let k := getCluster st cluster
  if !k.checkpointDue st.tick then notDue
  else
    match flushOutputs cluster (fun _ => true) st with
    | .ok s1 => .next (updCluster s1 cluster fun k =>
        { k with fwMismatch := 0, fwSince := st.tick / checkpointTicks * checkpointTicks })
    | .error s1 => heldEnd st s1

/-- LOCKSTEP_MISMATCH (R270): the firmware runs again from its checkpoint and produces the outputs held back anew; the third mismatch of
one interval halts the pair. -/
def execLockstepMismatch (cluster : Nat) (st : State) : Result :=
  let k := getCluster st cluster
  if !k.lockstep || k.fwHalted || k.checkpointDue st.tick then notDue
  else
    let s1 := logError st (dieOfCluster cluster)
    .next (updCluster s1 cluster fun k =>
      if 2 ≤ k.fwMismatch then { k with fwHalted := true, fwPending := k.fwPending.filter FirmwareOutput.left, fwMismatch := 3 } else { k with fwMismatch := k.fwMismatch + 1 })

/-- The requirements of a registration (R244): an aligned descriptor on the own module, WRITE = READ = 0, LOG2N from 4 to 20, TVEC
a full-bundle position, and every slot's SEQ all ones. A queue that a warm reset has left in memory keeps its packets, and so its
indices and sequence numbers (R344, R346; DESIGN CHOICE, log 58). -/
def descriptorOk (s : State) (cl : Nat) (d : Word) (launch : Bool) : Bool × State :=
  let ag := Agent.ofCluster cl
  match spaceOf s none none d with
  | .device _ _ =>
    if d.toNat % 128 ≠ 0 then (false, s)
    else
      match readRing ag d s with
      | .error _ => (false, s)
      | .ok (q, s1) =>
        let slotOk := fun (i : Nat) => match agentRead ag (q.slot i + 4) 4 s1 with
          | .ok b _ => leNat b == 0xFFFFFFFF
          | _ => false
        let kept := (getCluster s cl).formerQueues.contains d
        (decide (4 ≤ q.log2n) && decide (q.log2n ≤ 20) && (!launch || q.tvec.toNat % 32 == 0)
          && (kept || (q.write == 0 && q.read == 0 && (List.range (2 ^ q.log2n)).all slotOk)), s1)
  | _ => (false, s)

/-- A queue is registered, or will be at the next checkpoint. -/
def Cluster.knows (k : Cluster) (d : Word) : Bool :=
  k.launchQueues.any (·.descriptor == d) || k.copyQueues.any (·.2.descriptor == d)

/-- REGISTER_LAUNCH_QUEUE: at most 64 queues (R244). -/
def execRegisterLaunchQueue (cluster : Nat) (descriptor : Word) (st : State) : Result :=
  command st cluster descriptor (getCluster st cluster).arg1 fun s =>
    let r := descriptorOk s cluster descriptor true
    let k := getCluster s cluster
    let n := k.launchQueues.length + (k.fwPending.filter fun o => match o with
      | .launchQueue _ => true
      | _ => false).length
    (if !r.1 || k.knows descriptor then .failed 1 else if 64 ≤ n then .failed 2 else .launchQueue descriptor, r.2)

/-- REGISTER_COPY_QUEUE: at most 16 queues (R278). -/
def execRegisterCopyQueue (cluster : Nat) (descriptor : Word) (st : State) : Result :=
  command st cluster descriptor (getCluster st cluster).arg1 fun s =>
    let r := descriptorOk s cluster descriptor false
    let k := getCluster s cluster
    let n := k.copyQueues.length + (k.fwPending.filter fun o => match o with
      | .copyQueue _ => true
      | _ => false).length
    (if !r.1 || k.knows descriptor then .failed 1 else if 16 ≤ n then .failed 2 else .copyQueue descriptor, r.2)

/-- UNREGISTER_QUEUE (R246). -/
def execUnregisterQueue (cluster : Nat) (descriptor : Word) (st : State) : Result :=
  command st cluster descriptor (getCluster st cluster).arg1 fun s =>
    (if (getCluster s cluster).knows descriptor then .unregister descriptor else .failed 3, s)

/-- Own device memory. -/
def ownMemory (s : State) (va : Word) : Bool :=
  match spaceOf s none none va with
  | .device _ _ => true
  | _ => false

/-- SET_CONTEXT_POOL (R264, R355): the pool lies in device memory. -/
def execSetContextPool (cluster : Nat) (base count : Word) (st : State) : Result :=
  command st cluster base count fun s => (if base.toNat % 65536 = 0 ∧ ownMemory s base = true then .contextPool base count.toNat else .failed 1, s)

end Sys2Proof.Machine
end

