-- ==== Sys2Proof/Machine/Copy.lean ====
section
/-! DEFINITION. Copies: the checks of a packet (R274), the payload as destination sectors (R275, R276, R283), faults (R282), the
words and the trigger at the end (R280, R281), and the events COPY_START, COPY_COMPLETE and COPY_QUEUE_TAKE (R277, R278). -/

namespace Sys2Proof.Machine

/-! ## Streams -/

/-- The copies of a stream, in order. -/
def streamJobs (s : State) : CopyStream → List CopyJob
  | .channel g ch => channelOf s g ch
  | .queue cl q => smGet [] (getCluster s cl).queueJobs q
  | .trigger d => (getDie s d).trigStream

def setJobs (s : State) (x : CopyStream) (l : List CopyJob) : State :=
  match x with
  | .channel g ch => setChannel s g ch l
  | .queue cl q => updCluster s cl fun k => { k with queueJobs := smSet [] k.queueJobs q l }
  | .trigger d => updDie s d fun k => { k with trigStream := l }

/-- The die whose engine runs a stream. -/
def streamDie : CopyStream → Nat
  | .channel g _ => dieOf g
  | .queue cl _ => dieOfCluster cl
  | .trigger d => d

/-- The requester of a copy for an address (R284): the issuing core may reach its CP pages and has a core number 63. -/
def copyAgent (s : State) (x : CopyStream) (j : CopyJob) (va : Word) : Agent :=
  match x with
  | .channel g _ => ⟨some g, .cluster (clusterOf g)⟩
  | .queue cl _ => ⟨none, .cluster cl⟩
  | .trigger d => match j.posted with
    | some e => postAgent d (getPosted s d e) va
    | none => Agent.ofDie d

/-- A copy's read and write: every window range of a scratchpad is refused (R230, R284). -/
def copyRead (a : Agent) (va : Word) (n : Nat) (s : State) : Got (List Byte) :=
  match a.space s va with
  | .scratch g off => scratchRead s true g off n va
  | _ => agentRead a va n s

def copyWrite (a : Agent) (va : Word) (b : List Byte) (s : State) : Got Unit :=
  match a.space s va with
  | .scratch g off => scratchWrite s true g off b va
  | _ => agentWrite a va b s

/-- Whether a write could perform. -/
def copyProbe (a : Agent) (va : Word) (s : State) : Got Unit :=
  match a.space s va with
  | .scratch g off => if (windowAtOff (getCore s g) off).isSome then .fault ⟨causeAttribute, 3, va⟩ s else .ok () s
  | _ => (translate a .write va s).bind fun _ s1 => .ok () s1

/-! ## The packet (R272 to R274) -/

/-- A field of a copy packet. -/
def CopyJob.field (j : CopyJob) (off n : Nat) : Nat := (packetField j.packet off n).toNat

/-- A signed field. -/
def CopyJob.signed (j : CopyJob) (off n : Nat) : Int := signedOf (8 * n) (j.field off n)

def CopyJob.hdr (j : CopyJob) : Word := packetField j.packet 0 8
def CopyJob.halo (j : CopyJob) : Nat := bits j.hdr 29 3
def CopyJob.gather (j : CopyJob) : Bool := bits j.hdr 28 1 == 1
def CopyJob.clip (j : CopyJob) : Bool := bits j.hdr 27 1 == 1
def CopyJob.esize (j : CopyJob) : Nat := 2 ^ bits j.hdr 20 2
def CopyJob.done (j : CopyJob) : Word := packetField j.packet 0x18 8

/-- The first failing check of R274 that needs no extent list; 0 for none. -/
def CopyJob.check (j : CopyJob) : Nat :=
  let sc := bits j.hdr 22 3
  let off := fun (at' n : Nat) => j.field at' n % j.esize != 0
  if bits j.hdr 0 8 != 2 || bits j.hdr 8 12 != 0 || sc == 0 || decide (6 ≤ sc) || (j.gather && (j.halo != 0 || decide (16 < j.field 0x22 2)))
  then 0x01
  else if off 0x10 8 || off 0x2C 4 || j.done.toNat % 16 != 0
    || (if j.gather then j.field 0x08 8 % 16 != 0 else off 0x08 8 || off 0x28 4)
  then 0x13 else 0

/-- An extent of the list: base, rows, stride (R276). -/
def CopyJob.extent (j : CopyJob) (e : Nat) : Word × Nat × Int :=
  let f := fun (off n : Nat) => leNat ((j.extents.drop (16 * e + off)).take n)
  (word (f 0 8), f 8 4, signedOf 32 (f 12 4))

/-- An extent's base or stride is not a multiple of the element size. -/
def CopyJob.extentsBad (j : CopyJob) : Bool :=
  (List.range (j.field 0x22 2)).any fun e =>
    let x := j.extent e
    x.1.toNat % j.esize != 0 || x.2.2 % (j.esize : Int) != 0

/-! ## The payload (R275, R276) -/

/-- The fill bytes of one element. -/
def CopyJob.fillBytes (j : CopyJob) : List Byte :=
  if j.esize = 8 then leBytes 8 (j.field 0x38 4 * 2 ^ 32) else leBytes j.esize (j.field 0x38 4)

/-- The source address of the first element of every destination row. -/
def CopyJob.rowSources (j : CopyJob) : List Word :=
  let src := packetField j.packet 0x08 8
  if j.gather then
    (List.range (j.field 0x22 2)).flatMap fun e =>
      let x := j.extent e
      (List.range x.2.1).map fun (q : Nat) => x.1 + BitVec.ofInt 64 ((q : Int) * x.2.2)
  else
    let h := j.halo
    (List.range (j.field 0x22 2 + 2 * h)).map fun (r : Nat) =>
      src + BitVec.ofInt 64 (((r : Int) - h) * j.signed 0x28 4 - h * j.esize)

/-- Element (r, c): where it comes from, or nothing where the clip window leaves it out. -/
def CopyJob.element (j : CopyJob) (cols r c : Nat) (row : Word) : CopyPart :=
  let z := j.esize
  let x := j.signed 0x30 2 - j.halo + c
  let y := j.signed 0x32 2 - j.halo + r
  let inside := !j.clip || (decide (0 ≤ x) && decide (x < j.field 0x34 2) && decide (0 ≤ y) && decide (y < j.field 0x36 2))
  let dst := packetField j.packet 0x10 8 + BitVec.ofInt 64 ((r : Int) * j.signed 0x2C 4 + c * z)
  if inside then ⟨r * cols + c, some (row + word (c * z)), dst, z, []⟩ else ⟨r * cols + c, none, dst, z, j.fillBytes⟩

/-- Two pieces that one read and one write may cover: contiguous, in the same sectors. -/
def CopyPart.joins (a b : CopyPart) : Bool :=
  b.dst == a.dst + word a.n && b.dst.toNat / 32 == a.dst.toNat / 32 && (match a.src, b.src with
    | some x, some y => y == x + word a.n && y.toNat / 32 == x.toNat / 32
    | none, none => true
    | _, _ => false)

/-- Add a piece to the sectors built so far, the last one first: a sector stands at the place of its last element. -/
def addPart (groups : List (List CopyPart)) (p : CopyPart) : List (List CopyPart) :=
  let same := fun (g : List CopyPart) => (g.head?.map fun x => x.dst.toNat / 32 == p.dst.toNat / 32).getD false
  match groups with
  | g :: rest =>
    if same g then
      (match g.getLast? with
        | some a => if a.joins p then g.dropLast ++ [{ a with n := a.n + p.n, fill := a.fill ++ p.fill }] else g ++ [p]
        | none => [p]) :: rest
    else
      match rest.find? same with
      | some h => (h ++ [p]) :: g :: rest.erase h
      | none => [p] :: g :: rest
  | [] => [[p]]

/-- The destination sectors of a copy with their pieces. -/
def CopyJob.plan (j : CopyJob) : List (List CopyPart) :=
  let cols := j.field 0x20 2 + 2 * j.halo
  let rows := j.rowSources
  ((rows.zip (List.range rows.length)).foldl (fun groups x =>
    (List.range cols).foldl (fun groups c => addPart groups (j.element cols x.2 c x.1)) groups) []).reverse

/-! ## Moving sectors (R283) -/

/-- How a run of a copy ended for now: done, asking another module, held at a home, or at a fault of an address, met at a place in the
copy's order (R282): an element's read comes before its write. -/
inductive CopyEnd
  | finished | waiting | held
  | failed (cause : BitVec 8) (key : Nat) (va : Word)
  deriving DecidableEq, Repr

/-- Where a piece's read and its write stand in the copy's order. -/
def CopyPart.readKey (p : CopyPart) : Nat := 2 * p.first
def CopyPart.writeKey (p : CopyPart) : Nat := 2 * p.first + 1

/-- A source sector that the copy has read. -/
def CopyJob.sector (j : CopyJob) (k : Nat) : Option (List Byte) := (j.cache.find? fun e => e.1 == k).map (·.2)

/-- The first piece of a list whose source sector is not read yet, with that sector. -/
def CopyJob.missing (j : CopyJob) (parts : List CopyPart) : Option (CopyPart × Nat) :=
  parts.findSome? fun p => p.src.bind fun a => if (j.sector (a.toNat / 32)).isSome then none else some (p, a.toNat / 32)

/-- Read the source sectors of some pieces, each whole and once. -/
def readSectors (ag : Word → Agent) : List CopyPart → CopyJob → State → CopyJob × CopyEnd × State
  | [], j, s => (j, .finished, s)
  | p :: rest, j, s =>
    match j.missing [p] with
    | none => readSectors ag rest j s
    | some (_, k) =>
      match copyRead (ag (word (k * 32))) (word (k * 32)) 32 s with
      | .ok b s1 => readSectors ag rest { j with cache := (k, b) :: j.cache } s1
      | .fault f s1 => (j, .failed f.cause p.readKey f.va, s1)
      | .held s1 => (j, .held, s1)
      | .remote t s1 =>
        let q := askRemote s1 t (word (k * 32)) (.read 32)
        ({ j with awaiting := some q.1, storing := false }, .waiting, q.2)

/-- The bytes of a piece. -/
def CopyJob.bytesOf (j : CopyJob) (p : CopyPart) : List Byte :=
  match p.src with
  | none => p.fill
  | some a => (((j.sector (a.toNat / 32)).getD []).drop (a.toNat % 32)).take p.n

/-- The byte of a sector that the pieces give, the last one counting. -/
def CopyJob.sectorByte (j : CopyJob) (parts : List CopyPart) (i : Nat) : Option Byte :=
  parts.foldl (fun acc p =>
    let o := p.dst.toNat % 32
    if o ≤ i ∧ i < o + p.n then some ((j.bytesOf p).getD (i - o) 0) else acc) none

/-- The address of a destination sector. -/
def sectorBase (parts : List CopyPart) : Word := word ((parts.head?.map fun p => p.dst.toNat / 32 * 32).getD 0)

/-- The runs of bytes that a copy writes in a destination sector. -/
def CopyJob.runs (j : CopyJob) (parts : List CopyPart) : List (Word × List Byte) :=
  let base := sectorBase parts
  let runs := (List.range 32).foldr (fun i (acc : List (Nat × List Byte)) =>
    match j.sectorByte parts i, acc with
    | none, _ => acc
    | some b, (o, bs) :: rest => if o = i + 1 then (i, b :: bs) :: rest else (i, [b]) :: acc
    | some b, [] => [(i, [b])]) []
  runs.map fun r => (base + word r.1, r.2)

/-- Write the runs of a sector: one page, so that the first one decides where they go. -/
def writeRuns (ag : Word → Agent) (runs : List (Word × List Byte)) (s : State) : Got Unit :=
  runs.foldl (fun acc r => acc.bind fun _ s1 => copyWrite (ag r.1) r.1 r.2 s1) (.ok () s)

/-- The one request that writes the runs of a sector on another module. -/
def sectorRequest (base : Word) (runs : List (Word × List Byte)) : Word × RemoteKind :=
  match runs with
  | [(a, b)] => (a, .write b)
  | _ =>
    let at' := fun (i : Nat) => runs.findSome? fun r => if (base + word i).toNat < r.1.toNat then none else r.2[(base + word i - r.1).toNat]?
    (base, .sectorWrite (BitVec.ofNat 32 ((List.range 32).foldl (fun m i => if (at' i).isSome then m + 2 ^ i else m) 0))
      ((List.range 32).map fun i => (at' i).getD 0))

/-- Fill elements of a sector. -/
def fillCount (z : Nat) (parts : List CopyPart) : Nat := parts.foldl (fun n p => if p.src.isNone then n + p.n / z else n) 0

/-- The first sector of the copy is written: a source sector that it has changed reads as it is now. -/
def CopyJob.wrote (j : CopyJob) (parts : List CopyPart) : CopyJob :=
  let k := (sectorBase parts).toNat / 32
  let now := fun (old : List Byte) => (List.range 32).map fun i => (j.sectorByte parts i).getD (old.getD i 0)
  { j with todo := j.todo.drop 1, storing := false, clipped := j.clipped + fillCount j.esize parts
           cache := j.cache.map fun e => if e.1 = k then (k, now e.2) else e }

/-- Carry on with the sectors of a copy. -/
def runSectors (ag : Word → Agent) : List (List CopyPart) → CopyJob → State → CopyJob × CopyEnd × State
  | [], j, s => (j, .finished, s)
  | g :: rest, j, s =>
    match readSectors ag g j s with
    | (j1, .finished, s1) =>
      let runs := j1.runs g
      match writeRuns ag runs s1 with
      | .ok _ s2 => runSectors ag rest (j1.wrote g) s2
      | .fault f s2 => (j1, .failed f.cause ((g.head?.map (·.writeKey)).getD 0) f.va, s2)
      | .held s2 => (j1, .held, s2)
      | .remote t s2 =>
        let ask := sectorRequest (sectorBase g) runs
        let q := askRemote s2 t ask.1 ask.2
        ({ j1 with awaiting := some q.1, storing := true }, .waiting, q.2)
    | r => r

/-! ## Faults of the payload (R282) -/

/-- Put a probe at its place in the copy's order. -/
def insertProbe (l : List CopyProbe) (x : CopyProbe) : List CopyProbe :=
  (l.filter fun y => decide (y.key < x.key)) ++ x :: l.filter fun y => !decide (y.key < x.key)

/-- The reads and the writes before a place of the copy's order that have still to be tried, in that order. -/
def CopyJob.probes (j : CopyJob) (key : Nat) : List CopyProbe :=
  let all : List CopyProbe := j.todo.flatMap fun g => g.flatMap fun p =>
    (match p.src with
      | some a => if (j.sector (a.toNat / 32)).isSome then [] else [(⟨p.readKey, false, a⟩ : CopyProbe)]
      | none => []) ++ [⟨p.writeKey, true, p.dst⟩]
  (all.filter fun x => decide (x.key < key)).foldl insertProbe []

/-- What a probe asks of another module: the whole sector that a read reads, or whether a write could perform. -/
def CopyProbe.ask (x : CopyProbe) : Word × RemoteKind :=
  let base := word (x.va.toNat / 32 * 32)
  (base, if x.writes then .sectorWrite 0 [] else .read 32)

/-- Whether a probe faults. -/
def CopyProbe.try (x : CopyProbe) (ag : Word → Agent) (s : State) : Got Unit :=
  let base := x.ask.1
  if x.writes then copyProbe (ag base) base s else (copyRead (ag base) base 32 s).bind fun _ s1 => .ok () s1

/-- How the search for the first fault stands; of a list that is left the first is asked. -/
inductive Judged
  | cause (c : BitVec 8) (va : Word)
  | waiting (left : List CopyProbe) (id : Nat)
  | held (left : List CopyProbe)
  deriving DecidableEq, Repr

/-- The cause of the first read or write, in the copy's order, that faults; the one that was met where no earlier one does. -/
def judge (ag : Word → Agent) (met : BitVec 8) (metVa : Word) : List CopyProbe → State → Judged × State
  | [], s => (.cause met metVa, s)
  | x :: rest, s =>
    match x.try ag s with
    | .ok _ s1 => judge ag met metVa rest s1
    | .fault f s1 => (.cause f.cause x.va, s1)
    | .held s1 => (.held (x :: rest), s1)
    | .remote t s1 =>
      let q := askRemote s1 t x.ask.1 x.ask.2
      (.waiting (x :: rest) q.1, q.2)

/-- The source sectors of a later sector, where their reads do not fault; the bytes of another module are free. -/
def laterSectors (ag : Word → Agent) : List CopyPart → CopyJob → State → Option (CopyJob × State)
  | [], j, s => some (j, s)
  | p :: rest, j, s =>
    match j.missing [p] with
    | none => laterSectors ag rest j s
    | some (_, k) =>
      match copyRead (ag (word (k * 32))) (word (k * 32)) 32 s with
      | .ok b s1 => laterSectors ag rest { j with cache := (k, b) :: j.cache } s1
      | .remote _ s1 =>
        let r := freeBytes s1 32
        laterSectors ag rest { j with cache := (k, r.1) :: j.cache } r.2
      | _ => none

/-- The first sector that is left keeps its old bytes. -/
def CopyJob.passes (j : CopyJob) : CopyJob := { j with todo := j.todo.drop 1, storing := false }

/-- The sectors behind a fault hold their old bytes or the copy's: a free choice. One of another module is written once that module has
acknowledged it (R282). -/
def settleSectors (ag : Word → Agent) : List (List CopyPart) → CopyJob → State → CopyJob × CopyEnd × State
  | [], j, s => ({ j with stage := .words, todo := [], cache := [] }, .finished, s)
  | g :: rest, j, s =>
    let s0 := { s with freeCtr := s.freeCtr + 1 }
    match if Config.freeBit s.freeCtr = true then laterSectors ag g j s0 else none with
    | none => settleSectors ag rest j.passes s0
    | some (j1, s1) =>
      match writeRuns ag (j1.runs g) s1 with
      | .ok _ s2 => settleSectors ag rest (j1.wrote g) s2
      | .remote t s2 =>
        let ask := sectorRequest (sectorBase g) (j1.runs g)
        let q := askRemote s2 t ask.1 ask.2
        ({ j1 with stage := .settling, awaiting := some q.1, storing := true }, .waiting, q.2)
      | _ => settleSectors ag rest j.passes s0

/-- A copy whose payload ends with a fault: the sectors that are left are settled, and the die controller logs the copy's DONE. -/
def failCopy (x : CopyStream) (ag : Word → Agent) (j : CopyJob) (cause : BitVec 8) (va : Word) (s : State) : CopyJob × CopyEnd × State :=
  settleSectors ag (j.todo.drop 1)
    { j.passes with stage := .settling, awaiting := none, answer := none, failed := true, err := cause.toNat, errVa := va }
    (logWords s (streamDie x) [j.done])

/-- Carry on with the search for the first fault. -/
def judgeCopy (x : CopyStream) (j : CopyJob) (met : BitVec 8) (left : List CopyProbe) (s : State) : CopyJob × CopyEnd × State :=
  let ag := copyAgent s x j
  match judge ag met j.errVa left s with
  | (.cause c va, s1) => failCopy x ag j c va s1
  | (.waiting l id, s1) => ({ j with stage := .judging met l, awaiting := some id, answer := none }, .waiting, s1)
  | (.held l, s1) => ({ j with stage := .judging met l, awaiting := none, answer := none }, .held, s1)

/-- Carry on with the sectors behind a fault, with the answer that one of them waited for. -/
def moveSettling (x : CopyStream) (j : CopyJob) (s : State) : Except State (CopyJob × State) :=
  let j1 : CopyJob := { j with awaiting := none, answer := none }
  let go := fun (j : CopyJob) => let r := settleSectors (copyAgent s x j) j.todo j s; Except.ok (r.1, r.2.2)
  match j.awaiting, j.answer with
  | some _, none => .error s
  | some _, some (.data _) => go (j1.wrote (j.todo.headD []))
  | some _, some _ => go j1.passes
  | none, _ => go j1

/-- The whole 128-byte lines of a plan: addresses whose four sectors it writes in full. -/
def wholeLines (plan : List (List CopyPart)) : List Word :=
  let full := plan.filterMap fun g =>
    if (List.range 32).all fun i => g.any fun p => decide (p.dst.toNat % 32 ≤ i) && decide (i < p.dst.toNat % 32 + p.n) then
      g.head?.map fun p => p.dst.toNat / 32
    else none
  (full.filter fun k => k % 4 == 0 && full.contains (k + 1) && full.contains (k + 2) && full.contains (k + 3)).map fun k => word (k * 32)

/-- A copy that has written whole lines clears their poison (R343). -/
def clearCopied (ag : Word → Agent) (j : CopyJob) (s : State) : State :=
  if s.poolPoison.isEmpty && s.dies.all fun d => d.2.poison.isEmpty then s
  else
    (wholeLines j.plan).foldl (fun s va => match translate (ag va) .probe va s with
      | .ok t _ => cleanLine s (lineKey t.key)
      | _ => s) s

/-- What a run of a copy comes to. An error: nothing has come of it but what the state holds. -/
def settleRun (x : CopyStream) (old : CopyJob) (r : CopyJob × CopyEnd × State) : Except State (CopyJob × State) :=
  match r with
  | (j, .finished, s) => .ok (j, s)
  | (j, .waiting, s) => .ok (j, s)
  | (j, .held, s) => if j = old then .error s else .ok (j, s)
  | (j, .failed c k va, s) =>
    let d := judgeCopy x { j with errVa := va } c (j.probes k) s
    .ok (d.1, d.2.2)

/-- Move the payload as far as it goes. -/
def runPayload (x : CopyStream) (old j : CopyJob) (s : State) : Except State (CopyJob × State) :=
  let ag := copyAgent s x j
  match runSectors ag j.todo j s with
  | (j1, .finished, s1) => .ok ({ j1 with stage := .words, cache := [] }, clearCopied ag j s1)
  | r => settleRun x old r

/-- Carry on with the payload, with the answer that it waited for. An error: nothing to do yet. -/
def movePayload (x : CopyStream) (j : CopyJob) (s : State) : Except State (CopyJob × State) :=
  let j1 : CopyJob := { j with awaiting := none, answer := none }
  let head := j.todo.headD []
  let va := if j.storing then (sectorRequest (sectorBase head) (j.runs head)).1 else word (((j.missing head).map fun x => x.2 * 32).getD 0)
  let place := if j.storing then (head.head?.map (·.writeKey)).getD 0 else ((j.missing head).map (·.1.readKey)).getD 0
  match j.awaiting, j.answer with
  | none, _ => runPayload x j j s
  | some _, none => .error s
  | some _, some (.data b) =>
    if j.storing then runPayload x j (j1.wrote head) s
    else runPayload x j (match j.missing head with
      | some (_, k) => { j1 with cache := (k, b) :: j1.cache }
      | none => j1) s
  | some _, some (.error c _) | some _, some (.nack c) => settleRun x j (j1, .failed c place va, s)

/-- Carry on with the search for the first fault, with the answer that its first probe waited for. -/
def moveJudging (x : CopyStream) (j : CopyJob) (met : BitVec 8) (left : List CopyProbe) (s : State) : Except State (CopyJob × State) :=
  let j1 : CopyJob := { j with awaiting := none, answer := none }
  let done := fun (c : BitVec 8) => let r := failCopy x (copyAgent s x j) j1 c ((left.head?.map (·.va)).getD 0) s; Except.ok (r.1, r.2.2)
  match j.awaiting, j.answer with
  | some _, none => .error s
  | some _, some (.error c _) | some _, some (.nack c) => done c
  | some _, some (.data _) => settleRun x j (judgeCopy x j1 met (left.drop 1) s)
  | none, _ => settleRun x j (judgeCopy x j1 met left s)

/-! ## The start (R274, R277) -/

/-- The packet fails: no payload, the words next. -/
def CopyJob.reject (j : CopyJob) (err : Nat) : CopyJob := { j with stage := .words, err := err, todo := [], awaiting := none, answer := none }

/-- One access of the start with its answer. -/
inductive StartStep
  | data (b : List Byte) (s : State)
  | failed (cause : BitVec 8) (s : State)
  | waiting (id : Nat) (s : State)
  | none (s : State)

def startRead (x : CopyStream) (j : CopyJob) (va : Word) (n : Nat) (s : State) : StartStep :=
  match j.awaiting, j.answer with
  | some _, Option.none => .none s
  | some _, some (.data b) => .data b s
  | some _, some (.error c _) => .failed c s
  | some _, some (.nack c) => .failed c s
  | Option.none, _ =>
    match copyRead (copyAgent s x j va) va n s with
    | .ok b s1 => .data b s1
    | .fault f s1 => .failed f.cause s1
    | .held s1 => .none s1
    | .remote t s1 =>
      let q := askRemote s1 t va (.read n)
      .waiting q.1 q.2

/-- Read the extent list, `n` extents from number `e` (R276). A fault in it ends the copy as one of the payload does, with that fault's
cause in ERR and the copy's DONE logged, though R282 speaks of elements only (DESIGN CHOICE, log 74). -/
def readExtents (x : CopyStream) : Nat → Nat → CopyJob → State → Except State (CopyJob × State)
  | 0, _, j, s =>
    if j.extentsBad then .ok (j.reject 0x13, s) else movePayload x { j with stage := .moving, todo := j.plan } s
  | n + 1, e, j, s =>
    let va := packetField j.packet 0x08 8 + word (16 * e)
    match startRead x j va 16 s with
    | .data b s1 => readExtents x n (e + 1) { j with extents := j.extents ++ b, awaiting := none, answer := none } s1
    | .failed c s1 => .ok ({ j.reject c.toNat with failed := true, errVa := va }, logWords s1 (streamDie x) [j.done])
    | .waiting id s1 => .ok ({ j with stage := .list, awaiting := some id }, s1)
    | .none s1 => .error s1

/-- A copy whose packet is there starts. -/
def startPacket (x : CopyStream) (j : CopyJob) (s : State) : Except State (CopyJob × State) :=
  if j.check ≠ 0 then .ok (j.reject j.check, s)
  else if j.gather then
    let have' := j.extents.length / 16
    readExtents x (j.field 0x22 2 - have') have' j s
  else movePayload x { j with stage := .moving, todo := j.plan } s

/-- A COPY operation reads its packet first (R381). -/
def startCopy (x : CopyStream) (j : CopyJob) (s : State) : Except State (CopyJob × State) :=
  match x, j.posted with
  | .trigger d, some e =>
    if j.packet.isEmpty then
      let va := (getPosted s d e).src
      match startRead x j va 64 s with
      | .data b s1 => startPacket x { j with packet := b, awaiting := none, answer := none } s1
      | .failed c s1 => .ok ({ j.reject c.toNat with failed := true, errVa := va }, s1)
      | .waiting id s1 => .ok ({ j with awaiting := some id }, s1)
      | .none s1 => .error s1
    else startPacket x j s
  | _, _ => startPacket x j s

/-- COPY_START: the first copy of a stream is checked before it moves any byte, and its payload moves as far as no other module
is asked (R274, R277). -/
def execCopyStart (stream : CopyStream) (st : State) : Result :=
  match streamJobs st stream with
  | [] => notDue
  | j :: rest =>
    if (j.stage = .fresh ∨ j.stage = .list) ∧ (getDie st (streamDie stream)).online then
      match startCopy stream j st with
      | .ok (j1, s1) => .next (setJobs s1 stream (j1 :: rest))
      | .error s1 => heldEnd st s1
    else notDue

/-! ## The end (R280, R281) -/

/-- The completion word and, above it, the status word: one write, so that a fault of either leaves both unwritten (R280 to R282). -/
def CopyJob.words (j : CopyJob) : Option (Word × List Byte) :=
  if j.packet.isEmpty ∨ j.done = 0 ∨ j.done.toNat % 16 ≠ 0 then none
  else
    some (j.done, leBytes 8 (j.field 0x3C 4 + j.err % 2 ^ 8 * 2 ^ 32)
      ++ (if bits j.hdr 26 1 = 1 then leBytes 8 (min j.clipped (2 ^ 32 - 1)) else []))

/-- What a copy that has failed reports: the cause and the address (R386). -/
def CopyJob.failure (j : CopyJob) : Option (BitVec 8 × Word) := if j.failed then some (BitVec.ofNat 8 j.err, j.errVa) else none

/-- The copy leaves its stream: TRIG, except for a rerun, and the posted operation that it was, which fails for what `bad` says. A packet
whose DONE is misaligned is logged (R274). -/
def endCopy (x : CopyStream) (j : CopyJob) (rest : List CopyJob) (bad : Option (BitVec 8 × Word)) (s : State) : State :=
  let d := streamDie x
  let s1 := setJobs s x rest
  let s2 := if !j.packet.isEmpty && j.done.toNat % 16 != 0 then logWords s1 d [j.done] else s1
  let s3 := if bits j.hdr 25 1 = 1 ∧ !j.rerun then raiseByEngine s2 d (j.posted.map (handleOf s2 d)) (word (j.field 0x24 4)) 1 else s2
  match j.posted with
  | some e => endFiring (match bad with
      | some (c, va) => logPosted s3 d e c va
      | none => s3) d e bad.isNone
  | none => s3

/-- The words could not be written: logged, with the payload's fault before that of the words. -/
def endUnwritten (x : CopyStream) (j : CopyJob) (rest : List CopyJob) (cause : BitVec 8) (s : State) : State :=
  endCopy x j rest (j.failure.or (some (cause, j.done))) (logWords s (streamDie x) [j.done])

/-- Write the words and end the copy. -/
def finishWords (x : CopyStream) (j : CopyJob) (rest : List CopyJob) (s : State) : Except State State :=
  match j.words with
  | none => .ok (endCopy x j rest j.failure s)
  | some (va, b) =>
    match copyWrite (copyAgent s x j va) va b s with
    | .ok _ s1 => .ok (endCopy x j rest j.failure s1)
    | .fault f s1 => .ok (endUnwritten x j rest f.cause s1)
    | .held s1 => .error s1
    | .remote t s1 =>
      let q := askRemote s1 t va (.write b)
      .ok (setJobs q.2 x ({ j with awaiting := some q.1 } :: rest))

/-- The words of a copy, with the answer that they waited for. -/
def wordsStep (x : CopyStream) (j : CopyJob) (rest : List CopyJob) (s : State) : Except State State :=
  match j.awaiting, j.answer with
  | none, _ => finishWords x j rest s
  | some _, none => .error s
  | some _, some (.data _) => .ok (endCopy x j rest j.failure s)
  | some _, some (.error c _) | some _, some (.nack c) => .ok (endUnwritten x j rest c s)

/-- COPY_COMPLETE: the payload's last byte, the words, the trigger. A copy that waits for another module carries on with the
answer. -/
def execCopyComplete (stream : CopyStream) (st : State) : Result :=
  match streamJobs st stream with
  | [] => notDue
  | j :: rest =>
    if !(getDie st (streamDie stream)).online then notDue
    else
      let out : Except State State := match j.stage with
        | .moving => (movePayload stream j st).map fun r => setJobs r.2 stream (r.1 :: rest)
        | .judging met left => (moveJudging stream j met left st).map fun r => setJobs r.2 stream (r.1 :: rest)
        | .settling => (moveSettling stream j st).map fun r => setJobs r.2 stream (r.1 :: rest)
        | .words => wordsStep stream j rest st
        | _ => .error st
      match out with
      | .ok s1 => .next s1
      | .error s1 => heldEnd st s1

/-! ## Copy queues (R278) -/

/-- The copy queue whose turn it is, with its published packet. -/
def nextCopyQueue (cl : Nat) (s : State) : Option (Except State (Nat × Word × Ring × List Byte × State)) :=
  let k := getCluster s cl
  (List.range 16).findSome? fun i =>
    let q := (k.rrCopy + i) % 16
    if 8 ≤ (smGet [] k.queueJobs q).length then none
    else
      (smFind k.copyQueues q).bind fun x =>
        (orNothing s (publishedPacket (Agent.ofCluster cl) x.descriptor s)).map fun r =>
          r.map fun p => (q, x.descriptor, p.1, p.2.1, p.2.2)

/-- COPY_QUEUE_TAKE: a void packet only advances READ (R249). -/
def execCopyQueueTake (cluster : Nat) (st : State) : Result :=
  if !clusterUp st cluster then notDue
  else
    match nextCopyQueue cluster st with
    | none => notDue
    | some (.error s1) => heldEnd st s1
    | some (.ok (q, d, ring, b, s1)) =>
      match advanceRead (Agent.ofCluster cluster) (dieOfCluster cluster) d ring s1 with
      | .error s2 => heldEnd st s2
      | .ok s2 =>
        let s3 := updCluster s2 cluster fun k => { k with rrCopy := (q + 1) % 16 }
        if bits (packetField b 0 8) 0 8 = 0 then .next s3
        else .next (setJobs s3 (.queue cluster q) (streamJobs s3 (.queue cluster q) ++ [CopyJob.ofPacket b none false]))

end Sys2Proof.Machine
end

