-- ==== Sys2Proof/Machine/Die.lean ====
section
/-! DEFINITION. The events of a die: free frames and pool pages (R310, R312, R409), migration, eviction and fetch-in (R313, R410),
the eviction policy (R411), warm reset (R344 to R348), failure of a die (R349) and of its links (R341). -/

namespace Sys2Proof.Machine

/-! ## Frames (R310, R312) -/

/-- Zero a 64 KiB frame of a die: its poison goes with its data (R343). -/
def zeroFrame (s : State) (d pa : Nat) : State :=
  let key := (Place.dram d pa).key
  cleanRange { s with mem := memZero s.mem key 65536 } key 65536

/-- The eviction policy stops once the free-frame pool has reached EVHIGH (R411). -/
def checkHigh (d : Nat) (s : State) : State :=
  updDie s d fun k => { k with evActive := k.evActive && decide (k.freeFrames.length < (smGet 0 k.regs 0xA8).toNat) }

/-- A frame joins the free-frame pool, zeroed. -/
def giveFrame (s : State) (d pa : Nat) : State :=
  checkHigh d (updDie (zeroFrame s d pa) d fun k => { k with freeFrames := k.freeFrames ++ [pa] })

/-- FRAME_RECLAIM: a page freed by `pfree` gives its frame back; one that lay in the pool gives its pool page back. -/
def execFrameReclaim (die : Nat) (st : State) : Result :=
  match (getDie st die).reclaim with
  | [] => notDue
  | k :: rest =>
    let s1 := updDie st die fun x => { x with reclaim := rest }
    if 2 ^ 60 ≤ k then .next (updDie s1 die fun x => { x with poolPages := x.poolPages ++ [k - 2 ^ 60] })
    else .next (giveFrame s1 die k)

/-- FREE_FRAME_PUSH: what is no whole frame of the die's memory is ignored. -/
def execFreeFramePush (die : Nat) (frame : Word) (st : State) : Result :=
  if frame.toNat % 65536 = 0 ∧ frame.toNat + 65536 ≤ dieBytes st die then .next (giveFrame st die frame.toNat) else .next st

/-- POOL_PAGE_PUSH: what is no page of the 48-bit pool space is ignored. -/
def execPoolPagePush (die : Nat) (page : Word) (st : State) : Result :=
  if page.toNat % 65536 = 0 ∧ page.toNat < 2 ^ 48 then
    .next (updDie st die fun k => { k with poolPages := k.poolPages ++ [page.toNat] })
  else .next st

/-! ## Moving pages (R313, R409, R410) -/

/-- The kinds of MIGCMD (R355). -/
def kindMove : Nat := 1
def kindEvict : Nat := 2
def kindFetch : Nat := 3

/-- The outcomes of MIGSTAT (R355). -/
def moveDone : Nat := 0
def moveGaveUp : Nat := 1
def movePinned : Nat := 2
def moveNoRegion : Nat := 3

/-- A region that serves accesses. -/
def regionServes (s : State) (r : Nat) : Bool := regionState s r == 1 || regionState s r == 2

/-- Where a move goes: the frame or pool page, and the state with it taken. -/
def moveTarget (s : State) (d kind : Nat) : Option (Nat × State) :=
  if kind = kindEvict then
    match (getDie s d).poolPages with
    | p :: rest => if regionServes s (p / 2 ^ 30) then some (p, updDie s d fun k => { k with poolPages := rest }) else none
    | [] => none
  else
    match (getDie s d).freeFrames with
    | f :: rest => some (f, updDie s d fun k => { k with freeFrames := rest })
    | [] => none

/-- Copy a page with the poison marks of its lines. -/
def copyPage (s : State) (src dst : Nat) : State :=
  let s1 := cleanRange { s with mem := memMove s.mem src dst 65536 } dst 65536
  (List.range 512).foldl (fun s i => if linePoisoned s (src + 128 * i) then poisonLine s (dst + 128 * i) else s) s1

/-- Go on where no other module must answer for lines first; else the engine waits. -/
def engineAwaits (l : List RemoteHolder) (drop : Bool) (s : State) (go : State → Except State State) : Except State State :=
  if l.isEmpty then go s else .error (l.foldl (askHolder drop) s)

/-- The walk of an engine of a die to the leaf of an address in its space, and what follows once the leaf is its own to change. -/
def engineLeaf (d root off : Nat) (s : State) (go : Walk → State → Except State State) : Except State State :=
  let w := walkBy s [] d root off
  engineAwaits (w.2.flatMap fun x => holdersOf s (Place.dram d x.entryPa).key 8 false) false s fun s =>
    match w.1 with
    | .leaf _ _ _ pa => engineAwaits (holdersOf s (Place.dram d pa).key 8 true) true s (go w.1)
    | .fail _ => go w.1 s

/-- A move ends with an outcome (R355): what it does not keep goes back. -/
def endMove (d outcome : Nat) (s : State) : State := updDie s d fun k => { k with moving := none, migStat := word (2 * outcome) }

/-- The frame or pool page that a move has taken goes back (R313): a pool page of a lost region does not (R410). -/
def dropTarget (d outcome : Nat) (m : PageMove) (s : State) : State :=
  if m.kind ≠ kindEvict then giveFrame s d m.target
  else if outcome = moveNoRegion then s
  else updDie s d fun k => { k with poolPages := k.poolPages ++ [m.target] }

/-- Step 1 and 2 of a move of the page at an address (R313): the destination is taken, MIG is 1, the page leaves every MTLB. -/
def beginMove (d kind : Nat) (va : Word) (s : State) : Except State State :=
  let t := Translator.die d 7
  match spaceOf s none none va, t.root s with
  | .device d' off, .ok root =>
    engineLeaf d root off s fun w s =>
      match w with
      | .leaf page size e pa =>
        let fits := size = 2 ^ 16 ∧ leafMalformed size e = false ∧ leafCommit e = true ∧ leafMig e = 0
          ∧ leafLoc e = decide (kind = kindFetch) ∧ (leafLoc e = true ∨ leafFrame e + 65536 ≤ dieBytes s d)
        if d' ≠ d ∨ ¬ fits then .ok (endMove d moveGaveUp s)
        else if kind = kindFetch ∧ regionServes s (leafFrame e / 2 ^ 30) = false then .ok (endMove d moveNoRegion s)
        else
          match moveTarget s d kind with
          | none => .ok (endMove d moveGaveUp s)
          | some (dst, s1) =>
            let s2 := invalidateRange t page 65536 (putEntry s1 d pa (setBits e 11 2 1))
            .ok (updDie s2 d fun k => { k with moving := some ⟨kind, page, pa, dst⟩, migStat := 1 })
      | .fail _ => .ok (endMove d moveGaveUp s)
  | _, _ => .ok (endMove d moveGaveUp s)

/-- Whether the region of the pool page that a move reads or fills serves (R410). -/
def moveServed (s : State) (m : PageMove) (e : Word) : Bool :=
  if m.kind = kindEvict then regionServes s (m.target / 2 ^ 30)
  else if m.kind = kindFetch then regionServes s (leafFrame e / 2 ^ 30)
  else true

/-- The commit of a move (R313, step 5): the entry names the destination where the page has not been pinned and no region was lost,
and every MTLB drops the page. -/
def commitMove (d : Nat) (m : PageMove) (e : Word) (s : State) : State :=
  let src := frameKey (.die d 7) e
  let put := fun (e : Word) (s : State) => invalidateRange (.die d 7) m.page 65536 (putEntry s d m.entryPa (setBits e 11 2 0))
  let abort := fun (outcome : Nat) => endMove d outcome (dropTarget d outcome m (put e s))
  if moveServed s m e = false then abort moveNoRegion
  else if leafPin e ≠ 0 then abort movePinned
  else
    let evict := m.kind = kindEvict
    let key := if evict then (Place.pool m.target).key else (Place.dram d m.target).key
    let s1 := put (setBits (setBits e 16 32 (m.target / 2 ^ 16)) 15 1 (if evict then 1 else 0)) (copyPage s src key)
    endMove d moveDone (if m.kind = kindFetch then updDie s1 d fun k => { k with poolPages := k.poolPages ++ [leafFrame e] }
      else giveFrame s1 d (leafFrame e))

/-- Steps 3 to 6 of a move: the page's coherent lines are recalled, the page is copied, the move commits. What was held at the page
then performs at the frame that the entry names. -/
def continueMove (d : Nat) (m : PageMove) (s : State) : Except State State :=
  let e := tableEntry s d m.entryPa
  let src := frameKey (.die d 7) e
  engineAwaits (holdersOf s src 65536 true ++ holdersOf s (Place.dram d m.entryPa).key 8 true) true s fun s =>
    .ok (commitMove d m e (recallRange s src 65536 true))

/-- What an engine's run comes to. -/
def engineEnd (st : State) (r : Except State State) : Result :=
  match r with
  | .ok s1 => .next s1
  | .error s1 => heldEnd st s1

/-- A move of the page at MIGVA begins; one under way goes on. -/
def moveCommand (d kind : Nat) (s : State) : Result :=
  if !(getDie s d).online then notDue
  else
    match (getDie s d).moving with
    | some m => if m.kind = kind then engineEnd s (continueMove d m s) else notDue
    | none => engineEnd s (beginMove d kind (dieReg s d 0x200) s)

/-- MIGRATE_PAGE. -/
def execMigratePage (die : Nat) (st : State) : Result := moveCommand die kindMove st

/-- EVICT_PAGE. -/
def execEvictPage (die : Nat) (st : State) : Result := moveCommand die kindEvict st

/-- FETCH_IN_PAGE. -/
def execFetchInPage (die : Nat) (st : State) : Result := moveCommand die kindFetch st

/-- A move of a die aborts (R410): MIG is 0 again, and the destination goes back. -/
def abortMove (outcome d : Nat) (s : State) : State :=
  match (getDie s d).moving with
  | none => s
  | some m => endMove d outcome (dropTarget d outcome m (putEntry s d m.entryPa (setBits (tableEntry s d m.entryPa) 11 2 0)))

/-- The moves whose region has become LOST abort (R410). -/
def abortUnserved (s : State) : State :=
  (List.range 4).foldl (fun s d => match (getDie s d).moving with
    | some m => if moveServed s m (tableEntry s d m.entryPa) then s else abortMove moveNoRegion d s
    | none => s) s

/-! ## The eviction policy (R411) -/

/-- The offsets of the pages of the die's evictable ranges. -/
def evictable (s : State) (d : Nat) : List Nat :=
  (List.range 16).flatMap fun n =>
    let base := dieReg s d (0x100 + 16 * n)
    if bits base 0 1 = 1 then
      (List.range ((dieReg s d (0x108 + 16 * n)).toNat / 65536)).map fun i => base.toNat / 65536 * 65536 + i * 65536
    else []

/-- The policy looks at one page: A is cleared, or its eviction begins, or it is passed over. -/
def sweepPage (d off : Nat) (s : State) : Except State State :=
  match (Translator.die d 7).root s with
  | .error _ => .ok s
  | .ok root =>
    engineLeaf d root off s fun w s =>
      match w with
      | .leaf page size e pa =>
        if size ≠ 2 ^ 16 then .ok s
        else if leafA e then .ok (invalidateRange (.die d 7) page size (putEntry s d pa (setBits e 3 1 0)))
        else if leafPin e = 0 ∧ leafMig e = 0 ∧ leafCommit e = true then
          beginMove d kindEvict (word (s.moduleId.toNat * 2 ^ 54 + d * 2 ^ 52 + off)) s
        else .ok s
      | .fail _ => .ok s

/-- EVICTION_POLICY: one page of the sweep, from the time the pool is below EVLOW until it reaches EVHIGH. The engine makes one move
at a time. -/
def execEvictionPolicy (die : Nat) (st : State) : Result :=
  let k := getDie st die
  let pages := evictable st die
  if k.online ∧ k.moving.isNone ∧ (k.evActive ∨ k.freeFrames.length < (dieReg st die 0xA0).toNat)
      ∧ k.freeFrames.length < (dieReg st die 0xA8).toNat
  then
    match pages[k.evSweep % pages.length]? with
    | none => notDue
    | some off =>
      engineEnd st ((sweepPage die off st).map fun s1 =>
        updDie s1 die fun x => { x with evSweep := (k.evSweep + 1) % pages.length,
                                        evActive := decide (x.freeFrames.length < (dieReg s1 die 0xA8).toNat) })
  else notDue

/-! ## The end of a die's work (R344 to R347) -/

/-- The window lines of the module that a reset of a die recalls (R344, step 2): the coherent lines homed on it. -/
def homedOn (d : Nat) (e : Nat × Line) : Bool := e.2.attr == 0 && decide (placeOf e.2.home = .dram d (e.2.home % 2 ^ 48))

/-- Recall the lines that are homed on a die, into its memory. -/
def recallHome (d : Nat) (s : State) : State :=
  (touchedCores s).foldl (fun s g =>
    ((getCore s g).lines.filter (homedOn d)).foldl (fun s e => cleanOrDrop s g e.1 e.2 true) s) s

/-- Write back the dirty window lines of a die (R344, step 3): those of a home in reset stay, and are lost with the scratchpads. -/
def returnOwn (d : Nat) (s : State) : State :=
  ((touchedCores s).filter fun g => dieOf g == d).foldl (fun s g =>
    match engineReturns g d ((getCore s g).lines.filter fun e => !offlineLine s g e) s with
    | .ok s1 | .error s1 => s1) s

/-- The clusters of a die. -/
def clustersOf (d : Nat) : List Nat := (List.range 4).map fun c => 4 * d + c

/-- Every live task of a die's clusters ends with DIE_OFFLINE: the resident ones, then the saved and the ready ones (R346). -/
def endTasks (d : Nat) (s : State) : State :=
  let s1 := ((allFrames s).filter fun e => dieOf e.1 == d).foldl
    (fun s e => withFrame e.1 e.2.1 (endTask (some causeOffline)) s) s
  (clustersOf d).foldl (fun s cl =>
    let rest := (getCluster s cl).saved.map (·.task) ++ (getCluster s cl).ready
    let s2 := (rest.flatMap claimedSlots).foldl (writeVoid cl) s
    updCluster s2 cl fun k =>
      let k1 := rest.foldl (fun k t => updLaunch k t.launchId fun l => l.taskEnded t.weight (some causeOffline)) k
      { k1 with saved := [], ready := [] }) s1

/-- The words of a rejected packet are still to be written (R249). -/
def FirmwareOutput.rejects : FirmwareOutput → Bool
  | .rejected .. | .leaving .. => true
  | _ => false

/-- Every launch taken completes: its status word and DONEVAL (R346), and the words of rejected packets. One that must wait for another
module stays for now. -/
def endLaunches (d : Nat) (s : State) : State :=
  let go := fun (s : State) (x : Except State State) => match x with
    | .ok s1 => s1
    | .error s1 => keepAsks s s1
  (clustersOf d).foldl (fun s cl =>
    let s1 := flushVoids cl s
    let s2 := go s1 (flushOutputs cl FirmwareOutput.rejects s1)
    (getCluster s2 cl).launches.foldl (fun s l => go s (finishLaunch cl l s)) s2) s

/-- An address lies on a die: its memory, or a scratchpad of it. -/
def onDie (ag : Agent) (d : Nat) (va : Word) (s : State) : Bool :=
  match ag.space s va with
  | .device e _ => e == d
  | .scratch g _ => dieOf g == d
  | _ => false

/-- The words of a copy that a reset ends, where DONE lies off the die. -/
def abortWords (x : CopyStream) (j : CopyJob) (rest : List CopyJob) (s : State) : Except State State :=
  match j.words with
  | some (va, _) =>
    if j.awaiting.isNone && onDie (copyAgent s x j va) (streamDie x) va s then .ok (endCopy x j rest j.failure s) else wordsStep x j rest s
  | none => wordsStep x j rest s

/-- A copy that a reset ends fails with ERR 0x17 (R347), and settles what it has not written as after a fault (R282). What it has asked of
another module is answered first. -/
def CopyJob.ending (j : CopyJob) : CopyJob :=
  let j1 : CopyJob := { j with stage := .settling, failed := true, err := causeOffline.toNat, errVa := j.done }
  if j.storing then j1 else { j1 with awaiting := none, answer := none }

/-- A copy ends with ERR 0x17 (R347), as far as it need not wait; the words of one that it has already sent stand. -/
def abortCopy (x : CopyStream) (j : CopyJob) (rest : List CopyJob) (s : State) : State :=
  let words := fun (j : CopyJob) (s : State) => match abortWords x j rest s with
    | .ok s1 => s1
    | .error s1 => keepAsks s s1
  let ended := j.failed && j.err == causeOffline.toNat
  if j.awaiting.isSome && j.answer.isNone then s
  else if j.stage = .words ∧ (ended = true ∨ j.awaiting.isSome = true) then words j s
  else
    match moveSettling x (if ended && j.stage == .settling then j else j.ending) s with
    | .error s1 => keepAsks s s1
    | .ok (j1, s1) =>
      let s2 := if ended then s1 else logWords s1 (streamDie x) [j.done]
      let s3 := setJobs s2 x (j1 :: rest)
      if j1.stage = .words then words j1 s3 else s3

/-- The copies of a stream end in order, as far as none waits for another module. -/
def abortStream (x : CopyStream) : List CopyJob → State → State
  | [], s => s
  | j :: rest, s =>
    let s1 := abortCopy x j rest s
    if (streamJobs s1 x).length ≤ rest.length then abortStream x rest s1 else s1

/-- The streams of a die's engines. -/
def streamsOf (d : Nat) : List CopyStream :=
  (List.range 192).flatMap (fun n => (List.range 4).map fun ch => CopyStream.channel (192 * d + n) ch)
    ++ (clustersOf d).flatMap (fun cl => (List.range 16).map fun q => CopyStream.queue cl q) ++ [.trigger d]

def endCopies (d : Nat) (s : State) : State := (streamsOf d).foldl (fun s x => abortStream x (streamJobs s x) s) s

/-! ## Reset and failure -/

/-- A core after a reset of its die: what is fixed at boot stays. -/
def wipeCore (s : State) (g : Nat) : State :=
  let s1 := setCore s g { Core.reset with slotmap := (getCore s g).slotmap }
  if g = s.active then { s1 with task := Task.fresh } else s1

/-- The requests that a target die holds are answered. -/
def answerHeld (d : Nat) (s : State) : State :=
  let out := (getDie s d).held.map fun h => Outbox.reply h.source h.core h.frame h.stream (.error causeOffline 0)
  updDie { s with outbox := s.outbox ++ out } d fun k => { k with held := [], nacked := [] }

/-- A cluster after a reset of its die: its mode is the boot's (R269), and its queues are registered with nobody. -/
def wipeCluster (k : Cluster) : Cluster :=
  { Cluster.reset with lockstep := k.lockstep
                       formerQueues := k.formerQueues ++ k.launchQueues.map (·.descriptor) ++ k.copyQueues.map (·.2.descriptor) }

/-- What does not survive a reset goes (R345): scratchpads, cores, clusters, MTLBs, triggers. -/
def wipeDie (d : Nat) (s : State) : State :=
  let lo := (Place.scratch (192 * d) 0).key
  let s1 := ((touchedCores s).filter fun g => dieOf g == d).foldl wipeCore (answerHeld d s)
  let s2 : State := { s1 with mem := memZero s1.mem lo (192 * 2 ^ 20), streams := s1.streams.filter fun (x : Stream) => dieOf x.core != d,
                                holders := s1.holders.filter fun (h : RemoteHolder) => h.home / 2 ^ 48 != d }
  let s3 := (clustersOf d).foldl (fun s cl => updCluster s cl wipeCluster) s2
  updDie s3 d fun k => { k with
    mtlb := [], paths := [], moving := none, evActive := false, trigStream := [], admitted := [], filling := [],
    counters := smMap Counter.initial (fun c => { Counter.initial with gen := c.gen }) k.counters,
    posted := smMap Posted.initial (fun p => { Posted.initial with gen := if p.used then p.gen + 1 else p.gen }) k.posted }

/-- An address is served by a die: its memory or scratchpad, or the pool whose tables it holds. -/
def servesVa (s : State) (d g : Nat) (va : Word) : Bool :=
  match spaceOf s (some (clusterOf g)) (some g) va with
  | .device e _ => e == d
  | .pool _ => bits s.poolrootLive 2 2 == d
  | .scratch h _ => dieOf h == d
  | _ => false

/-- The owed accesses of this module that stand at a die's home when its links stop taking requests (R344); a page that a core of the die
has begun to turn is turned. -/
def admittedOwed (s : State) (d : Nat) : List Nat :=
  (allFrames s).flatMap fun e => e.2.2.owed.filterMap fun o => match o.kind with
    | .access a _ t =>
      let turns := match a with
        | .setAttribute _ _ _ turning => turning && dieOf e.1 == d
        | _ => false
      let first := !behindOwed s (e.2.2.owed.takeWhile fun x => x.id != o.id) (a.touches s)
      if t = s.moduleId.toNat ∧ (turns || (first && servesVa s d e.1 a.va)) = true then some o.id else none
    | .reduction .. => none

/-- The fills under way whose home is on a die. -/
def admittedFills (s : State) (d : Nat) : List (Nat × Nat) :=
  (touchedCores s).flatMap fun g =>
    ((getCore s g).fills.filter fun f => f.failed.isNone && f.request.isNone && servesVa s d g (lineVa (getCore s g) f.line)).map
      fun f => (g, f.line)

/-- What a die had admitted when its reset began is not done yet. -/
def draining (s : State) (d : Nat) : Bool :=
  let k := getDie s d
  k.admitted.any (fun id => (findOwed s id).isSome)
    || k.filling.any fun x => (getCore s x.1).fills.any fun f => f.line == x.2 && f.failed.isNone && f.request.isNone

/-- A die stops taking requests (R344, step 1): what it holds for a handler is answered, what it has admitted drains, and its move
aborts (R410). -/
def beginReset (d : Nat) (clear : Bool) (s : State) : State :=
  let s1 := abortMove moveGaveUp d (answerHeld d s)
  updDie s1 d fun k => { k with
    online := false, resetStep := 1, clearPending := clear, admitted := admittedOwed s1 d, filling := admittedFills s1 d }

/-- Nothing of a die's work is left: no line that can go back, no request of its cores and engines to another module. -/
def workEnded (s : State) (d : Nat) : Bool :=
  ((touchedCores s).filter fun g => dieOf g == d).all (fun g =>
      (getCore s g).sent.isEmpty && (getCore s g).lines.all (offlineLine s g))
    && s.notices.all (fun n => n.die != d)
    && (clustersOf d).all (fun cl =>
      let k := getCluster s cl
      k.launches.isEmpty && k.voids.isEmpty && !k.fwPending.any FirmwareOutput.rejects)
    && (streamsOf d).all fun x => (streamJobs s x).isEmpty

/-- The memory, the page tables and the free-frame pool of a die are zeroed (R349). -/
def clearDie (d : Nat) (s : State) : State :=
  let s1 := { s with mem := memZero s.mem (Place.dram d 0).key (2 ^ 48) }
  updDie s1 d fun k => { k with poison := [], freeFrames := [], reclaim := [] }

/-- The reset itself (R344, step 5). -/
def resetDie (d : Nat) (s : State) : State :=
  let s1 := wipeDie d s
  updDie (if (getDie s d).clearPending then clearDie d s1 else s1) d fun k => { k with resetStep := 5 }

/-- A reset goes on by one step (R344): what was admitted drains; lines held elsewhere are asked back, and have come back; its own lines
go back and its work ends; the die is reset; its links retrain. -/
def continueReset (d : Nat) (s : State) : Result :=
  let set := fun (n : Nat) (s : State) => updDie s d fun k => { k with resetStep := n }
  let l := holdersOf s (2 ^ 48 * d) (2 ^ 48) true
  match (getDie s d).resetStep with
  | 1 => if draining s d then notDue else .next (l.foldl (askHolder true) (set 2 s))
  | 2 => if l.isEmpty then .next (set 3 (insideDie d (recallHome d) s)) else heldEnd s (l.foldl (askHolder true) s)
  | 3 =>
    let s1 := endCopies d (endLaunches d (endTasks d (returnOwn d (openDie d s))))
    let s2 := shutDie d s1
    if workEnded s1 d then .next (resetDie d s2) else if s2 = s then notDue else .next s2
  | 5 => .next (set 6 s)
  | _ => .next s

/-- DIE_WARM_RESET: the request, and then the steps of the reset. A failed die does not answer the request (R349). -/
def execDieWarmReset (die : Nat) (st : State) : Result :=
  if (getDie st die).online then .next (beginReset die false st) else continueReset die st

/-- DIE_RESET_CLEAR: a failed die skips steps 2 and 3 (R349). -/
def execDieResetClear (die : Nat) (st : State) : Result :=
  let k := getDie st die
  if k.online then .next (beginReset die true st)
  else if k.failed && k.resetStep == 0 then .next (resetDie die (beginReset die true st))
  else .next st

/-- A die that reaches no neighbour (R341). -/
def cutOff (k : Die) : Bool := k.rowDown && k.columnDown

/-- DIE_READMISSION: step 7 of R344. Every counter's generation advances (R377). -/
def execDieReadmission (die : Nat) (st : State) : Result :=
  let k := getDie st die
  if k.resetStep = 6 ∧ (k.failed = false ∨ k.clearPending = true) ∧ cutOff k = false then
    .next (updDie st die fun k => { k with
      online := true, failed := false, resetStep := 0, clearPending := false,
      counters := smOfFn Counter.initial 4096 fun i => { Counter.initial with gen := (smGet Counter.initial k.counters i).gen + 1 } })
  else notDue

/-- The lines of other dies that a die held as the only modified copy are poisoned by their homes, and logged (R349). -/
def poisonLost (d : Nat) (s : State) : State :=
  ((touchedCores s).filter fun g => dieOf g == d).foldl (fun s g =>
    ((getCore s g).lines.filter fun e => e.2.attr == 0 && e.2.dirty != 0).foldl (fun s e =>
      match placeOf e.2.home with
      | .dram h _ => if h ≠ d ∧ e.2.home < 2 ^ 50 then markLine s e.2.home else s
      | _ => s) s) s

/-- A die is taken offline at once (R349). -/
def failDie (d : Nat) (s : State) : State :=
  updDie (wipeDie d (poisonLost d s)) d fun k => { k with online := false, failed := true, resetStep := 0, clearPending := false }

/-- DIE_FAILURE. -/
def execDieFailure (die : Nat) (st : State) : Result := if (getDie st die).failed then notDue else .next (failDie die st)

/-- Mark a link of a die, at both of its ends. -/
def breakLink (d : Nat) (l : DieLink) (s : State) : State :=
  match l with
  | .row => [d, Nat.xor d 1].foldl (fun s e => updDie s e fun k => { k with rowDown := true }) s
  | .column => [d, Nat.xor d 2].foldl (fun s e => updDie s e fun k => { k with columnDown := true }) s
  | .io => updDie s d fun k => { k with ioDown := min 2 (k.ioDown + 1) }

/-- DIE_LINK_FAILURE: a die that reaches no neighbour any more is offline (R341). -/
def execDieLinkFailure (die : Nat) (link : DieLink) (st : State) : Result :=
  let s1 := breakLink die link st
  .next ((List.range 4).foldl (fun s d => if cutOff (getDie s d) && !(getDie s d).failed then failDie d s else s) s1)

end Sys2Proof.Machine
end

