-- ==== Sys2Proof/Machine/Fabric.lean ====
section
/-! DEFINITION. The events of the fabric: requests of other modules (R364), held and refused streams (R367 to R369), links and
routes (R363), modules that fail (R371), back-invalidations (R366), multicast at the root (R374) and RIMW arrivals (R383). -/

namespace Sys2Proof.Machine

/-! ## Serving a request of another module (R358, R364) -/

/-- Fabric, host and pool-side requests (R302). -/
def Agent.io : Agent := ⟨none, .io⟩

/-- A range of bytes page by page. -/
def rangeParts (va : Word) (n : Nat) : List (Word × Nat) :=
  let room := 2 ^ 16 - va.toNat % 2 ^ 16
  if n ≤ room then [(va, n)] else [(va, room), (va + word room, n - room)]

/-- Read a range through MTLB 6. -/
def ioRead (va : Word) (n : Nat) (s : State) : Got (List Byte) :=
  (rangeParts va n).foldl (fun acc p => acc.bind fun b s1 => (agentRead Agent.io p.1 p.2 s1).bind fun c s2 => .ok (b ++ c) s2) (.ok [] s)

/-- Write a range through MTLB 6: every page is translated before a byte is written. -/
def ioWrite (va : Word) (b : List Byte) (s : State) : Got Unit :=
  let parts := pageParts va b
  let checked : Got Unit := parts.foldl (fun acc p => acc.bind fun _ s1 =>
    (translate Agent.io .write p.1 s1).bind fun _ s2 => .ok () s2) (.ok () s)
  checked.bind fun _ s1 => parts.foldl (fun acc p => acc.bind fun _ s2 => agentWrite Agent.io p.1 p.2 s2) (.ok () s1)

/-- A window fill or upgrade of another module (R316, R365): the line with its attribute; the home keeps SC and CP
pages. The source becomes a holder. -/
def fillFor (source : BitVec 8) (exclusive : Bool) (va : Word) (s : State) : Got Reply :=
  (translate Agent.io (if exclusive then .write else .read) va s).bind fun t s1 =>
    let key := lineKey t.key
    if t.attr ≠ 0 then .ok (.data []) s1
    else
      awaitHolders ((holdersOf s1 key 128 exclusive).filter fun h => h.module != source || h.exclusive) exclusive s1 fun s1 =>
        let s2 := recallLine s1 key exclusive
        if linePoisoned s2 key then .fault ⟨causePoison, 0, va⟩ s2
        else
          .ok (.data (memBytes s2.mem key 128 ++ [BitVec.ofNat 8 t.attr])) { s2 with
            holders := (s2.holders.filter fun h => h.home != key || h.module != source)
              ++ [⟨key, word (va.toNat / 128 * 128), source, exclusive, none⟩] }

/-- Sectors that another module's window writes back (R233, R366): no holder is asked. No bytes at all tell of a sector with an
uncorrectable error (R235). -/
def writeBackAt (va : Word) (b : List Byte) (s : State) : Got Reply :=
  (translate Agent.io .write va s).bind fun t s1 =>
    if b.isEmpty then .ok (.data []) (markLine s1 (lineKey t.key))
    else
    let s2 := { s1 with mem := memStore s1.mem t.key b }
    .ok (.data []) (if b.length = 128 then cleanLine s2 t.key else s2)

/-- The runs of bytes of a sector that a mask names. -/
def maskRuns (va : Word) (mask : BitVec 32) (b : List Byte) : List (Word × List Byte) :=
  ((List.range 32).filter fun i => mask.getLsbD i).map fun i => (va + word i, [b.getD i 0])

/-- Write the masked bytes of a sector, whole (R283). -/
def writeSector (va : Word) (mask : BitVec 32) (b : List Byte) (s : State) : Got Unit :=
  (translate Agent.io .write va s).bind fun _ s1 =>
    (maskRuns va mask b).foldl (fun acc r => acc.bind fun _ s2 => agentWrite Agent.io r.1 r.2 s2) (.ok () s1)

/-- Another module holds a line no more: its home forgets it (R228, R233). -/
def releaseAt (source : BitVec 8) (va : Word) (s : State) : State :=
  { s with holders := s.holders.filter fun h => h.module != source || h.va != word (va.toNat / 128 * 128) }

/-- Perform a request at its home (R291), or at the trigger unit (R361). -/
def performRemote (source : BitVec 8) (va : Word) (kind : RemoteKind) (s : State) : Got Reply :=
  let data := fun (x : Got (List Byte)) => x.bind fun b s1 => Got.ok (Reply.data b) s1
  match kind with
  | .read n => data (ioRead va n s)
  | .write b | .memberWrite b => (ioWrite va b s).bind fun _ s1 => .ok (.data []) s1
  | .atomic op nar x => data (agentRmw Agent.io va (amoBytes nar) (fun old => some (amoStore op nar x old)) s)
  | .cas nar e x =>
    let n := amoBytes nar
    data (agentRmw Agent.io va n (fun old => if old = leBytes n e.toNat then some (leBytes n x.toNat) else none) s)
  | .cas128 el eh nl nh =>
    data (agentRmw Agent.io va 16 (fun old => if old = leBytes 8 el.toNat ++ leBytes 8 eh.toNat
      then some (leBytes 8 nl.toNat ++ leBytes 8 nh.toNat) else none) s)
  | .pageOp op => (pageOpAt op Agent.io va s).bind fun _ s1 => .ok (.data []) s1
  | .fill ex => fillFor source ex va s
  | .writeBack b => writeBackAt va b s
  | .release => .ok (.data []) (releaseAt source va s)
  | .sectorWrite mask b => (writeSector va mask b s).bind fun _ s1 => .ok (.data []) s1
  | .combine rop b => data (agentRmw Agent.io va b.length (fun old => some (rputNew rop old b)) s)
  | .counterAdd n =>
    match nameFate s va with
    | .live d i => .ok (.data []) (raiseCounter s d i n.toNat)
    | f => .fault (nameFault va f) s
  | .counterRead =>
    match nameFate s va with
    | .live d i => .ok (.data (leBytes 8 (getCounter s d i).value.toNat)) s
    | f => .fault (nameFault va f) s

/-- A request of a counter. -/
def asksCounter : RemoteKind → Bool
  | .counterAdd _ | .counterRead => true
  | _ => false

/-- The copy of a multicast write for a member. -/
def memberCopy : RemoteKind → Bool
  | .memberWrite _ => true
  | _ => false

/-- A fault of the walk of R306, or an empty free-frame pool, holds the request's stream (R367); not of a counter, nor of a multicast
copy (R374). -/
def holdable (kind : RemoteKind) (f : FaultRec) : Bool :=
  !asksCounter kind && !memberCopy kind &&
    ((f.cause == causeTranslation && (f.detail == 0 || decide (0x11 ≤ f.detail.toNat))) || f.cause == causeSparse
      || (f.cause == causePermission && decide (f.detail.toNat ≤ 2)) || (f.cause == causeAttribute && f.detail == 4))

/-- Answer a request. -/
def replyTo (s : State) (h : HeldRequest) (r : Reply) : State :=
  { s with outbox := s.outbox ++ [.reply h.source h.core h.frame h.stream r] }

/-- Refuse a stream's held requests (R368). -/
def refuseTo (s : State) (h : HeldRequest) (cause : BitVec 8) : State :=
  { s with outbox := s.outbox ++ [.refused h.source h.core h.frame h.stream cause] }

/-- The kind field of a fault record (R368). -/
def kindCode : RemoteKind → Nat
  | .read _ | .counterRead => 0
  | .write _ | .memberWrite _ | .counterAdd _ | .sectorWrite .. => 1
  | .fill _ => 3
  | _ => 2

/-- A fault record (R368). -/
def faultRecord (h : HeldRequest) (cause : BitVec 8) (tick : Nat) (token : Word) : List Byte :=
  leBytes 8 h.va.toNat
    ++ leBytes 8 (h.source.toNat + h.core * 2 ^ 8 + h.frame * 2 ^ 18 + h.stream * 2 ^ 20 + cause.toNat * 2 ^ 24 + kindCode h.kind * 2 ^ 32)
    ++ leBytes 8 tick ++ leBytes 8 token.toNat

/-- The bytes that a request touches, and whether it writes: none of one that waits for no other at its home. -/
def remoteReach (va : Word) : RemoteKind → List (Word × Nat) × Bool
  | .read n => ([(va, n)], false)
  | .write b | .memberWrite b | .combine _ b => ([(va, b.length)], true)
  | .atomic _ nar _ | .cas nar _ _ => ([(va, amoBytes nar)], true)
  | .cas128 .. => ([(va, 16)], true)
  | .pageOp _ => ([(va, 1)], true)
  | .fill ex => ([(va, 128)], ex)
  | .sectorWrite .. => ([(va, 32)], true)
  | .counterAdd _ | .counterRead | .writeBack _ | .release => ([], false)

/-- A request that arrives waits behind those that the home holds (R314). -/
def waitsBehind (s : State) (va : Word) (kind : RemoteKind) : Bool :=
  queuedBehind s (s.nextOwed + 1) (remoteReach va kind).2 (remoteReach va kind).1

/-- How a request at its target ended. -/
inductive Served
  | answered (s : State)
  | held (s : State)
  | refused (s : State)
  | nacked (cause : BitVec 8) (s : State)
  | waits (s : State)

/-- Hold a faulting request and record it; where the queue is full it is refused at once (R355, R367). -/
def holdRequest (d : Nat) (h : HeldRequest) (cause : BitVec 8) (s : State) : Served :=
  let ring := RecordRing.faults d
  if ring.full s then
    .refused (refuseTo (updDie s d fun k => { k with fqDrop := word (min (k.fqDrop.toNat + 1) (2 ^ 64 - 1)) }) h cause)
  else
    let token := (getDie s d).nextToken
    let h' : HeldRequest := { h with token := token, faulting := true, cause := cause, tick := s.tick }
    let s1 := updDie (putRecord ring (faultRecord h cause s.tick token) s) d fun k => { k with held := k.held ++ [h'], nextToken := token + 1 }
    .held { s1 with outbox := s1.outbox ++ [.hold h.source h.core h.frame h.stream] }

/-- Serve a request: performed, answered with an error, held, or answered negatively (R364, R367, R369). Streams have numbers
0 to 15; a request without a stream is never held (R360). -/
def serve (d : Nat) (h : HeldRequest) (s : State) : Served :=
  if waitsBehind s h.va h.kind then .waits s
  else
  match performRemote h.source h.va h.kind s with
  | .ok r s1 => .answered (replyTo s1 h r)
  | .held s1 => .waits s1
  | .remote _ _ => .waits s
  | .fault f s1 =>
    if h.stream < 16 ∧ holdable h.kind f then
      if h.nack then
        .nacked f.cause (updDie (replyTo s1 h (.nack f.cause)) d fun k =>
          { k with nacked := k.nacked ++ [⟨h.source, h.core, h.frame, h.stream, h.va, h.kind, f.cause⟩] })
      else holdRequest d h f.cause s1
    else .answered (replyTo s1 h (.error f.cause f.detail))

/-- Two requests of one stream. -/
def sameStream (a b : HeldRequest) : Bool :=
  a.source == b.source && a.core == b.core && a.frame == b.frame && a.stream == b.stream

/-- The die that holds a faulting request of a stream. -/
def holdingDie (s : State) (h : HeldRequest) : Option Nat :=
  (List.range 4).find? fun d => (getDie s d).held.any fun x => x.faulting && sameStream x h

/-- The negative reply that a stream still gets, with its die. -/
def nackedAt (s : State) (h : HeldRequest) : Option (Nat × Nacked) :=
  (List.range 4).findSome? fun d => ((getDie s d).nacked.find? fun x =>
    x.source == h.source && x.core == h.core && x.frame == h.frame && x.stream == h.stream).map fun x => (d, x)

/-- The die that owns what a request names, where it is this module's. -/
def ownerDie (s : State) (va : Word) (kind : RemoteKind) : Option Nat :=
  if asksCounter kind then (if nameModule va = s.moduleId then some (nameDie va) else none)
  else match spaceOf s none none va with
    | .device d _ => some d
    | _ => none

/-- A request that its home serves now. -/
def servedEnd (st : State) (x : Served) : Result :=
  match x with
  | .answered s1 | .held s1 | .refused s1 | .nacked _ s1 => .next s1
  | .waits s1 => heldEnd st s1

/-- REMOTE_REQUEST. Every later request of a stream that has had a negative reply gets another one, until its source restarts it (R369):
then the request that faulted is the first that it sends again (DEDUCED, log 47). -/
def execRemoteRequest (source : BitVec 8) (core frame stream : Nat) (nack : Bool) (va : Word) (kind : RemoteKind) (st : State) : Result :=
  let h : HeldRequest := ⟨source, core, frame, stream, va, kind, nack, 0, false, 0, st.tick⟩
  match ownerDie st va kind with
  | none => notDue
  | some d =>
    match holdingDie st h, nackedAt st h with
    | some e, _ => .next (updDie st e fun k => { k with held := k.held ++ [h] })
    | none, some (e, x) =>
      if x.va = va ∧ x.kind = kind then servedEnd st (serve d h (updDie st e fun k => { k with nacked := k.nacked.filter (· ≠ x) }))
      else .next (replyTo st h (.nack x.cause))
    | none, none => servedEnd st (serve d h st)

/-! ## Resume and refuse (R367, R368) -/

/-- The faulting request that a token names. -/
def heldBy (s : State) (d : Nat) (token : Word) : Option HeldRequest :=
  (getDie s d).held.find? fun h => h.faulting && h.token == token

/-- Perform the requests of a stream in arrival order, as far as none is held again, by the die that owns what it names, or answered
negatively: so are then those behind it (R369). -/
def resumeAll (d : Nat) : List HeldRequest → State → Except State State
  | [], s => .ok s
  | h :: rest, s =>
    let e := (ownerDie s h.va h.kind).getD d
    match serve e h s with
    | .answered s1 => resumeAll d rest s1
    | .held s1 => .ok (updDie s1 e fun k => { k with held := k.held ++ rest })
    | .refused s1 => .ok s1
    | .nacked c s1 => .ok (rest.foldl (fun s x => replyTo s x (.nack c)) s1)
    | .waits s1 => .error s1

/-- Take a stream's requests out of a die's list. -/
def takeStream (d : Nat) (h : HeldRequest) (s : State) : List HeldRequest × State :=
  ((getDie s d).held.filter (sameStream h), updDie s d fun k => { k with held := k.held.filter fun x => !sameStream h x })

/-- FAULT_RESUME: a token that names nothing has no effect. -/
def execFaultResume (die : Nat) (token : Word) (st : State) : Result :=
  match heldBy st die token with
  | none => .next st
  | some h =>
    let r := takeStream die h st
    match resumeAll die (r.1.map fun (x : HeldRequest) => { x with faulting := false }) r.2 with
    | .ok s1 => .next s1
    | .error s1 => heldEnd st s1

/-- FAULT_REFUSE. -/
def execFaultRefuse (die : Nat) (token : Word) (st : State) : Result :=
  match heldBy st die token with
  | none => .next st
  | some h => .next (refuseTo (takeStream die h st).2 h h.cause)

/-- The ticks that a stream may stay held (R368). -/
def streamTimeout : Nat := 2 ^ 26

/-- STREAM_FAULT_TIMEOUT. -/
def execStreamFaultTimeout (die : Nat) (token : Word) (st : State) : Result :=
  match heldBy st die token with
  | none => notDue
  | some h => if h.tick + streamTimeout ≤ st.tick then .next (refuseTo (takeStream die h st).2 h causeDead) else notDue

/-! ## At the source (R363, R367) -/

/-- HOLD_REPLY: the target holds the request, and its stream is frozen. -/
def execHoldReply (core frame : Nat) (q : StreamRequest) (st : State) : Result :=
  match getFrame st core frame with
  | none => notDue
  | some t => if t.owed.any fun o => o.id == q.id && sentOn st o q.stream then .next (stopStream st core frame q.stream q.id) else notDue

/-- Every stream with a sent request whose pinned route no longer works holds its new requests (R363). -/
def holdBroken (s : State) : State :=
  (allFrames s).foldl (fun s e => e.2.2.owed.foldl (fun s o =>
    match o.kind with
    | .access _ k m =>
      if sentOn s o k && routeBroken s (streamAvoids s e.1 e.2.1 k) m then updStream s e.1 e.2.1 k fun x => { x with holding := true } else s
    | .reduction .. => s) s) s

/-- A link of the fabric by its two ends. -/
def linkName (a b : BitVec 8) : Nat × Nat := (min a.toNat b.toNat, max a.toNat b.toNat)

/-- The fabric has a link between two positions (R357): they lie in one row or one column. -/
def linked (a b : BitVec 8) : Bool := a != b && (a.toNat / 16 == b.toNat / 16 || a.toNat % 16 == b.toNat % 16)

/-- FABRIC_LINK_FAILURE. -/
def execFabricLinkFailure (a b : BitVec 8) (st : State) : Result :=
  if !linked a b || st.linksDown.contains (linkName a b) then notDue
  else .next (holdBroken { st with linksDown := st.linksDown ++ [linkName a b] })

/-- FABRIC_LINK_RECOVERY. -/
def execFabricLinkRecovery (a b : BitVec 8) (st : State) : Result :=
  if !st.linksDown.contains (linkName a b) then notDue else .next { st with linksDown := st.linksDown.filter (· ≠ linkName a b) }

/-- End owed operations of the module with REMOTE_DEAD, in order; one that an earlier end has taken along is skipped. -/
def endOwed (ids : List Nat) (s : State) : State :=
  ids.foldl (fun s id => match findOwed s id with
    | some (g, pos, o) => releaseHeld g pos (withFrame g pos (completeOwed (.error causeDead 0) o) s)
    | none => s) s

/-- The held requests of a stream that no route can carry. -/
def unroutable (s : State) (t : Task) (k : Nat) : List Nat :=
  t.owed.filterMap fun o => match o.kind with
    | .access _ j m => if o.held && j == k && m != s.moduleId.toNat && !hasRoute s m then some o.id else none
    | .reduction .. => none

/-- STREAM_REPIN: the stream is drained, and it is pinned anew: to the minimal route as far as its links work, else to a detour (R363).
The requests it held leave; those that no route can carry end with REMOTE_DEAD. -/
def execStreamRepin (core frame stream : Nat) (st : State) : Result :=
  match getFrame st core frame, st.streams.find? fun x => x.core == core && x.frame == frame && x.stream == stream with
  | some t, some x =>
    if (x.holding || x.avoid != st.linksDown) && !(t.owed.any fun o => sentOn st o stream) then
      let s1 := updStream st core frame stream fun y => { y with holding := false, avoid := st.linksDown }
      .next (releaseHeld core frame (endOwed (unroutable s1 t stream) s1))
    else notDue
  | _, _ => notDue

/-! ## Modules that fail (R371) -/

/-- The owed operations of the module whose target is `m`. -/
def owedTo (s : State) (m : Nat) : List Nat :=
  (allFrames s).flatMap fun e => e.2.2.owed.filterMap fun o => match o.kind with
    | .access _ _ t => if t = m then some o.id else none
    | .reduction .. => none

/-- The engines' requests to `m`. -/
def askedOf (s : State) (m : Nat) : List Nat :=
  s.outbox.filterMap fun x => match x with
    | .engine id t _ _ => if id ≠ 0 ∧ t.toNat = m then some id else none
    | .rimWrite id t _ _ => if bits t 0 8 = m then some id else none
    | _ => none

/-- What a dead module held: a line that it alone had modified is poisoned at its home and logged, and a clean one forgotten (R372). Which of
the lines it might write it had modified is free. -/
def loseHolder (module : BitVec 8) (s : State) : State :=
  let s1 := (s.holders.filter fun h => h.module == module && h.exclusive).foldl (fun s h =>
    let s1 := { s with freeCtr := s.freeCtr + 1 }
    if Config.freeBit s.freeCtr then markLine s1 h.home else s1) s
  { s1 with holders := s1.holders.filter fun h => h.module != module }

/-- MODULE_DEATH: every request to it ends with REMOTE_DEAD, what it had sent is forgotten, and the routes through it are broken. -/
def execModuleDeath (module : BitVec 8) (st : State) : Result :=
  let m := module.toNat
  if module = st.moduleId ∨ m ∉ st.modules ∨ m ∈ st.dead then notDue
  else
    let s1 := { st with dead := st.dead ++ [m] }
    let s2 := endOwed (owedTo s1 m) s1
    let s3 := (askedOf s2 m).foldl (fun s id => answerEngine s id (.error causeDead 0)) s2
    let s4 := loseHolder module { s3 with rootWrites := s3.rootWrites.filter fun w => w.source != module }
    .next (holdBroken ((List.range 4).foldl (fun s d => updDie s d fun k =>
      { k with held := k.held.filter fun h => h.source != module, nacked := k.nacked.filter fun h => h.source != module }) s4))

/-- MODULE_ADMISSION. -/
def execModuleAdmission (module : BitVec 8) (st : State) : Result :=
  let m := module.toNat
  .next { st with
    modules := if m ∈ st.modules then st.modules else st.modules ++ [m]
    dead := st.dead.filter (· ≠ m)
    fabricOk := true }

/-! ## Back-invalidations, multicast, rims -/

/-- The window lines of the module over a line of another module. -/
def remoteLines (s : State) (va : Word) : List (Nat × Nat × Line) :=
  (touchedCores s).flatMap fun g =>
    ((getCore s g).lines.filter fun e => e.2.home == remoteHome (va.toNat / 128 * 128)).map fun e => (g, e.1, e.2)

/-- The sectors of a line that a write-back has on its way to its home. -/
def onItsWay (c : Core) (l : Nat) : BitVec 4 :=
  c.sent.foldl (fun m x => if x.line = l ∧ x.failed.isNone then m ||| x.mask else m) 0

/-- What a line gives back to its home: its dirty sectors that are not on their way there already, each written back once (R366), and
which of them have an uncorrectable error (R235). -/
def giveBack (s : State) (g l : Nat) (ln : Line) : BitVec 4 × BitVec 4 :=
  let dirty := ln.dirty &&& ~~~ onItsWay (getCore s g) l
  (dirty, BitVec.ofNat 4 ((List.range 4).foldl (fun m i =>
    if dirty.getLsbD i && sectorBad (getCore s g) (l * 128 + i * 32) 32 then m + 2 ^ i else m) 0))

/-- REMOTE_BACK_INVALIDATE: the lines are invalidated, or downgraded for a read, and the dirty sectors go back in the reply
(R366). -/
def execRemoteBackInvalidate (va : Word) (invalidate : Bool) (st : State) : Result :=
  match spaceOf st none none va with
  | .remote _ _ _ =>
    let l := remoteLines st va
    let out := match l.find? fun x => (giveBack st x.1 x.2.1 x.2.2).1 != 0 with
      | some (g, n, ln) =>
        let m := giveBack st g n ln
        Outbox.backInvalidateReply va m.1 m.2 (memBytes st.mem (Place.scratch g (n * 128)).key 128)
      | none => .backInvalidateReply va 0 0 []
    let s1 := l.foldl (fun s x =>
      let m := giveBack st x.1 x.2.1 x.2.2
      let s1 := (List.range 4).foldl (fun s i => if m.2.getLsbD i then consumeBad s x.1 (x.2.1 * 128 + i * 32) 32 else s) s
      if invalidate then dropLine s1 x.1 x.2.1
      else putLine s1 x.1 x.2.1 { x.2.2 with dirty := x.2.2.dirty &&& ~~~ m.1, exclusive := false }) st
    .next { s1 with outbox := s1.outbox ++ [out] }
  | _ => notDue

/-- A sequenced write of this module's own, of which it is the root, has still to be sent out. -/
def rootBusy (s : State) : Bool :=
  (allFrames s).any fun e => e.2.2.owed.any fun o => match o.kind with
    | .access a k t => (a.isMulticast && t == s.moduleId.toNat) || (o.held && k == rootStream)
    | .reduction .. => false

/-- The root writes or sends the copy of one member. A copy that faults, or whose member is dead, is left out: the fault goes back
with the member's id. -/
def rootCopy (group : Nat) (offset : Word) (b : List Byte) (w : RootWrite) (m : Nat) (s : State) : Except State (RootWrite × State) :=
  let va := memberVa s group m offset
  let failed := fun (c : BitVec 8) (s : State) => Except.ok ({ w with fault := w.fault.or (some (c, BitVec.ofNat 16 m)) }, s)
  if m = s.moduleId.toNat then
    if waitsBehind s va (.write b) then .error s
    else
      match agentWrite Agent.io va b s with
      | .ok _ s1 => .ok (w, s1)
      | .fault f s1 => failed f.cause s1
      | .remote _ s1 => .ok (w, s1)
      | .held s1 => .error s1
  else if m ∈ s.dead then failed causeDead s
  else if m ∉ s.modules then failed causeTranslation s
  else
    let q := askRemote s (BitVec.ofNat 8 m) va (.memberWrite b)
    .ok ({ w with asked := w.asked ++ [(q.1, m)] }, q.2)

/-- MCST_SEQ_ROOT: this module, the group's root, writes its own copy and sends the others in the order in which it receives the writes;
the write is acknowledged to its source once every copy has been (R374). -/
def execMcstSeqRoot (q : GroupWrite) (offset : Word) (narrow : Bool) (value : Word) (st : State) : Result :=
  let n := amoBytes narrow
  let b := leBytes n (value.toNat % 2 ^ (8 * n))
  let w : RootWrite := ⟨q.source, q.core, q.frame, q.stream, [], none⟩
  let members := if bits (groupWord st q.group 0) 0 1 = 0 ∨ (groupWord st q.group 2).toNat < offset.toNat + n then []
    else (List.range 256).filter (isMember st q.group)
  if bits (groupWord st q.group 0) 8 8 ≠ st.moduleId.toNat ∨ rootBusy st = true then notDue
  else
    match members.foldl (fun acc m => acc.bind fun x => rootCopy q.group offset b x.1 m x.2) (Except.ok (w, st)) with
    | .ok (w1, s1) => .next (closeRoots { s1 with rootWrites := s1.rootWrites ++ [w1] })
    | .error s1 => heldEnd st s1

/-- RIMW_ARRIVAL: a write that finds no task is dropped and logged (R383). -/
def execRimwArrival (target launch : Word) (values : List Byte) (st : State) : Result :=
  if bits target 0 8 ≠ st.moduleId.toNat then notDue
  else
    match deliverRim st target launch values with
    | .ok _ s1 => .next s1
    | .held s1 => heldEnd st s1
    | _ => .next (logError st (bits target 8 2))

end Sys2Proof.Machine
end

