-- ==== Sys2Proof/Machine/Pool.lean ====
section
/-! DEFINITION. The events of the pool: the region table (R405, R406), ports lost and back (R406, R408), forced release, the
lost-line log (R407), back-invalidation snoops (R402) and the writes of other requesters (R404). -/

namespace Sys2Proof.Machine

/-! ## The region table (R405, R406) -/

/-- A region's entry. -/
def regionWord (s : State) (r : Nat) : Word := smGet 0 s.regions r

def setRegion (s : State) (r : Nat) (w : Word) : State := { s with regions := smSet 0 s.regions r w }

/-- PORTS, PRI and EPOCH. -/
def regionPorts (w : Word) : BitVec 8 := BitVec.ofNat 8 (bits w 8 8)
def regionPri (w : Word) : Nat := bits w 16 3
def regionEpoch (w : Word) : Nat := bits w 24 8

/-- An entry with another STATE: EPOCH advances where it changes. -/
def withState (w : Word) (n : Nat) : Word :=
  if bits w 0 2 = n then w else setBits (setBits w 0 2 n) 24 8 ((regionEpoch w + 1) % 256)

/-- The lowest port of a set. -/
def lowestPort (p : BitVec 8) : Nat := ((List.range 8).find? fun i => p.getLsbD i).getD 0

/-- A driver may write STATE `new` over STATE `old` (R406): the same one, which asks for no transition, or one of the table. -/
def transitionAllowed (old new : Nat) : Bool := new == 0 || new == old || (old == 0 && new == 1) || (old == 2 && new == 1) || (old == 3 && new == 2)

/-- A write is refused (R405, R406). -/
def regionWriteBad (s : State) (old new : Word) : Bool :=
  let ports := regionPorts new
  let st := bits new 0 2
  (ports != 0 && !ports.getLsbD (regionPri new)) || !transitionAllowed (bits old 0 2) st
    || ((st == 1 || st == 2) && (ports == 0 || ports &&& ~~~ s.portsUp != 0))

/-- The pool address at which the page of an address lies now, as a requester reaches it. -/
def poolPlace (s : State) (ag : Agent) (va : Word) : Option Nat :=
  (translatorNow s ag va).bind fun tv => match leafNow tv.1 va s tv.2 with
    | .ok c => if leafLoc c.entry && leafCommit c.entry then some (leafFrame c.entry + (tv.2 - c.page)) else none
    | .error _ => none

/-- The pool address of a window line: an HC line's home, or where the page of an SC or CP line lies now (R312). -/
def linePpa (s : State) (g : Nat) (e : Nat × Line) : Option Nat :=
  if e.2.attr = 0 then (match placeOf e.2.home with
    | .pool p => some p
    | _ => none)
  else (poolPlace s (Agent.ofCore g) (lineVa (getCore s g) e.1)).map fun p => p / 128 * 128

/-- The window lines of the module over a region, with their cores and pool addresses. -/
def regionLines (s : State) (r : Nat) : List (Nat × Nat × (Nat × Line)) :=
  (touchedCores s).flatMap fun g =>
    (getCore s g).lines.filterMap fun e => (linePpa s g e).bind fun p => if p / 2 ^ 30 = r then some (g, p, e) else none

/-- A region goes OFFLINE: its lines leave the windows, written back where a port survives (R406). -/
def clearRegion (s : State) (r : Nat) : State :=
  let alive := regionPorts (regionWord s r) &&& s.portsUp != 0 && regionState s r != 3
  (regionLines s r).foldl (fun s x =>
    let home := (Place.pool x.2.1).key
    let w := if alive then storeSectors s x.1 x.2.2.1 home x.2.2.2 else (false, s)
    dropLine (if w.1 then logLine w.2 home else w.2) x.1 x.2.2.1) s

/-- REGION_TABLE_WRITE. -/
def execRegionTableWrite (region : Nat) (value : Word) (st : State) : Result :=
  let old := regionWord st region
  if regionWriteBad st old value then .next { st with poolRefused := true }
  else
    let off := bits value 0 2 == 0
    let s1 := if off then clearRegion st region else st
    let kept := setBits (setBits (setBits old 20 1 (bits value 20 1)) 16 3 (bits value 16 3)) 8 8 (bits value 8 8)
    let new := withState kept (bits value 0 2)
    .next { setRegion s1 region (if off then setBits new 32 8 0 else new) with poolRefused := false }

/-! ## Lost lines (R407) -/

/-- A record of the lost-line log: the line's pool address and the address under which it was held, its holder, the mask of its dirty
sectors, its kind and its bytes. -/
def lostRecord (ppa va : Word) (holder mask kind epoch tick : Nat) (data : List Byte) : List Byte :=
  leBytes 8 ppa.toNat ++ leBytes 8 (holder + mask * 2 ^ 10 + kind * 2 ^ 14 + epoch * 2 ^ 16) ++ leBytes 8 tick ++ leBytes 8 va.toNat
    ++ List.replicate 32 0
    ++ (List.range 4).flatMap fun i => if mask.testBit i then (data.drop (32 * i)).take 32 else List.replicate 32 0

/-- Record a lost line of a region: a full ring counts the record in LLDROP; LOSTCNT counts it in either case. -/
def logLost (r : Nat) (ppa va : Word) (holder mask kind : Nat) (data : List Byte) (s : State) : State :=
  let w := regionWord s r
  let b := lostRecord ppa va holder mask kind (regionEpoch w) s.tick data
  let s1 := if RecordRing.lost.full s then { s with llDrop := word (min (s.llDrop.toNat + 1) (2 ^ 64 - 1)) } else putRecord .lost b s
  setRegion s1 r (setBits w 32 8 (min 255 (bits w 32 8 + 1)))

/-- A line of a LOST region leaves its window: dirty sectors are recorded, a clean line is dropped (R408, step 4). -/
def loseLine (r : Nat) (s : State) (x : Nat × Nat × (Nat × Line)) : State :=
  let (g, ppa, l, ln) := x
  let s1 := dropLine s g l
  if ln.dirty = 0 then s1
  else logLost r (word ppa) (lineVa (getCore s g) l) g ln.dirty.toNat 0 (memBytes s.mem (Place.scratch g (l * 128)).key 128) s1

/-! ## Requests outstanding on a lost port (R408) -/

/-- What a store that waits would write. -/
def heldStores : Access → List (Word × List Byte)
  | .store va b | .storeThenRaise va b _ | .memberStore va b => [(va, b)]
  | .storeRows rows => rows
  | _ => []

/-- The owed accesses of the module to a region, in issue order, with their cores. -/
def owedRegion (s : State) (r : Nat) : List (Nat × Nat × Access) :=
  let all := (allFrames s).flatMap fun e => e.2.2.owed.filterMap fun o => match o.kind with
    | .access a _ t =>
      if t = s.moduleId.toNat ∧ (a.spans.any fun x => (poolPlace s (Agent.ofCore e.1) x.1).map (· / 2 ^ 30) == some r) = true
      then some (o.id, e.1, a) else none
    | .reduction .. => none
  all.foldl (fun l x => (l.filter fun y => decide (y.1 < x.1)) ++ x :: l.filter fun y => decide (x.1 < y.1)) []

/-- The owed accesses to a region are served, or end, in issue order (R408, steps 2 and 3). -/
def answerRegion (l : List (Nat × Nat × Access)) (s : State) : State :=
  l.foldl (fun s x => match execInterlockedCompletion x.1 (.data []) s with
    | .next s1 => s1
    | _ => s) s

/-- A record of kind 1 for a line of a write in flight to a lost region (R407): what the write leaves of its sectors is free. -/
def loseWrite (r : Nat) (ag : Agent) (va : Word) (b : List Byte) (line : Nat) (s : State) : State :=
  let base := word (va.toNat / 128 * 128 + 128 * line)
  let inside := fun (i : Nat) => decide (va.toNat ≤ base.toNat + i) && decide (base.toNat + i < va.toNat + b.length)
  let mask := (List.range 4).foldl (fun m k => if (List.range 32).any fun i => inside (32 * k + i) then m + 2 ^ k else m) 0
  let f := freeBytes s 128
  let data := (List.range 128).map fun i => if inside i then b.getD (base.toNat + i - va.toNat) 0 else f.1.getD i 0
  match poolPlace s ag base with
  | some p => if p / 2 ^ 30 = r then logLost r (word p) base 0x3FF mask 1 data f.2 else s
  | none => s

/-- The writes in flight to a lost region are recorded. -/
def loseWrites (r : Nat) (x : Nat × Nat × Access) (s : State) : State :=
  (heldStores x.2.2).foldl (fun s w =>
    (List.range ((w.1.toNat % 128 + w.2.length + 127) / 128)).foldl (fun s i => loseWrite r (Agent.ofCore x.2.1) w.1 w.2 i s) s) s

/-- A region becomes LOST: what is outstanding on it ends, its lines leave the windows, and moves to or from it abort (R408, steps 3 to
5). -/
def loseRegion (s : State) (r : Nat) : State :=
  let s1 := setRegion s r (withState (regionWord s r) 3)
  let out := owedRegion s1 r
  let s2 := answerRegion out (out.foldl (fun s x => loseWrites r x s) s1)
  abortUnserved ((regionLines s2 r).foldl (loseLine r) s2)

/-- A region that a lost port reaches: it is degraded where another port survives, else lost (R408). -/
def degradeRegion (port : Nat) (s : State) (r : Nat) : State :=
  let w := regionWord s r
  let left := regionPorts w &&& s.portsUp
  if !(regionPorts w).getLsbD port || !regionServes s r then s
  else if left = 0 then loseRegion s r
  else
    let s1 := setRegion s r (withState (setBits (setBits w 8 8 left.toNat) 16 3 (lowestPort left)) 2)
    answerRegion (owedRegion s1 r) s1

/-- POOL_PORT_LOSS. What was outstanding on the port is reissued, or answered, before any new request of its region (R408). -/
def execPoolPortLoss (port : Nat) (st : State) : Result :=
  if !st.portsUp.getLsbD port then notDue
  else
    let s1 := { st with portsUp := st.portsUp &&& ~~~ BitVec.ofNat 8 (2 ^ port) }
    .next ((s1.regions.map Prod.fst).foldl (degradeRegion port) s1)

/-- POOL_PORT_LINK_UP. -/
def execPoolPortLinkUp (port : Nat) (st : State) : Result :=
  if st.portsUp.getLsbD port then notDue else .next { st with portsUp := st.portsUp ||| BitVec.ofNat 8 (2 ^ port) }

/-- EXTENT_FORCED_RELEASE. -/
def execExtentForcedRelease (region : Nat) (st : State) : Result :=
  if regionServes st region then .next (loseRegion st region) else notDue

/-- BACK_INVALIDATE_SNOOP: the line is recalled from every local window, and the snoop answered (R402). -/
def execBackInvalidateSnoop (ppa : Word) (invalidate : Bool) (st : State) : Result :=
  let s1 := recallLine st (lineKey (Place.pool ppa.toNat).key) invalidate
  .next { s1 with outbox := s1.outbox ++ [.snoopReply ppa] }

/-- Another requester of the pool writes bytes of it, once the device has recalled the lines that hold them (R402, R404). -/
def poolWrite (ppa : Nat) (b : List Byte) (s : State) : State :=
  if 2 ^ 48 < ppa + b.length then s
  else
    match homeWrite s (Place.pool ppa).key b with
    | .ok _ s1 => s1
    | .held s1 => keepAsks s s1
    | _ => s

end Sys2Proof.Machine
end

