-- ==== Sys2Proof/Machine/Host.lean ====
section
/-! DEFINITION. Posted operations as they end (R385, R386), the register blocks of BAR0 (R355), the host's accesses (R354),
attestation (R356), boot and the clock (R352, R353). -/

namespace Sys2Proof.Machine

/-! ## Posted operations -/

/-- A fired operation goes on by one step, and its firing ends with its counters (R385, R386). -/
def finishFire (d e : Nat) (f : FireStep) (st : State) : Result :=
  match f with
  | .ends ok s1 => .next (endFiring s1 d e ok)
  | .fails c va s1 => .next (endFiring (logPosted s1 d e c va) d e false)
  | .again s1 | .waits s1 => if s1 = st then notDue else .next s1

/-- A firing whose arrival counter is on another module: at the answer the completion counter rises (R385). A counter that was not
live is a failure (R386). -/
def finishArrival (d e : Nat) (st : State) : Result :=
  let p := getPosted st d e
  match p.answer with
  | none => notDue
  | some (.data _) => .next (completeFiring st d e)
  | some r => .next (completeFiring (logPosted st d e (replyCause r) p.actr) d e)

/-- POSTED_OP_DONE: an operation that has fired moves its data and ends. A COPY ends with its copy. -/
def execPostedOpDone (die entry : Nat) (st : State) : Result :=
  let p := getPosted st die entry
  if p.used ∧ 0 < p.firing ∧ postType p ≠ 7 ∧ (getDie st die).online then
    if p.arriving then finishArrival die entry st else finishFire die entry (runFired st die entry) st
  else notDue

/-- LAUNCH_OP_RETRY: a LAUNCH whose queue was full looks at it again (R381). -/
def execLaunchOpRetry (die entry : Nat) (st : State) : Result :=
  let p := getPosted st die entry
  if p.used ∧ 0 < p.firing ∧ postType p = 6 ∧ p.begun = false ∧ (getDie st die).online then
    finishFire die entry (runLaunch 24 st die entry) st
  else notDue

/-! ## BAR0 (R355) -/

/-- The blocks of BAR0. -/
inductive Bar0
  | module (off : Nat)
  | die (d off : Nat)
  | region (r : Nat)
  | pool (off : Nat)
  deriving DecidableEq, Repr

/-- The block of an offset; none where none is listed. -/
def bar0Block (o : Nat) : Option Bar0 :=
  if o < 0x100000 then some (.module o)
  else if o < 0x200000 then some (.die ((o - 0x100000) / 0x40000) ((o - 0x100000) % 0x40000))
  else if o < 0x400000 then some (.region ((o - 0x200000) / 8))
  else if o < 0x401000 then some (.pool (o - 0x400000))
  else none

/-- The plain registers of a die's block. -/
def plainDieReg (off : Nat) : Bool :=
  off == 0x20 || off == 0x28 || off == 0x38 || off == 0xA0 || off == 0xA8 || (decide (0x100 ≤ off) && decide (off < 0x200))
    || off == 0x200 || off == 0x300 || off == 0x308 || off == 0x318

/-- The writable bits of DTROOT (R303) and POOLROOT (R398). -/
def dtrootMask : Word := 0x0000FFFFFFFF0001
def poolrootMask : Word := 0x0000FFFFFFFF000D

/-- The writable bits of word `i` of a multicast group's entry (R373): CTL and BASE have reserved ones, word 3 is reserved. -/
def groupMask (i : Nat) : Word := if i = 0 then 0x3FF01 else if i = 1 then 0xFFFFFFFFFFFFF else if i = 3 then 0 else BitVec.allOnes 64

/-- The mailbox of a die's block: the cluster and the offset in it. -/
def mailboxOf (d off : Nat) : Option (Nat × Nat) :=
  if 0x400 ≤ off ∧ off < 0x500 then some (4 * d + (off - 0x400) / 0x40, (off - 0x400) % 0x40) else none

/-- A number as a flag. -/
def flag (b : Bool) (n : Nat) : Nat := if b then n else 0

/-- What a die's block reads as. -/
def dieRead (s : State) (d off : Nat) : Word :=
  let k := getDie s d
  match mailboxOf d off with
  | some (cl, o) =>
    let c := getCluster s cl
    if o = 8 then c.arg0 else if o = 0x10 then c.arg1 else if o = 0x18 then c.mbStatus else 0
  | none =>
    if off = 0 then k.dtroot
    else if off = 0x10 then word (flag k.online 1 + k.resetStep * 2 + flag k.failed 16)
    else if off = 0x30 then k.fqHead
    else if off = 0x50 then k.fqDrop
    else if off = 0x88 then word k.freeFrames.length
    else if off = 0x98 then word k.poolPages.length
    else if off = 0x210 then k.migStat
    else if off = 0x310 then k.elHead
    else if plainDieReg off then smGet 0 k.regs off else 0

/-- An aligned read of 8 bytes. None for the attestation mailbox, whose layout the specification does not give. -/
def bar0Read (s : State) (o : Nat) : Option Word :=
  match bar0Block o with
  | some (.module off) =>
    if 0x4000 ≤ off ∧ off < 0x5000 then none
    else if off = 0 then some (word (s.moduleId.toNat + flag s.fabricOk 256))
    else if off = 8 then some s.bar2Base
    else if off = 0x10 then some (word s.tick)
    else if off = 0x18 then some (word s.clockMHz)
    else if off = 0x100 then some s.poolroot
    else if 0x1000 ≤ off ∧ off < 0x2000 then some (smGet 0 s.groups ((off - 0x1000) / 8))
    else some 0
  | some (.die d off) => some (dieRead s d off)
  | some (.region r) => some (regionWord s r)
  | some (.pool off) =>
    if off = 8 then some (word (flag s.poolRefused 1))
    else if off = 0x20 then some s.llHead
    else if off = 0x30 then some s.llDrop
    else if off = 0x10 ∨ off = 0x18 ∨ off = 0x28 then some (smGet 0 s.bar0 (0x400000 + off))
    else some 0
  | none => some 0

/-- The host reads a register of BAR0: 8 bytes at an aligned offset. What the attestation mailbox returns is free. -/
def hostRead (o : Nat) (s : State) : State :=
  if o % 8 ≠ 0 then { s with hostReply := List.replicate 8 0xFF }
  else
    match bar0Read s o with
    | some w => { s with hostReply := leBytes 8 w.toNat }
    | none =>
      let r := freeBytes s 8
      { r.2 with hostReply := r.1 }

/-- A write of a cluster mailbox: ARG0, ARG1, or a command. An unassigned command is ignored. -/
def mailboxWrite (cl off : Nat) (v : Word) (s : State) : Result :=
  let c := getCluster s cl
  if off = 8 then .next (updCluster s cl fun k => { k with arg0 := v })
  else if off = 0x10 then .next (updCluster s cl fun k => { k with arg1 := v })
  else if off ≠ 0 then .next s
  else
    match v.toNat with
    | 1 => execRegisterLaunchQueue cl c.arg0 s
    | 2 => execRegisterCopyQueue cl c.arg0 s
    | 3 => execUnregisterQueue cl c.arg0 s
    | 4 => execSetContextPool cl c.arg0 c.arg1 s
    | _ => .next s

/-- A write of a die's block. -/
def dieWrite (d off : Nat) (v : Word) (s : State) : Result :=
  match mailboxOf d off with
  | some (cl, o) => mailboxWrite cl o v s
  | none =>
    if off = 0 then .next (updDie s d fun k => { k with dtroot := v &&& dtrootMask })
    else if off = 8 then
      if bits v 0 1 = 0 ∨ (getDie s d).resetStep ≠ 0 then .next s
      else if bits v 1 1 = 1 then execDieResetClear d s
      else if (getDie s d).online then execDieWarmReset d s else .next s
    else if off = 0x40 then execFaultResume d v s
    else if off = 0x48 then execFaultRefuse d v s
    else if off = 0x50 then .next (if v = 0 then updDie s d fun k => { k with fqDrop := 0 } else s)
    else if off = 0x80 then execFreeFramePush d v s
    else if off = 0x90 then execPoolPagePush d v s
    else if off = 0x208 then
      if (getDie s d).moving.isSome then .next s
      else if v = 1 then execMigratePage d s else if v = 2 then execEvictPage d s else if v = 3 then execFetchInPage d s else .next s
    else if plainDieReg off then .next (checkHigh d (updDie s d fun k => { k with regs := smSet 0 k.regs off v }))
    else .next s

/-- REGISTER_WRITE: an aligned write of 8 bytes. A register with a behaviour of its own takes it; others store the value; an
offset not listed, or a read-only register, ignores it. -/
def execRegisterWrite (offset : Nat) (value : Word) (st : State) : Result :=
  match bar0Block offset with
  | some (.module off) =>
    if off = 8 then .next { st with bar2Base := word (value.toNat / st.bar2Size * st.bar2Size) }
    else if off = 0x100 then .next { st with poolroot := value &&& poolrootMask }
    else if 0x1000 ≤ off ∧ off < 0x2000 then
      .next { st with groups := smSet 0 st.groups ((off - 0x1000) / 8) (value &&& groupMask ((off - 0x1000) / 8 % 8)) }
    else .next st
  | some (.die d off) => dieWrite d off value st
  | some (.region r) => execRegionTableWrite r value st
  | some (.pool off) =>
    if off = 0x10 ∨ off = 0x18 ∨ off = 0x28 then .next { st with bar0 := smSet 0 st.bar0 (0x400000 + off) value }
    else if off = 0x30 then .next (if value = 0 then { st with llDrop := 0 } else st)
    else .next st
  | none => .next st

/-- BAR0_MALFORMED_ACCESS: all ones are read, nothing is written. -/
def execBar0MalformedAccess (offset size : Nat) (isWrite : Bool) (st : State) : Result :=
  if offset % 8 = 0 ∧ size = 8 then notDue
  else .next (if isWrite then st else { st with hostReply := List.replicate size 0xFF })

/-! ## BAR2 (R354) -/

/-- The host reads or writes device memory only. -/
def hostSpace (s : State) (va : Word) : Bool :=
  match spaceOf s none none va with
  | .device _ _ => true
  | _ => false

/-- The end of a host access; what faults has no effect and returns no data. -/
def hostEnd (st : State) (x : Got (List Byte)) : Result :=
  match x with
  | .ok b s1 => .next { s1 with hostReply := b }
  | .fault _ s1 => .next { s1 with hostReply := [] }
  | .remote _ _ => .next { st with hostReply := [] }
  | .held s1 => heldEnd st s1

/-- An access of the host lies in the aperture of BAR2, on device memory. -/
def inAperture (s : State) (va : Word) (n : Nat) : Bool :=
  decide ((va - s.bar2Base).toNat + n ≤ s.bar2Size) && hostSpace s va

/-- HOST_ACCESS: what lies beyond the aperture is none of the module's. -/
def execHostAccess (isWrite : Bool) (offset size : Nat) (data : List Byte) (st : State) : Result :=
  let va := st.bar2Base + word offset
  if !decide (offset < st.bar2Size) || !inAperture st va (if isWrite then data.length else size) then .next { st with hostReply := [] }
  else if isWrite then hostEnd st ((ioWrite va data st).bind fun _ s1 => .ok [] s1)
  else hostEnd st (ioRead va size st)

/-- HOST_ATOMIC: naturally aligned, in the aperture. -/
def execHostAtomic (kind : HostAtomicKind) (narrow : Bool) (va operand compare : Word) (st : State) : Result :=
  let n := amoBytes narrow
  if !inAperture st va n || va.toNat % n != 0 then .next { st with hostReply := [] }
  else
    let f : List Byte → Option (List Byte) := match kind with
      | .fetchAdd => fun old => some (amoStore 0 narrow operand old)
      | .swap => fun old => some (amoStore 8 narrow operand old)
      | .cas => fun old => if old = leBytes n compare.toNat then some (leBytes n operand.toNat) else none
    hostEnd st (agentRmw Agent.io va n f st)

/-! ## Identity, boot, clock -/

/-- The leaves of the identity key (R356). -/
def lmsLeaves : Nat := 2 ^ 15

/-- ATTESTATION_REPORT: refused once every leaf is used. -/
def execAttestationReport (nonce : BitVec 256) (st : State) : Result :=
  if lmsLeaves ≤ st.lmsLeaf then .next { st with report := none }
  else
    .next { st with
      report := some ⟨Config.measurements, nonce, (List.range 4).map fun d => capsOf st (192 * d), st.lmsLeaf,
        Config.signature st.lmsLeaf st.freeCtr⟩
      lmsLeaf := st.lmsLeaf + 1
      freeCtr := st.freeCtr + 1 }

/-- The cores after a boot: which slots and lanes of each work is fixed in the part (R99, R350). -/
def bootCores (s : State) : SMap Core :=
  (touchedCores s).foldl (fun m g => smSet Core.reset m g { Core.reset with slotmap := (getCore s g).slotmap }) []

/-- PACKAGE_BOOT: the machine of `State.reset` with its module id, the channels of each die, the clusters whose control cores run in
split mode (R269), the size of BAR2, its absent cores and slots, and the key's used leaves. An image that fails its check is refused,
and no core runs it. A part has at least 12 channels on every die (R342). -/
def execPackageBoot (firmwareGood : Bool) (module : BitVec 8) (x : BootSettings) (st : State) : Result :=
  if x.channels.length ≠ 4 ∨ x.channels.all channelsOk = false ∨ x.bar2 < 30 ∨ 38 < x.bar2 then notDue
  else
    .next { State.reset with
      moduleId := module
      agenda := st.agenda
      core := { Core.reset with slotmap := (getCore st 0).slotmap }
      cores := smErase (bootCores st) 0
      clusters := (List.range 16).foldl (fun m c => smSet Cluster.reset m c { Cluster.reset with lockstep := !x.split.getLsbD c }) []
      dies := (List.range 4).foldl (fun m d => smSet Die.reset m d { Die.reset with channels := x.channels.getD d 0 }) []
      bar2Size := 2 ^ x.bar2
      absent := st.absent
      lmsLeaf := st.lmsLeaf
      debugMode := st.debugMode
      freeCtr := st.freeCtr
      booted := firmwareGood }

/-- A step of the clock in MHz, and the full clock (R353). -/
def clockUnit : Nat := 25
def clockFull : Nat := 1050

/-- CLOCK_STEP. -/
def execClockStep (raise : Bool) (st : State) : Result :=
  if raise then (if st.clockMHz + clockUnit ≤ clockFull then .next { st with clockMHz := st.clockMHz + clockUnit } else notDue)
  else if 2 * clockUnit ≤ st.clockMHz then .next { st with clockMHz := st.clockMHz - clockUnit } else notDue

end Sys2Proof.Machine
end

