-- ==== Sys2Proof/Machine/Dispatch.lean ====
section
/-! DEFINITION. The meaning of every instruction and event: one arm each. -/

namespace Sys2Proof.Machine

def exec (i : Instr) (s : State) : Host.Outcome State Fault Refusal :=
  match i with
  | .fullBundle => Sys2Proof.Machine.execFullBundle s
  | .reference => Sys2Proof.Machine.execReference s
  | .skip => Sys2Proof.Machine.execSkip s
  | .exposedResultLands => Sys2Proof.Machine.execExposedResultLands s
  | .interlockedCompletion id reply => Sys2Proof.Machine.execInterlockedCompletion id reply s
  | .stashFill core reply => Sys2Proof.Machine.execStashFill core reply s
  | .trapEntry => Sys2Proof.Machine.execTrapEntry s
  | .rimWaitPark => Sys2Proof.Machine.execRimWaitPark s
  | .waitTimeout core pos => Sys2Proof.Machine.execWaitTimeout core pos s
  | .waitWakeup core pos => Sys2Proof.Machine.execWaitWakeup core pos s
  | .quantumExpiry => Sys2Proof.Machine.execQuantumExpiry s
  | .preemption core pos => Sys2Proof.Machine.execPreemption core pos s
  | .contextRestore cluster index => Sys2Proof.Machine.execContextRestore cluster index s
  | .phaseCancel => Sys2Proof.Machine.execPhaseCancel s
  | .packetTake cluster => Sys2Proof.Machine.execPacketTake cluster s
  | .instanceCreation cluster entry => Sys2Proof.Machine.execInstanceCreation cluster entry s
  | .taskPlacement cluster => Sys2Proof.Machine.execTaskPlacement cluster s
  | .classAging cluster => Sys2Proof.Machine.execClassAging cluster s
  | .frameDisplacement cluster => Sys2Proof.Machine.execFrameDisplacement cluster s
  | .launchComplete cluster entry => Sys2Proof.Machine.execLaunchComplete cluster entry s
  | .hoopPhaseComplete cluster hoop => Sys2Proof.Machine.execHoopPhaseComplete cluster hoop s
  | .firmwareCheckpoint cluster => Sys2Proof.Machine.execFirmwareCheckpoint cluster s
  | .lockstepMismatch cluster => Sys2Proof.Machine.execLockstepMismatch cluster s
  | .copyStart stream => Sys2Proof.Machine.execCopyStart stream s
  | .copyComplete stream => Sys2Proof.Machine.execCopyComplete stream s
  | .copyQueueTake cluster => Sys2Proof.Machine.execCopyQueueTake cluster s
  | .scPerform => Sys2Proof.Machine.execScPerform s
  | .frameReclaim die => Sys2Proof.Machine.execFrameReclaim die s
  | .migratePage die => Sys2Proof.Machine.execMigratePage die s
  | .evictPage die => Sys2Proof.Machine.execEvictPage die s
  | .fetchInPage die => Sys2Proof.Machine.execFetchInPage die s
  | .evictionPolicy die => Sys2Proof.Machine.execEvictionPolicy die s
  | .dieWarmReset die => Sys2Proof.Machine.execDieWarmReset die s
  | .dieResetClear die => Sys2Proof.Machine.execDieResetClear die s
  | .dieReadmission die => Sys2Proof.Machine.execDieReadmission die s
  | .dieFailure die => Sys2Proof.Machine.execDieFailure die s
  | .dieLinkFailure die link => Sys2Proof.Machine.execDieLinkFailure die link s
  | .freeFramePush die frame => Sys2Proof.Machine.execFreeFramePush die frame s
  | .poolPagePush die page => Sys2Proof.Machine.execPoolPagePush die page s
  | .faultResume die token => Sys2Proof.Machine.execFaultResume die token s
  | .faultRefuse die token => Sys2Proof.Machine.execFaultRefuse die token s
  | .regionTableWrite region value => Sys2Proof.Machine.execRegionTableWrite region value s
  | .registerWrite offset value => Sys2Proof.Machine.execRegisterWrite offset value s
  | .bar0MalformedAccess offset size isWrite => Sys2Proof.Machine.execBar0MalformedAccess offset size isWrite s
  | .registerLaunchQueue cluster descriptor => Sys2Proof.Machine.execRegisterLaunchQueue cluster descriptor s
  | .registerCopyQueue cluster descriptor => Sys2Proof.Machine.execRegisterCopyQueue cluster descriptor s
  | .unregisterQueue cluster descriptor => Sys2Proof.Machine.execUnregisterQueue cluster descriptor s
  | .setContextPool cluster base count => Sys2Proof.Machine.execSetContextPool cluster base count s
  | .attestationReport nonce => Sys2Proof.Machine.execAttestationReport nonce s
  | .packageBoot firmwareGood m settings => Sys2Proof.Machine.execPackageBoot firmwareGood m settings s
  | .clockStep raise => Sys2Proof.Machine.execClockStep raise s
  | .hostAccess isWrite offset size data => Sys2Proof.Machine.execHostAccess isWrite offset size data s
  | .hostAtomic kind narrow va operand compare => Sys2Proof.Machine.execHostAtomic kind narrow va operand compare s
  | .remoteRequest source core frame stream nack va kind => Sys2Proof.Machine.execRemoteRequest source core frame stream nack va kind s
  | .holdReply core frame request => Sys2Proof.Machine.execHoldReply core frame request s
  | .streamFaultTimeout die token => Sys2Proof.Machine.execStreamFaultTimeout die token s
  | .fabricLinkFailure a b => Sys2Proof.Machine.execFabricLinkFailure a b s
  | .streamRepin core frame stream => Sys2Proof.Machine.execStreamRepin core frame stream s
  | .moduleDeath m => Sys2Proof.Machine.execModuleDeath m s
  | .remoteBackInvalidate va invalidate => Sys2Proof.Machine.execRemoteBackInvalidate va invalidate s
  | .mcstSeqRoot write offset narrow value => Sys2Proof.Machine.execMcstSeqRoot write offset narrow value s
  | .postedOpDone die entry => Sys2Proof.Machine.execPostedOpDone die entry s
  | .launchOpRetry die entry => Sys2Proof.Machine.execLaunchOpRetry die entry s
  | .rimwArrival target launch values => Sys2Proof.Machine.execRimwArrival target launch values s
  | .backInvalidateSnoop ppa invalidate => Sys2Proof.Machine.execBackInvalidateSnoop ppa invalidate s
  | .poolPortLoss port => Sys2Proof.Machine.execPoolPortLoss port s
  | .extentForcedRelease region => Sys2Proof.Machine.execExtentForcedRelease region s
  | .add g d a b => Sys2Proof.Machine.execAdd g d a b s
  | .sub g d a b => Sys2Proof.Machine.execSub g d a b s
  | .and g d a b => Sys2Proof.Machine.execAnd g d a b s
  | .or g d a b => Sys2Proof.Machine.execOr g d a b s
  | .xor g d a b => Sys2Proof.Machine.execXor g d a b s
  | .andn g d a b => Sys2Proof.Machine.execAndn g d a b s
  | .shl g d a b => Sys2Proof.Machine.execShl g d a b s
  | .shrN g d a b => Sys2Proof.Machine.execShrN g d a b s
  | .shrI g d a b => Sys2Proof.Machine.execShrI g d a b s
  | .rot g d a b => Sys2Proof.Machine.execRot g d a b s
  | .minI g d a b => Sys2Proof.Machine.execMinI g d a b s
  | .minN g d a b => Sys2Proof.Machine.execMinN g d a b s
  | .maxI g d a b => Sys2Proof.Machine.execMaxI g d a b s
  | .maxN g d a b => Sys2Proof.Machine.execMaxN g d a b s
  | .addi g d a imm => Sys2Proof.Machine.execAddi g d a imm s
  | .andi g d a imm => Sys2Proof.Machine.execAndi g d a imm s
  | .ori g d a imm => Sys2Proof.Machine.execOri g d a imm s
  | .xori g d a imm => Sys2Proof.Machine.execXori g d a imm s
  | .shli g d a imm => Sys2Proof.Machine.execShli g d a imm s
  | .shriN g d a imm => Sys2Proof.Machine.execShriN g d a imm s
  | .shriI g d a imm => Sys2Proof.Machine.execShriI g d a imm s
  | .li g d imm => Sys2Proof.Machine.execLi g d imm s
  | .lih g d a imm => Sys2Proof.Machine.execLih g d a imm s
  | .mul g d a b => Sys2Proof.Machine.execMul g d a b s
  | .mulhI g d a b => Sys2Proof.Machine.execMulhI g d a b s
  | .mulhN g d a b => Sys2Proof.Machine.execMulhN g d a b s
  | .mulhIn g d a b => Sys2Proof.Machine.execMulhIn g d a b s
  | .divI g d a b => Sys2Proof.Machine.execDivI g d a b s
  | .divN g d a b => Sys2Proof.Machine.execDivN g d a b s
  | .remI g d a b => Sys2Proof.Machine.execRemI g d a b s
  | .remN g d a b => Sys2Proof.Machine.execRemN g d a b s
  | .clz g d a => Sys2Proof.Machine.execClz g d a s
  | .ctz g d a => Sys2Proof.Machine.execCtz g d a s
  | .popc g d a => Sys2Proof.Machine.execPopc g d a s
  | .brev g d a => Sys2Proof.Machine.execBrev g d a s
  | .bswap g d a => Sys2Proof.Machine.execBswap g d a s
  | .bfxI g d a b => Sys2Proof.Machine.execBfxI g d a b s
  | .bfxN g d a b => Sys2Proof.Machine.execBfxN g d a b s
  | .bfi g d a b => Sys2Proof.Machine.execBfi g d a b s
  | .fshl g d a b => Sys2Proof.Machine.execFshl g d a b s
  | .fshr g d a b => Sys2Proof.Machine.execFshr g d a b s
  | .cmp g p a b c => Sys2Proof.Machine.execCmp g p a b c s
  | .cmpi g p c a imm => Sys2Proof.Machine.execCmpi g p c a imm s
  | .pand g d a b => Sys2Proof.Machine.execPand g d a b s
  | .por g d a b => Sys2Proof.Machine.execPor g d a b s
  | .pxor g d a b => Sys2Proof.Machine.execPxor g d a b s
  | .pandn g d a b => Sys2Proof.Machine.execPandn g d a b s
  | .pmov g d a => Sys2Proof.Machine.execPmov g d a s
  | .pset g d => Sys2Proof.Machine.execPset g d s
  | .pclr g d => Sys2Proof.Machine.execPclr g d s
  | .sel g d a b p => Sys2Proof.Machine.execSel g d a b p s
  | .faddF64 g d a b => Sys2Proof.Machine.execFaddF64 g d a b s
  | .fsubF64 g d a b => Sys2Proof.Machine.execFsubF64 g d a b s
  | .fmulF64 g d a b => Sys2Proof.Machine.execFmulF64 g d a b s
  | .fdivF64 g d a b => Sys2Proof.Machine.execFdivF64 g d a b s
  | .fsqrtF64 g d a => Sys2Proof.Machine.execFsqrtF64 g d a s
  | .fminF64 g d a b => Sys2Proof.Machine.execFminF64 g d a b s
  | .fmaxF64 g d a b => Sys2Proof.Machine.execFmaxF64 g d a b s
  | .faddF32 g d a b => Sys2Proof.Machine.execFaddF32 g d a b s
  | .fsubF32 g d a b => Sys2Proof.Machine.execFsubF32 g d a b s
  | .fmulF32 g d a b => Sys2Proof.Machine.execFmulF32 g d a b s
  | .fdivF32 g d a b => Sys2Proof.Machine.execFdivF32 g d a b s
  | .fsqrtF32 g d a => Sys2Proof.Machine.execFsqrtF32 g d a s
  | .fminF32 g d a b => Sys2Proof.Machine.execFminF32 g d a b s
  | .fmaxF32 g d a b => Sys2Proof.Machine.execFmaxF32 g d a b s
  | .fcvtF64I64 g d a => Sys2Proof.Machine.execFcvtF64I64 g d a s
  | .fcvtF64N64 g d a => Sys2Proof.Machine.execFcvtF64N64 g d a s
  | .fcvtI64F64 g d a => Sys2Proof.Machine.execFcvtI64F64 g d a s
  | .fcvtN64F64 g d a => Sys2Proof.Machine.execFcvtN64F64 g d a s
  | .fcvtF32F64 g d a => Sys2Proof.Machine.execFcvtF32F64 g d a s
  | .fcvtF64F32 g d a => Sys2Proof.Machine.execFcvtF64F32 g d a s
  | .fcvtF32I64 g d a => Sys2Proof.Machine.execFcvtF32I64 g d a s
  | .fcvtI64F32 g d a => Sys2Proof.Machine.execFcvtI64F32 g d a s
  | .fcmpF64 g p a b c => Sys2Proof.Machine.execFcmpF64 g p a b c s
  | .fcmpF32 g p a b c => Sys2Proof.Machine.execFcmpF32 g p a b c s
  | .mfs g d reg => Sys2Proof.Machine.execMfs g d reg s
  | .mts g a reg => Sys2Proof.Machine.execMts g a reg s
  | .b g disp => Sys2Proof.Machine.execB g disp s
  | .call g disp => Sys2Proof.Machine.execCall g disp s
  | .jr g a => Sys2Proof.Machine.execJr g a s
  | .callr g a => Sys2Proof.Machine.execCallr g a s
  | .ret g => Sys2Proof.Machine.execRet g s
  | .loop g a o z => Sys2Proof.Machine.execLoop g a o z s
  | .loopSt g a o z => Sys2Proof.Machine.execLoopSt g a o z s
  | .spawn g a b c => Sys2Proof.Machine.execSpawn g a b c s
  | .spawnSib g a b c => Sys2Proof.Machine.execSpawnSib g a b c s
  | .exit g => Sys2Proof.Machine.execExit g s
  | .yield g => Sys2Proof.Machine.execYield g s
  | .wait g a b c n => Sys2Proof.Machine.execWait g a b c n s
  | .halloc g d => Sys2Proof.Machine.execHalloc g d s
  | .hfree g a => Sys2Proof.Machine.execHfree g a s
  | .hjoin g a => Sys2Proof.Machine.execHjoin g a s
  | .hleave g a => Sys2Proof.Machine.execHleave g a s
  | .hbar g a => Sys2Proof.Machine.execHbar g a s
  | .hsize g d a => Sys2Proof.Machine.execHsize g d a s
  | .phaseBegin g => Sys2Proof.Machine.execPhaseBegin g s
  | .phaseCommit g => Sys2Proof.Machine.execPhaseCommit g s
  | .phaseAbort g => Sys2Proof.Machine.execPhaseAbort g s
  | .sys g c => Sys2Proof.Machine.execSys g c s
  | .trap g c => Sys2Proof.Machine.execTrap g c s
  | .brk g c => Sys2Proof.Machine.execBrk g c s
  | .eret g => Sys2Proof.Machine.execEret g s
  | .tcwait g a b c => Sys2Proof.Machine.execTcwait g a b c s
  | .tlbiPage g a => Sys2Proof.Machine.execTlbiPage g a s
  | .tlbiRange g a b => Sys2Proof.Machine.execTlbiRange g a b s
  | .tlbiAll g => Sys2Proof.Machine.execTlbiAll g s
  | .pattr g a b c => Sys2Proof.Machine.execPattr g a b c s
  | .vadd g d a b => Sys2Proof.Machine.execVadd g d a b s
  | .vsub g d a b => Sys2Proof.Machine.execVsub g d a b s
  | .vmul g d a b => Sys2Proof.Machine.execVmul g d a b s
  | .vfma g d a b => Sys2Proof.Machine.execVfma g d a b s
  | .vmin g d a b => Sys2Proof.Machine.execVmin g d a b s
  | .vmax g d a b => Sys2Proof.Machine.execVmax g d a b s
  | .vabs g d a => Sys2Proof.Machine.execVabs g d a s
  | .vneg g d a => Sys2Proof.Machine.execVneg g d a s
  | .vmov g d a => Sys2Proof.Machine.execVmov g d a s
  | .vand g d a b => Sys2Proof.Machine.execVand g d a b s
  | .vor g d a b => Sys2Proof.Machine.execVor g d a b s
  | .vxor g d a b => Sys2Proof.Machine.execVxor g d a b s
  | .vshl g d a b => Sys2Proof.Machine.execVshl g d a b s
  | .vshr g d a b => Sys2Proof.Machine.execVshr g d a b s
  | .vcmpeq g d a b => Sys2Proof.Machine.execVcmpeq g d a b s
  | .vcmplt g d a b => Sys2Proof.Machine.execVcmplt g d a b s
  | .vcmple g d a b => Sys2Proof.Machine.execVcmple g d a b s
  | .vsel g d a b => Sys2Proof.Machine.execVsel g d a b s
  | .vcvt g d a f => Sys2Proof.Machine.execVcvt g d a f s
  | .vmaxe g a => Sys2Proof.Machine.execVmaxe g a s
  | .vcvqQ3 g d a => Sys2Proof.Machine.execVcvqQ3 g d a s
  | .vcvqQ5 g d a => Sys2Proof.Machine.execVcvqQ5 g d a s
  | .vcvqQ8 g d a => Sys2Proof.Machine.execVcvqQ8 g d a s
  | .vdq g d a => Sys2Proof.Machine.execVdq g d a s
  | .vexp2 g d a => Sys2Proof.Machine.execVexp2 g d a s
  | .vlog2 g d a => Sys2Proof.Machine.execVlog2 g d a s
  | .vrcp g d a => Sys2Proof.Machine.execVrcp g d a s
  | .vrsqrt g d a => Sys2Proof.Machine.execVrsqrt g d a s
  | .vsqrt g d a => Sys2Proof.Machine.execVsqrt g d a s
  | .vtanh g d a => Sys2Proof.Machine.execVtanh g d a s
  | .vsigm g d a => Sys2Proof.Machine.execVsigm g d a s
  | .vsilu g d a => Sys2Proof.Machine.execVsilu g d a s
  | .vgelu g d a => Sys2Proof.Machine.execVgelu g d a s
  | .verf g d a => Sys2Proof.Machine.execVerf g d a s
  | .vgactSilu g d a b => Sys2Proof.Machine.execVgactSilu g d a b s
  | .vgactGelu g d a b => Sys2Proof.Machine.execVgactGelu g d a b s
  | .vgactSigm g d a b => Sys2Proof.Machine.execVgactSigm g d a b s
  | .vgactRelu g d a b => Sys2Proof.Machine.execVgactRelu g d a b s
  | .vbas g d a k => Sys2Proof.Machine.execVbas g d a k s
  | .vbasSilu g d a k => Sys2Proof.Machine.execVbasSilu g d a k s
  | .vbasGelu g d a k => Sys2Proof.Machine.execVbasGelu g d a k s
  | .vbasSigm g d a k => Sys2Proof.Machine.execVbasSigm g d a k s
  | .vbasRelu g d a k => Sys2Proof.Machine.execVbasRelu g d a k s
  | .vrsum g t k => Sys2Proof.Machine.execVrsum g t k s
  | .vrmax g t k => Sys2Proof.Machine.execVrmax g t k s
  | .vrmin g t k => Sys2Proof.Machine.execVrmin g t k s
  | .vrsumsq g t k => Sys2Proof.Machine.execVrsumsq g t k s
  | .vcsum g t k => Sys2Proof.Machine.execVcsum g t k s
  | .vcmax g t k => Sys2Proof.Machine.execVcmax g t k s
  | .vxpose g d a => Sys2Proof.Machine.execVxpose g d a s
  | .vxrot g d a n => Sys2Proof.Machine.execVxrot g d a n s
  | .vxbrow g d a n => Sys2Proof.Machine.execVxbrow g d a n s
  | .vperm g d a b => Sys2Proof.Machine.execVperm g d a b s
  | .vbcast g z t => Sys2Proof.Machine.execVbcast g z t s
  | .vbrow g t k => Sys2Proof.Machine.execVbrow g t k s
  | .vbcol g t k => Sys2Proof.Machine.execVbcol g t k s
  | .kadd g d a b => Sys2Proof.Machine.execKadd g d a b s
  | .kmul g d a b => Sys2Proof.Machine.execKmul g d a b s
  | .kmax g d a b => Sys2Proof.Machine.execKmax g d a b s
  | .krcp g d a => Sys2Proof.Machine.execKrcp g d a s
  | .krsqrt g d a => Sys2Proof.Machine.execKrsqrt g d a s
  | .kneg g d a => Sys2Proof.Machine.execKneg g d a s
  | .kmov g d a => Sys2Proof.Machine.execKmov g d a s
  | .klse g d a b => Sys2Proof.Machine.execKlse g d a b s
  | .kbind g t k z => Sys2Proof.Machine.execKbind g t k z s
  | .kunbind g t z => Sys2Proof.Machine.execKunbind g t z s
  | .ksetRow g t k n => Sys2Proof.Machine.execKsetRow g t k n s
  | .ksetCol g t k n => Sys2Proof.Machine.execKsetCol g t k n s
  | .tres g d => Sys2Proof.Machine.execTres g d s
  | .tresPart g d z => Sys2Proof.Machine.execTresPart g d z s
  | .tstat g d t => Sys2Proof.Machine.execTstat g d t s
  | .kpend g k => Sys2Proof.Machine.execKpend g k s
  | .kwait g k => Sys2Proof.Machine.execKwait g k s
  | .vtag g d a f => Sys2Proof.Machine.execVtag g d a f s
  | .vzero g d => Sys2Proof.Machine.execVzero g d s
  | .mma g d a b => Sys2Proof.Machine.execMma g d a b s
  | .mmz g d a b => Sys2Proof.Machine.execMmz g d a b s
  | .mmaTap g d a b => Sys2Proof.Machine.execMmaTap g d a b s
  | .mmzTap g d a b => Sys2Proof.Machine.execMmzTap g d a b s
  | .mmaBt g d a b => Sys2Proof.Machine.execMmaBt g d a b s
  | .mmzBt g d a b => Sys2Proof.Machine.execMmzBt g d a b s
  | .mmaTapBt g d a b => Sys2Proof.Machine.execMmaTapBt g d a b s
  | .mmzTapBt g d a b => Sys2Proof.Machine.execMmzTapBt g d a b s
  | .mres g d => Sys2Proof.Machine.execMres g d s
  | .msacc g d z k => Sys2Proof.Machine.execMsacc g d z k s
  | .mrd g a t f => Sys2Proof.Machine.execMrd g a t f s
  | .mwr g a t f => Sys2Proof.Machine.execMwr g a t f s
  | .mzero g d => Sys2Proof.Machine.execMzero g d s
  | .mdrain g => Sys2Proof.Machine.execMdrain g s
  | .mfmt g a b => Sys2Proof.Machine.execMfmt g a b s
  | .oclaim g z => Sys2Proof.Machine.execOclaim g z s
  | .orel g o => Sys2Proof.Machine.execOrel g o s
  | .mofs g z o => Sys2Proof.Machine.execMofs g z o s
  | .ldI8 g d a imm => Sys2Proof.Machine.execLdI8 g d a imm s
  | .ldN8 g d a imm => Sys2Proof.Machine.execLdN8 g d a imm s
  | .ldI16 g d a imm => Sys2Proof.Machine.execLdI16 g d a imm s
  | .ldN16 g d a imm => Sys2Proof.Machine.execLdN16 g d a imm s
  | .ldI32 g d a imm => Sys2Proof.Machine.execLdI32 g d a imm s
  | .ldN32 g d a imm => Sys2Proof.Machine.execLdN32 g d a imm s
  | .ld64 g d a imm => Sys2Proof.Machine.execLd64 g d a imm s
  | .st8 g z a imm => Sys2Proof.Machine.execSt8 g z a imm s
  | .st16 g z a imm => Sys2Proof.Machine.execSt16 g z a imm s
  | .st32 g z a imm => Sys2Proof.Machine.execSt32 g z a imm s
  | .st64 g z a imm => Sys2Proof.Machine.execSt64 g z a imm s
  | .ldAcq32 g d a z => Sys2Proof.Machine.execLdAcq32 g d a z s
  | .ldAcq64 g d a z => Sys2Proof.Machine.execLdAcq64 g d a z s
  | .stRel32 g d a z => Sys2Proof.Machine.execStRel32 g d a z s
  | .stRel64 g d a z => Sys2Proof.Machine.execStRel64 g d a z s
  | .ldSc g d a w => Sys2Proof.Machine.execLdSc g d a w s
  | .stSc g d a w => Sys2Proof.Machine.execStSc g d a w s
  | .amoSc g d a b w => Sys2Proof.Machine.execAmoSc g d a b w s
  | .tld g d a b f => Sys2Proof.Machine.execTld g d a b f s
  | .tldRaw g d a b => Sys2Proof.Machine.execTldRaw g d a b s
  | .tst g d a b => Sys2Proof.Machine.execTst g d a b s
  | .tstRaw g d a b => Sys2Proof.Machine.execTstRaw g d a b s
  | .st128 g z a imm => Sys2Proof.Machine.execSt128 g z a imm s
  | .oload g d a b f => Sys2Proof.Machine.execOload g d a b f s
  | .kld g k a imm => Sys2Proof.Machine.execKld g k a imm s
  | .kst g k a imm => Sys2Proof.Machine.execKst g k a imm s
  | .amoAdd g d a b w z => Sys2Proof.Machine.execAmoAdd g d a b w z s
  | .amoAnd g d a b w z => Sys2Proof.Machine.execAmoAnd g d a b w z s
  | .amoOr g d a b w z => Sys2Proof.Machine.execAmoOr g d a b w z s
  | .amoXor g d a b w z => Sys2Proof.Machine.execAmoXor g d a b w z s
  | .amoMinI g d a b w z => Sys2Proof.Machine.execAmoMinI g d a b w z s
  | .amoMinN g d a b w z => Sys2Proof.Machine.execAmoMinN g d a b w z s
  | .amoMaxI g d a b w z => Sys2Proof.Machine.execAmoMaxI g d a b w z s
  | .amoMaxN g d a b w z => Sys2Proof.Machine.execAmoMaxN g d a b w z s
  | .amoSwap g d a b w z => Sys2Proof.Machine.execAmoSwap g d a b w z s
  | .amoFaddF32 g d a b z => Sys2Proof.Machine.execAmoFaddF32 g d a b z s
  | .cas g d a b w z => Sys2Proof.Machine.execCas g d a b w z s
  | .cas128 g d a b z => Sys2Proof.Machine.execCas128 g d a b z s
  | .cp g a n => Sys2Proof.Machine.execCp g a n s
  | .cpq g a b => Sys2Proof.Machine.execCpq g a b s
  | .drainCp g n => Sys2Proof.Machine.execDrainCp g n s
  | .drainFar g => Sys2Proof.Machine.execDrainFar g s
  | .drainAll g => Sys2Proof.Machine.execDrainAll g s
  | .fenceAcq g z => Sys2Proof.Machine.execFenceAcq g z s
  | .fenceRel g z => Sys2Proof.Machine.execFenceRel g z s
  | .fenceFull g z => Sys2Proof.Machine.execFenceFull g z s
  | .fenceAcqPool g => Sys2Proof.Machine.execFenceAcqPool g s
  | .fenceRelPool g => Sys2Proof.Machine.execFenceRelPool g s
  | .fenceFullPool g => Sys2Proof.Machine.execFenceFullPool g s
  | .smap g n a b => Sys2Proof.Machine.execSmap g n a b s
  | .sunmap g n => Sys2Proof.Machine.execSunmap g n s
  | .swb g a b => Sys2Proof.Machine.execSwb g a b s
  | .sinv g a b => Sys2Proof.Machine.execSinv g a b s
  | .pf g a imm => Sys2Proof.Machine.execPf g a imm s
  | .pcommit g a => Sys2Proof.Machine.execPcommit g a s
  | .pfree g a => Sys2Proof.Machine.execPfree g a s
  | .pin g a => Sys2Proof.Machine.execPin g a s
  | .unpin g a => Sys2Proof.Machine.execUnpin g a s
  | .stTc g d a b w => Sys2Proof.Machine.execStTc g d a b w s
  | .tcadd g a b => Sys2Proof.Machine.execTcadd g a b s
  | .tpost g d a => Sys2Proof.Machine.execTpost g d a s
  | .tcset g d a => Sys2Proof.Machine.execTcset g d a s
  | .tcread g d a => Sys2Proof.Machine.execTcread g d a s
  | .tcancel g a => Sys2Proof.Machine.execTcancel g a s
  | .mcst g d a b w => Sys2Proof.Machine.execMcst g d a b w s
  | .mcstSeq g d a b w => Sys2Proof.Machine.execMcstSeq g d a b w s
  | .fabricLinkRecovery a b => Sys2Proof.Machine.execFabricLinkRecovery a b s
  | .moduleAdmission m => Sys2Proof.Machine.execModuleAdmission m s
  | .poolPortLinkUp port => Sys2Proof.Machine.execPoolPortLinkUp port s
  | .debuggerResume core steps => Sys2Proof.Machine.execDebuggerResume core steps s
  | .stopAll => Sys2Proof.Machine.execStopAll s
  | .injectEcc core offset => Sys2Proof.Machine.execInjectEcc core offset s

end Sys2Proof.Machine
end

