-- ==== Sys2Proof/Machine/Fetch.lean ====
section
/-! DEFINITION. Fetching the block at the PC (R41, R42) and decoding it whole (R43 to R49, R54, R55). -/

namespace Sys2Proof.Machine

/-! ## Full bundles (R43, R44, R54, R55) -/

/-- The slot class of a slot (R43). -/
def slotClass (n : Nat) : SlotClass :=
  match n with
  | 1 => .scalar
  | 2 => .control
  | 3 | 4 => .vector
  | 5 => .matrix
  | _ => .copy

/-- Syllable `n` of a block. -/
def syllableWord (block n : Nat) : Nat := fld block (32 * n) 32

/-- An error of a bundle's decode: its place in the precedence of R55, and its slot. -/
structure BundleError where
  rank : Nat
  slot : Nat
  deriving DecidableEq, Repr

/-- The trap of a rank: ILLEGAL_ENCODING, ILLEGAL_INSTRUCTION, PRIVILEGE. -/
def BundleError.cause (e : BundleError) : BitVec 8 :=
  if e.rank = 1 then causeEncoding else if e.rank = 2 then causeInstruction else causePrivilege

/-- The error to report: the lowest rank, then the lowest slot. -/
def firstError (l : List BundleError) : Option BundleError :=
  l.foldl (fun best x => match best with
    | none => some x
    | some y => if x.rank < y.rank ∨ (x.rank = y.rank ∧ x.slot < y.slot) then some x else some y) none

/-- LIMM, and the presence of a slot by MASK. -/
def limmOf (block : Nat) : Bool := fld block 4 1 == 1
def slotPresent (block n : Nat) : Bool := fld block (4 + n) 1 == 1 && !(n == 2 && limmOf block)

/-- The header's structure is in order. -/
def headerOk (block : Nat) : Bool :=
  fld block 24 8 == 0 && fld block 12 4 == 0 &&
    (!limmOf block || (fld block 6 1 == 0 && slotPresent block 1 && decide (2 ≤ fld block (32 + 26) 6) && decide (fld block (32 + 26) 6 ≤ 0xA)))

/-- The structure errors of the slots: a present syllable that is zero, an absent one that is not. -/
def presenceErrors (block : Nat) : List BundleError :=
  ([1, 2, 3, 4, 5, 6, 7].filter fun n =>
    if n == 2 && limmOf block then false else slotPresent block n == (syllableWord block n == 0)).map fun n => ⟨1, n⟩

/-- The decoded syllables, present and not zero. -/
noncomputable def decodedSlots (block : Nat) : List (Nat × Except DecodeError Instr) :=
  ([1, 2, 3, 4, 5, 6, 7].filter fun n => slotPresent block n && syllableWord block n != 0).map fun n =>
    (n, decodeSyllable (slotClass n) (syllableWord block n)
      (if n = 1 ∧ limmOf block = true then some (syllableWord block 2) else none))

/-- The errors of the syllables' own decode. -/
def slotErrors (l : List (Nat × Except DecodeError Instr)) : List BundleError :=
  l.filterMap fun x => match x.2 with
    | .ok _ => none
    | .error .encoding => some ⟨1, x.1⟩
    | .error .instruction => some ⟨2, x.1⟩

/-- The syllables that decode. One with an unassigned code names no destination for R54, so that its conflict with another goes
unreported beside its ILLEGAL_INSTRUCTION (DESIGN CHOICE, log 68). -/
def goodSlots (l : List (Nat × Except DecodeError Instr)) : List Syllable :=
  l.filterMap fun x => match x.2 with
    | .ok i => some ⟨x.1, i⟩
    | .error _ => none

/-- A destination that counts under R54. -/
def Dest.counts : Dest → Bool
  | .sreg n => n != 0
  | .pred n => n != 0
  | _ => true

/-- The destination conflicts (R54), each at the higher slot. -/
def conflictErrors (l : List (Nat × SlotOp)) : List BundleError :=
  l.flatMap fun x => (l.filter fun y => x.1 < y.1 && y.2.dests.any fun d => d.counts && x.2.dests.contains d).map fun y => ⟨1, y.1⟩

/-- A bundle's SKIP, SP and syllables. -/
noncomputable def bundleOf (block : Nat) : Bundle := ⟨fld block 16 8, fld block 3 1 == 1, goodSlots (decodedSlots block)⟩

/-- The decode of a full bundle, without privilege and gate cores: what a table entry is validated against (R48). A destination conflict
(R54) makes an entry invalid as well, though R48 does not name it (DESIGN CHOICE, log 68). -/
noncomputable def decodeFull (block : Nat) : Except BundleError Bundle :=
  let l := decodedSlots block
  let errors := (if fld block 0 3 = 7 ∧ headerOk block = true then [] else [⟨1, 0⟩]) ++ presenceErrors block ++ slotErrors l
    ++ conflictErrors (bundleOps (bundleOf block))
  match firstError errors with
  | some e => .error e
  | none => .ok (bundleOf block)

/-- The privilege and gate-core traps of a decoded bundle (R63, R64). -/
def modeErrors (s : State) (b : Bundle) : List BundleError :=
  (bundleOps b).filterMap fun x => (decodeTrapOf s x.2).map fun c => ⟨if c = causeInstruction then 2 else 3, x.1⟩

/-- The latch of a bundle error in a slot. -/
def errorLatch (e : BundleError) : Latch := .trap e.cause (BitVec.ofNat 10 e.slot) 0 0

/-- A decoded bundle as it is latched: `ok` where it may issue. -/
def latchBundle (s : State) (b : Bundle) (ok : Latch) : Latch :=
  match firstError (modeErrors s b) with
  | some e => errorLatch e
  | none => ok

/-! ## The block at the PC (R41, R46, R47, R49) -/

/-- The latch for a full bundle. -/
noncomputable def latchFull (s : State) (block : Nat) : Latch :=
  if bits s.task.pc 0 5 ≠ 0 then errorLatch ⟨1, 0⟩
  else
    match decodeFull block with
    | .error e => errorLatch ((firstError (e :: modeErrors s (bundleOf block))).getD e)
    | .ok b => latchBundle s b (.full b)

/-- The latch for reference `n` of a block; an invalid entry traps with its index (R47), and one with a parity error traps
PARITY_UNREPAIRED, of the completion class with the PC of its bundle (R109, R113). -/
noncomputable def latchReference (s : State) (refs : List Reference) (n : Nat) : Latch :=
  match refs[n - 1]? with
  | none => errorLatch ⟨1, 0⟩
  | some r =>
    if s.core.btabBad.contains r.entry then .trap causeParity 0 0 s.task.pc
    else
    match decodeFull (smGet 0 s.core.btab r.entry).toNat with
    | .error _ => .trap causeEncoding (BitVec.ofNat 10 (512 + r.entry)) 0 0
    | .ok b => latchBundle s b (.reference r.entry r.rep (decide (n = refs.length)) b)

/-- The latch for a fetched block. -/
noncomputable def latchBlock (s : State) (block : Nat) : Latch :=
  let sub := bits s.task.pc 0 5
  if 16 ≤ sub then errorLatch ⟨1, 0⟩
  else if fld block 0 3 = 7 then latchFull s block
  else if fld block 0 3 = 6 then
    match decodeReferences block with
    | none => errorLatch ⟨1, 0⟩
    | some refs => latchReference s refs (max 1 sub)
  else errorLatch ⟨1, 0⟩

/-- Arriving at a reference with REPLEFT = 0 loads REP, whatever its entry holds (R47). -/
noncomputable def arriveBlock (s : State) (block : Nat) : State :=
  let sub := bits s.task.pc 0 5
  if s.task.repLeft ≠ 0 ∨ 16 ≤ sub ∨ fld block 0 3 ≠ 6 then s
  else
    match (decodeReferences block).bind fun refs => refs[max 1 sub - 1]? with
    | some r => { s with task := { s.task with repLeft := word r.rep } }
    | none => s

/-- Fetch reads device-global addresses of the own module (R42). -/
def fetchable (s : State) : Bool :=
  match spaceOf s none none s.task.pc with
  | .device _ _ => true
  | _ => false

/-- Fetch and decode what stands at the PC, unless it is latched. An error where the page's home holds the read. -/
noncomputable def fetch (s : State) : Except State State :=
  if s.task.latch ≠ .empty then .ok s
  else
    let put := fun (l : Latch) (s : State) => Except.ok { s with task := { s.task with latch := l } }
    if !fetchable s then put (.trap causeTranslation 0 0 s.task.pc) s
    else
      match agentRead (Agent.ofCore s.active) (word (s.task.pc.toNat / 32 * 32)) 32 s with
      | .ok b s1 => put (latchBlock s1 (leNat b)) (arriveBlock s1 (leNat b))
      | .fault f s1 => put (.trap f.cause 0 f.detail s.task.pc) s1
      | .remote _ s1 => put (.trap causeTranslation 0 0 s.task.pc) s1
      | .held s1 => .error s1

/-! ## Placing a word where the next fetch finds it -/

/-- The slot of an instruction's class. -/
def slotFor (i : Instr) : Nat :=
  match slotClassOf i with
  | some .control => 2
  | some .vector => 3
  | some .matrix => 5
  | some .copy => 6
  | _ => 1

/-- The full bundle that holds one word. -/
noncomputable def bundleWith (nbits w : Nat) : Nat :=
  let n := match decodeTableWord nbits w with
    | some i => slotFor i
    | none => 1
  7 + 2 ^ (4 + n) + w % 2 ^ 32 * 2 ^ (32 * n)

/-- Where the placed tables and the placed bundle stand in die 0: L1, L2 and code. -/
def placedL1 : Nat := 0x10000
def placedL2 : Nat := 0x20000
def placedCode : Nat := 0x30000

/-- The memory of a program of one bundle: an L1 entry, an L2 leaf that maps the first 512 MiB onto themselves, the bundle. -/
noncomputable def placedMemory (m : Memory) (block : Nat) : Memory :=
  let m1 := memPutWord m (Place.dram 0 placedL1).key (word (placedL2 + 1))
  let m2 := memPutWord m1 (Place.dram 0 placedL2).key 0x600F
  memStore m2 (Place.dram 0 placedCode).key (leBytes 32 block)

/-- The running frame, ready to fetch at an address. -/
def Task.readyAt (t : Task) (pc : Word) : Task :=
  { t with pc := pc, skip := 0, inflight := [], owed := [], detected := [], cancel := none, waits := [], rimWait := none,
           latch := .empty, flow := .next, trapping := none, heldCopies := [], replays := [], quantum := 0, atSafe := false,
           parityBad := [] }

/-- A machine whose active core fetches a given block next. -/
noncomputable def placeBlock (s : State) (block : Nat) : State :=
  let pc := word (s.moduleId.toNat * 2 ^ 54 + placedCode)
  let s1 := updDie s 0 fun k => { k with dtroot := word (placedL1 + 1), dtrootLive := word (placedL1 + 1), mtlb := [], paths := [], online := true }
  let s2 := updDie s1 (dieOf s.active) fun k => { k with online := true }
  { s2 with
    mem := placedMemory s2.mem block
    agenda := []
    breaks := []
    booted := true
    core := { s2.core with run := some (s2.core.run.getD 0), stopped := false, image := none }
    task := s2.task.readyAt pc }

end Sys2Proof.Machine
end

