-- ==== Sys2Proof/Machine/Schedule.lean ====
section
/-! DEFINITION. Which move the machine makes: the next entry of the agenda, else the model's own schedule (the active core's
sequencer, an engine where the core cannot go on, another core). -/

namespace Sys2Proof.Machine

/-! ## Engines -/

/-- The streams with a copy on them. -/
def busyStreams (s : State) : List CopyStream :=
  ((touchedCores s).flatMap fun g => (getCore s g).channels.map fun e => CopyStream.channel g e.1)
    ++ (s.clusters.flatMap fun k => k.2.queueJobs.map fun e => CopyStream.queue k.1 e.1)
    ++ (s.dies.filter fun d => !d.2.trigStream.isEmpty).map fun d => CopyStream.trigger d.1

/-- A core whose first fill has its home on this module. -/
def localFill (s : State) (g : Nat) : Bool :=
  match nextFill (getCore s g) with
  | some f => (match spaceOf s none none (lineVa (getCore s g) f.line) with
    | .remote .. => false
    | _ => true)
  | none => false

/-- What a die's engines have begun: a move of a page (R313), a warm reset (R344), frames to take back (R312). -/
def dieMoves (d : Nat) (k : Die) : List Instr :=
  (match k.moving with
    | some m => [if m.kind = kindEvict then .evictPage d else if m.kind = kindFetch then .fetchInPage d else .migratePage d]
    | none => [])
    ++ (if 1 ≤ k.resetStep ∧ k.resetStep ≤ 5 then [.dieWarmReset d] else [])
    ++ if k.reclaim.isEmpty then [] else [.frameReclaim d]

/-- What the engines might do next, in the model's order. -/
def engineMoves (s : State) : List Instr :=
  ((List.range 16).filter fun cl => (getCluster s cl).checkpointDue s.tick).map (fun cl => Instr.firmwareCheckpoint cl)
    ++ ((touchedCores s).filter (localFill s)).map (fun g => Instr.stashFill g (.data []))
    ++ (busyStreams s).flatMap (fun x => [.copyStart x, .copyComplete x])
    ++ s.dies.flatMap (fun d => (d.2.posted.filter fun p => 0 < p.2.firing).map fun p => .postedOpDone d.1 p.1)
    ++ s.clusters.flatMap (fun k => k.2.hoops.map fun h => .hoopPhaseComplete k.1 h.1)
    ++ s.clusters.flatMap (fun k => (List.range k.2.launches.length).flatMap fun n => [.launchComplete k.1 n, .instanceCreation k.1 n])
    ++ s.clusters.flatMap (fun k => [.taskPlacement k.1, .packetTake k.1, .copyQueueTake k.1]
      ++ (List.range k.2.saved.length).map (.contextRestore k.1 ·) ++ [.classAging k.1, .frameDisplacement k.1])
    ++ s.dies.flatMap (fun d => dieMoves d.1 d.2)
    ++ s.streams.map fun x => .streamRepin x.core x.frame x.stream

/-- The resident frames that wait: an owed operation of the module, a deadline, or a look at what they wait for. -/
def frameMoves (s : State) : List Instr :=
  (allFrames s).flatMap fun e =>
    (e.2.2.owed.filterMap fun o => match o.kind with
      | .access _ _ t => if t = s.moduleId.toNat then some (Instr.interlockedCompletion o.id (.data [])) else none
      | .reduction .. => some (.interlockedCompletion o.id (.data [])))
      ++ if e.2.2.waits.isEmpty || !(getDie s (dieOf e.1)).online then []
        else (if e.2.2.waits.any (Wait.expired s.tick) then [.waitTimeout e.1 e.2.1] else []) ++ [.waitWakeup e.1 e.2.1]

/-- How much the frames have still to wait for. -/
def waitCount (s : State) : Nat := (allFrames s).foldl (fun n e => n + e.2.2.waits.length) 0
def owedCount (s : State) : Nat := (allFrames s).foldl (fun n e => n + e.2.2.owed.length) 0

/-- The state after a move, where the move is due. -/
def tryMove (s : State) (i : Instr) : Option State :=
  match exec i s with
  | .next s1 => some s1
  | _ => none

/-- A frame's move counts where it leaves less to wait for, or sends something. -/
def tryFrameMove (s : State) (i : Instr) : Option State :=
  (tryMove s i).bind fun s1 =>
    if waitCount s1 < waitCount s ∨ owedCount s1 ≠ owedCount s ∨ s1.outbox.length ≠ s.outbox.length then some s1 else none

/-- The next core in order that has a frame; the active one where there is no other. -/
def otherCore (s : State) : Nat :=
  let busy := (touchedCores s).filter fun g => !(residents s g).isEmpty
  let key := fun (g : Nat) => (g + 767 - s.active) % 768
  busy.foldl (fun best g => if key g < key best then g else best) s.active

/-- The first waiting frame, in an order that turns with the tick, that has a move. -/
def waitingMove (s : State) : State :=
  let l := frameMoves s
  let k := s.tick % (l.length + 1)
  ((l.drop k ++ l.take k).findSome? (tryFrameMove s)).getD s

/-- The eviction policy of every die whose pool is low looks at one page (R411). -/
def policyMoves (s : State) : State :=
  (s.dies.map Prod.fst).foldl (fun s d => (tryMove s (.evictionPolicy d)).getD s) s

/-- The core cannot go on: an engine moves; where none is due a waiting frame moves, `ticks` pass, and another core is next. -/
def restMove (ticks : Nat) (s : State) : State :=
  let s := flushRecords s
  match (engineMoves s).findSome? (tryMove s) with
  | some s1 => s1
  | none =>
    let s1 := policyMoves (waitingMove s)
    activate { s1 with tick := s1.tick + ticks } (otherCore s1)

/-- The core cannot go on, and a tick may pass. -/
def otherMove (s : State) : State := restMove 1 s

/-- A core that goes on gives the rest of the machine and the next core a turn. -/
def turnOver (s : State) : State :=
  let s := flushRecords s
  let s1 := policyMoves (((engineMoves s).findSome? (tryMove s)).getD (waitingMove s))
  activate s1 (otherCore s1)

/-! ## The sequencer -/

/-- An owed operation that needs nobody else: a reduction, or an access of this module. -/
def ownOwed (s : State) : Option Owed :=
  s.task.owed.find? fun o => match o.kind with
    | .reduction .. => true
    | .access _ _ t => t == s.moduleId.toNat

/-- The core was frozen by the bundle it holds. -/
def frozeAt (before after : State) : Bool :=
  after.tick == before.tick + 1 && after.task.bt == before.task.bt && after.task.latch != .empty && after.core.run == before.core.run

/-- After an issue or an empty bundle time: where the bundle froze the core, the rest of the machine moves; every sixteenth
tick a core that goes on gives up its turn, so that no core, engine or waiting frame is left behind for good. -/
def afterIssue (before : State) (r : Result) : Result :=
  match r with
  | .next s1 =>
    if frozeAt before s1 then .next (restMove 0 s1)
    else if s1.tick ≠ before.tick ∧ s1.tick % 16 = 0 then .next (turnOver s1)
    else .next s1
  | x => x

/-- Fetch, decode and issue what stands at the PC. -/
noncomputable def issueMove (s : State) : Result :=
  match fetch s with
  | .error s1 => .next (otherMove (keepAsks s s1))
  | .ok s1 =>
    match s1.task.latch with
    | .reference .. => afterIssue s (exec .reference s1)
    | _ => afterIssue s (exec .fullBundle s1)

/-- The waits of the running frame: a deadline, a look; else it parks, once its bundle's SKIP has issued (R102), unless it must wait on the
core for its trap, cancel or end (R108), which is then frozen. -/
def waitMove (pos : Nat) (mayPark : Bool) (s : State) : State :=
  match (if s.task.waits.any (Wait.expired s.tick) then tryMove s (.waitTimeout s.active pos) else none) with
  | some s1 => s1
  | none =>
    let s1 := (tryFrameMove s (.waitWakeup s.active pos)).getD s
    if waitCount s1 < waitCount s then s1
    else if mayPark && s1.task.skip == 0 && s1.task.waits.all (·.park) then switchFrame s1
    else otherMove s1

/-- The first of some moves that is due; else go on. -/
noncomputable def firstOf (s : State) (l : List Instr) (go : Result) : Result :=
  match l.findSome? (tryMove s) with
  | some s1 => .next s1
  | none => go

/-- At a boundary with nothing pending: the quantum, a higher class, a pre-emption, which waits for the frame's interlocked operations
(R105), a rim wait that parks; else the next bundle. -/
noncomputable def boundaryMove (pos : Nat) (s : State) : Result :=
  if atSafePoint s.task && higherReady s then .next (switchFrame s)
  else if s.task.preemptReq && atSafePoint s.task && !s.task.owed.isEmpty then .next (otherMove s)
  else
    firstOf s ((if Config.quantum ≤ s.task.quantum then [.quantumExpiry] else [])
      ++ (if s.task.preemptReq && atSafePoint s.task then [.preemption s.active pos] else [])
      ++ (if s.task.rimWait.isSome then [.rimWaitPark] else [])) (issueMove s)

/-- A `phase.commit` has left copies that it has still to hand over (R277). -/
def copiesLeft (t : Task) : Bool := !t.heldCopies.isEmpty && !phaseOpen t

/-- They are handed over as far as their channels have room. -/
def copiesMove (s : State) : State :=
  let s1 := handCopies s.task.heldCopies s
  if s1.task.heldCopies.length < s.task.heldCopies.length then s1 else otherMove s

/-- What the bundle before has left: what it owes a checkpoint (R145), its empty bundle times, copies not handed over, waits. -/
noncomputable def betweenMove (pos : Nat) (s : State) : Result :=
  if checkpointOwed s.task then .next (otherMove s)
  else if 0 < s.task.skip then afterIssue s (exec .skip s)
  else if s.task.flow ≠ .next then .next (finishFlow s)
  else if copiesLeft s.task then .next (copiesMove s)
  else if !s.task.waits.isEmpty then .next (waitMove pos true s)
  else boundaryMove pos s

/-- The running frame moves: results and completions first, then a cancel, a trap, the end of an `exit` or `eret`. -/
noncomputable def frameMove (pos : Nat) (s : State) : Result :=
  if (dueResult s.task).isSome then exec .exposedResultLands s
  else
    match (ownOwed s).bind fun o => tryFrameMove s (.interlockedCompletion o.id (.data [])) with
    | some s1 => .next s1
    | none =>
      let pending := s.task.cancel.isSome || s.task.trapping.isSome || !s.task.detected.isEmpty
        || s.task.flow == .exit || s.task.flow == .eret
      if pending && !s.task.owed.isEmpty then .next (otherMove s)
      else if pending && !s.task.waits.isEmpty then .next (waitMove pos false s)
      else if s.task.cancel.isSome then firstOf s [.phaseCancel] (.next (otherMove s))
      else if s.task.trapping.isSome || !s.task.detected.isEmpty then exec .trapEntry s
      else if s.task.flow = .exit ∨ s.task.flow = .eret then .next (finishFlow s)
      else betweenMove pos s

/-- A core that the debugger has stopped lets what had issued complete: what is due lands, an `exit` or `eret` with nothing left to wait
for ends, copies are handed over (R243). -/
noncomputable def stoppedMove (s : State) : Result :=
  let t := s.task
  if s.core.run.isNone then .next (otherMove s)
  else if (dueResult t).isSome then exec .exposedResultLands s
  else if t.ending && t.owed.isEmpty && t.waits.isEmpty then .next (finishFlow s)
  else if copiesLeft t then .next (copiesMove s)
  else .next (otherMove s)

/-- The core's bundle table is on its way. A core with tasks waits for it; on an empty one it waits for the task that the scheduler is
about to place there, and is of no use without one. -/
def imageMove (i : ImageLoad) (s : State) : State :=
  let g := s.active
  let s1 := advanceImage g s
  if (tasksOn s g).isEmpty then
    if i.ended.isSome && !((getCluster s (clusterOf g)).ready.any fun t => t.btabVa == i.va) then dropImage g s
    else if s1 = s then otherMove s else s1
  else
    let s2 := dropImage g s1
    if s2.core.image.isSome then otherMove s2 else s2

/-- The active core moves. One whose bundle table is still being loaded waits for it. -/
noncomputable def coreMove (s : State) : Result :=
  if !(getDie s (dieOf s.active)).online || !present s s.active then .next (otherMove s)
  else if s.core.stopped then stoppedMove s
  else
    match s.core.image, s.core.run with
    | some i, _ => .next (imageMove i s)
    | none, some pos => frameMove pos s
    | none, none => match nextFrame s.core with
      | some p => .next (startFrame s p)
      | none => .next (otherMove s)

/-- The slot wheel comes first in its tick (R336); else the active core moves. -/
noncomputable def wheelMove (s : State) : Result :=
  match if (scFrame s).isSome then tryMove s .scPerform else none with
  | some s1 => .next s1
  | none => coreMove s

/-- The machine's move. An event of the agenda that is not due does not happen. Nothing moves before a good boot. -/
noncomputable def machineMove (s : State) : Result :=
  match s.agenda with
  | .event i :: rest =>
    (match exec i { s with agenda := rest } with
    | .next s1 => .next s1
    | _ => .next { s with agenda := rest })
  | .core c :: rest => wheelMove (activate { s with agenda := rest } c)
  | .debug c :: rest => .next (debugCommand c { s with agenda := rest })
  | .upset u :: rest => .next (strike u { s with agenda := rest })
  | .read o :: rest => .next (hostRead o { s with agenda := rest })
  | .poolWrite ppa b :: rest => .next (poolWrite ppa b { s with agenda := rest })
  | [] => if s.booted then wheelMove s else .next { s with tick := s.tick + 1 }

end Sys2Proof.Machine
end

