-- ==== Sys2Proof/Machine/Step.lean ====
section
/-! DEFINITION. One step of the machine, and a word placed where the next step fetches it. -/

namespace Sys2Proof.Machine

/-- One step. -/
noncomputable def step (s : State) : Host.Outcome State Fault Refusal := machineMove s

/-- The machine with an instruction of the opcode table as the bundle that its active core fetches next: a full bundle that
holds only it. -/
noncomputable def State.withFetchWord (s : State) (nbits w : Nat) : State := placeBlock s (bundleWith nbits w)

end Sys2Proof.Machine
end

