-- ==== Sys2Proof/Safety.lean ====
section
/-! DEFINITION. The terms in which claims about a run are stated: when the running task issues a lone syllable, what its bundle
leaves beside its effect, which registers and bytes a frame keeps, and when a core stands at a boundary with nothing pending. -/

namespace Sys2Proof.Machine

/-! ## Issuing -/

/-- The running task of the active core may issue a lone syllable that names `uses` as sources and destinations: no pending
pre-emption has passed PREBOUND (R103), no interlocked operation still owes a register it names (R96), and no `cp` that has issued waits
for room on its channel (R277). -/
def Unblocked (s : State) (uses : List Dest) : Prop :=
  s.core.run.isSome = true ∧ overrun s.task = false ∧ copyWaits s = false ∧ ∀ d ∈ uses, d ∉ owedDests s.task

/-- The task issues it, and its guard holds at the read point (R53). -/
def Issues (s : State) (g : BitVec 4) (uses : List Dest) : Prop := Unblocked s uses ∧ getP s g = true

/-- The same of a memory access: fewer than 16 interlocked accesses of the frame are outstanding (R96). -/
def Accesses (s : State) (g : BitVec 4) (uses : List Dest) : Prop :=
  Issues s g uses ∧ owedAccesses s.task < Config.maxOutstanding

/-- The state after a full bundle without SP and SKIP has issued in `s` and its slots have made `t` of it. -/
def after (s t : State) : State := finishIssue false 0 .full s t

/-- The block after the one at the PC: where a full bundle goes on, and the link of a call (R49, R51). -/
def nextBlock (s : State) : Word := word ((s.task.pc.toNat / 32 + 1) * 32)

/-- Where a lone syllable stands in its bundle. -/
def loneCtx (slot : Nat) (s : State) : Ctx := ⟨slot, nextBlock s, []⟩

/-! ## Shapes of effects -/

/-- Where an operation of a lone syllable that raises `x` ends (R23): the flags are ORed into FPCSR, and it writes, or where a
raised flag is enabled it writes nothing and FP_EXCEPTION with those flags is to be taken. -/
def fpOutcome (s : State) (slot : Nat) (x : Flags) (write : State → State) (t : State) : State :=
  let t1 := { t with task := { t.task with fpcsr := s.task.fpcsr ||| (x.setWidth 64 <<< 2) } }
  if (s.task.fpcsr >>> 8).setWidth 5 &&& x = 0 then write t1
  else { t1 with task := { t1.task with detected := t1.task.detected ++ [⟨causeFp, x.setWidth 16, slot, s.task.pc, []⟩] } }

/-- The tiles of a list are below the quota, tagged `t`, an even one for an f64 pair, and without factors. -/
abbrev PlainTiles (s : State) (t : Nat) (l : List Nat) : Prop :=
  ∀ n ∈ l, n < tileQuota s.task ∧ tagOf s n = t ∧ (t = 4 → n % 2 = 0) ∧ (getTile s n).slots = Slots.identity

/-- A tile that a result of tag `t` may be written to. -/
abbrev GoodTile (s : State) (t n : Nat) : Prop := n < tileQuota s.task ∧ (t = 4 → n % 2 = 0)

/-- What an instruction on tiles of tag `t` names: for f64 the odd tiles too. -/
def tileUses (t : Nat) (l : List Nat) : List Dest := l.flatMap fun n => encodedDests n t

/-- A syllable issues and leaves an exposed result in flight that lands in tile `d`, tagged `tag` and without factors, `lat`
bundle times after its read point (R94); element k = 16 i + j is `(f k).1`, and the flags are those of all elements (R23). -/
def TileLands (i : Instr) (s : State) (d tag lat : Nat) (f : Nat → Nat × Flags) : Prop :=
  ∃ (e : Array Nat) (x : Flags),
    exec i s = .next (after s (expose (loneCtx 3 s) s lat false false x (landTiles (resultTiles d tag Slots.identity false e)) s)) ∧
    e.size = 256 ∧ (∀ k, k < 256 → e.getD k 0 = (f k).1) ∧
    ∀ b, x.getLsbD b = true ↔ ∃ k, k < 256 ∧ (f k).2.getLsbD b = true

/-- Element k of tile `n`, tagged `t`, resolved through all its factor slots, with the flags that this raises (R161, R162): each slot that
names a rim is a step in the working format under RNE, and the result is rounded to the tile's format. -/
def resolvedElem (s : State) (n t k : Nat) : Nat × Flags :=
  let w := if t = 4 then f64 else f32
  let c := (getTile s n).slots
  let value := fun (code : BitVec 7) (e : Nat) =>
    if code = 0x7F then none else some (fpDecode f32 (smGet 0 (getRim s code.toNat).vals e).toNat)
  let step := fun (scale : Bool) (code : BitVec 7) (e : Nat) (x : Fp × Flags) => match value code e with
    | none => x
    | some v =>
      let r := if scale = true then fpMulR w 0 v x.1 else fpAdd w 0 x.1 v
      (fpDecode w r.bits, x.2 ||| r.flags)
  let x := fpDecode (tagFmt t) ((readOpnd s n).elems.getD k 0)
  let y := step true c.csc (k % 16) (step false c.csh (k % 16) (step true c.rsc (k / 16) (step false c.rsh (k / 16) (x, signalFlag [x]))))
  let r := fpRound (tagFmt t) 0 y.1
  (r.bits, r.flags ||| y.2)

/-- The rims that a tile's slots name are READY. -/
abbrev FactorsReady (s : State) (n : Nat) : Prop :=
  let c := (getTile s n).slots
  ∀ code ∈ [c.rsh, c.rsc, c.csh, c.csc], code ≠ 0x7F → (getRim s code.toNat).state = .ready

/-- Rims below the quota, and READY. -/
abbrev ReadyRims (s : State) (l : List Nat) : Prop := ∀ k ∈ l, k < rimQuota s.task ∧ (getRim s k).state = .ready

/-- A syllable issues and leaves an exposed result in flight that lands in rim `d` 3 bundle times after its read point. -/
def RimLands (i : Instr) (s : State) (d : Nat) (f : Nat → Nat × Flags) : Prop :=
  ∃ (v : SMap (BitVec 32)) (x : Flags),
    exec i s = .next (after s (expose (loneCtx 3 s) s 3 false false x [.rim d v] s)) ∧
    (∀ e, e < 16 → smGet 0 v e = BitVec.ofNat 32 (f e).1) ∧
    ∀ b, x.getLsbD b = true ↔ ∃ e, e < 16 ∧ (f e).2.getLsbD b = true

/-- The address lies in no own scratchpad and no stash window of the running task. -/
abbrev Elsewhere (s : State) (va : Word) : Prop := ownSpot s va = none

/-- The address lies at byte `off` of the own scratchpad, in no window, its sectors hold no error, and no earlier access of the task to
its bytes is still to be performed (R323). -/
abbrev OwnPlain (s : State) (va : Word) (n off : Nat) : Prop :=
  ownSpot s va = some (.plain off) ∧ sectorBad s.core off n = false ∧ behindOwed s s.task.owed [(va, n)] = false

/-- The address lies at byte `off` of the own scratchpad, in no window, and no earlier access of the task to its bytes is still to be
performed (R323). -/
abbrev OwnFree (s : State) (va : Word) (n off : Nat) : Prop :=
  ownSpot s va = some (.plain off) ∧ behindOwed s s.task.owed [(va, n)] = false

/-- No store of an earlier bundle time is in flight, as before every issue (R94, R219). -/
def StoresLanded (s : State) : Prop := ∀ e ∈ s.task.inflight, ∀ va b, Landing.store va b ∉ e.results

/-- The bytes at an own-scratchpad offset. -/
def ownAt (s : State) (off n : Nat) : List Byte := memBytes s.mem (Place.scratch s.active off).key n

/-- An access issues in slot S6 with base register `base` (R218). -/
def accessed (s : State) (a : Access) (base : Nat) (block : Bool) : State := issueAccess 6 s.task.pc a (laneOf s.task base) block s

/-- No other module, and no window of this one as a coherent line, holds a line of the `n` bytes at `key` (R232, R366). -/
abbrev AtHomeOnly (s : State) (key n : Nat) : Prop :=
  holdersOf s key n true = [] ∧
    ∀ g ∈ touchedCores s, ∀ e ∈ (getCore s g).lines, e.2.attr = 0 → e.2.home + 128 ≤ key ∨ key + n ≤ e.2.home

/-- No access of the task is outstanding: a release has nothing to wait for (R288, R332). -/
def AccessesDone (s : State) : Prop := ∀ o ∈ s.task.owed, ∀ a k m, o.kind ≠ .access a k m

/-! ## Frames -/

/-- The special registers, accounting, trap and snapshot registers of a task that ordinary instructions leave alone; FPCSR,
FRCNT and MFMT apart. -/
def SameSystem (s t : State) : Prop :=
  t.task.amax = s.task.amax ∧ t.task.slatch = s.task.slatch ∧ t.task.discards = s.task.discards ∧
  t.task.repLeft = s.task.repLeft ∧ t.task.taskctl = s.task.taskctl ∧ t.task.streamsel = s.task.streamsel ∧
  t.task.prebound = s.task.prebound ∧ t.task.phasectl = s.task.phasectl ∧ t.task.sfcm = s.task.sfcm ∧
  t.task.ofs = s.task.ofs ∧ t.task.ofstep = s.task.ofstep ∧ t.task.weight = s.task.weight ∧
  t.task.trapcause = s.task.trapcause ∧ t.task.trappc = s.task.trappc ∧ t.task.trapva = s.task.trapva ∧
  t.task.trapinfo = s.task.trapinfo ∧ t.task.tvec = s.task.tvec ∧ t.task.supervisor = s.task.supervisor ∧
  t.task.snapExposed = s.task.snapExposed ∧ t.task.snapReplay = s.task.snapReplay ∧
  t.task.snapPending = s.task.snapPending ∧ t.core.smap = s.core.smap ∧ t.core.slotmap = s.core.slotmap ∧
  t.core.btab = s.core.btab

/-- The vector and matrix state of a task. -/
def SameVector (s t : State) : Prop :=
  t.task.tiles = s.task.tiles ∧ t.task.rims = s.task.rims ∧ t.task.accs = s.task.accs ∧ t.task.omap = s.task.omap ∧
  t.core.oslots = s.core.oslots ∧ t.task.mfmt = s.task.mfmt

/-- Every scalar register but those listed, and every predicate but those listed, reads as before. -/
def SameScalars (s t : State) (regs preds : List Nat) : Prop :=
  (∀ n : BitVec 6, n.toNat ∉ regs → getS t n = getS s n) ∧ (∀ p : BitVec 4, p.toNat ∉ preds → getP t p = getP s p)

/-- Every byte of memory reads as before. -/
def SameMemory (s t : State) : Prop := ∀ key : Nat, memByte t.mem key = memByte s.mem key

/-- Every byte outside the `n` bytes at `key` reads as before. -/
def SameOutside (s t : State) (key n : Nat) : Prop :=
  ∀ k : Nat, k < key ∨ key + n ≤ k → memByte t.mem k = memByte s.mem k

/-! ## Boundaries -/

/-- The active core stands at a bundle boundary with nothing pending: the machine has booted, its agenda is empty, the core's
die is online, the core is present and not stopped, its bundle table is loaded, no core waits at the slot wheel, a frame runs, nothing
is in flight, owed, detected or waited for, no SKIP, copy or trap is left over, no higher class is ready, the quantum is not over, no
pre-emption is pending, and no breakpoint and no register with a parity error is set. -/
def AtBoundary (s : State) (pos : Nat) : Prop :=
  s.booted = true ∧ s.agenda = [] ∧ (getDie s (dieOf s.active)).online = true ∧ s.core.stopped = false ∧
  present s s.active = true ∧ s.core.run = some pos ∧
  s.task.inflight = [] ∧ s.task.owed = [] ∧ s.task.detected = [] ∧ s.task.cancel = none ∧ s.task.trapping = none ∧
  s.task.flow = .next ∧ s.task.skip = 0 ∧ s.task.heldCopies = [] ∧ s.task.waits = [] ∧ s.task.rimWait = none ∧
  s.task.replays = [] ∧ higherReady s = false ∧ s.task.quantum < Config.quantum ∧ s.task.preemptReq = false ∧
  s.core.image = none ∧ scFrame s = none ∧ s.breaks = [] ∧ s.task.parityBad = []

/-! ## Invariants -/

/-- Memory keeps its canonical form. -/
abbrev MemoryOk (s : State) : Prop := Memory.wf s.mem = true

end Sys2Proof.Machine
end

