-- ==== Sys2Proof/Certificates/Slice0/Obligations.lean ====
section
/-! DEFINITION. The statements about the NA-1160 model that are to be proved. -/

open Sys2Proof Sys2Proof.Machine

/-! ## Scalar registers and the scalar slot -/

/-- R115: s0 reads 0 and p0 reads 1, a write to either is discarded, and a write of any other register is what it reads next,
every other register as before; neither write changes anything else, but that an older result in flight for a written s register no
longer writes it (R95). -/
def Obligations.RegisterReadsAfterWrites : Prop :=
  ∀ (s : State) (d n : BitVec 6) (v : Word) (pd pn : BitVec 4) (b : Bool),
    getS s (0 : BitVec 6) = 0 ∧ getP s (0 : BitVec 4) = true ∧
    getS (setS s d v) n = (if n = 0 then 0 else if n = d then v else getS s n) ∧
    getP (setP s pd b) pn = (if pn = 0 then true else if pn = pd then b else getP s pn) ∧
    setS s d v = { s with task := { s.task with
      sregs := (setS s d v).task.sregs, inflight := supersede (Landing.toScalar d.toNat) s.task.inflight } } ∧
    setP s pd b = { s with task := { s.task with preds := (setP s pd b).task.preds } }

/-- R116: the fourteen ALU instructions, from the values at the read point.

R117, R118: the immediate forms with IMM, the 42-bit immediate of R56 extended to 64 bits; `li`; and `lih`, which puts
IMM[21:0] above the low 42 bits of s[A]. -/
def Obligations.ScalarArithmetic : Prop :=
  (∀ (s : State) (g : BitVec 4) (d a b : BitVec 6), Issues s g [.sreg a.toNat, .sreg b.toNat, .sreg d.toNat] →
    let x := getS s a
    let y := getS s b
    let n := y.toNat % 64
    let done := fun (v : Word) => (Host.Outcome.next (after s (setS s d v)) : Result)
    exec (.add g d a b) s = done (BitVec.ofInt 64 (x.toInt + y.toInt)) ∧
    exec (.sub g d a b) s = done (BitVec.ofInt 64 (x.toInt - y.toInt)) ∧
    exec (.and g d a b) s = done (x &&& y) ∧
    exec (.or g d a b) s = done (x ||| y) ∧
    exec (.xor g d a b) s = done (x ^^^ y) ∧
    exec (.andn g d a b) s = done (x &&& ~~~ y) ∧
    exec (.shl g d a b) s = done (x <<< n) ∧
    exec (.shrN g d a b) s = done (x >>> n) ∧
    exec (.shrI g d a b) s = done (x.sshiftRight n) ∧
    exec (.rot g d a b) s = done (x.rotateLeft n) ∧
    exec (.minI g d a b) s = done (if x.toInt ≤ y.toInt then x else y) ∧
    exec (.minN g d a b) s = done (if x.toNat ≤ y.toNat then x else y) ∧
    exec (.maxI g d a b) s = done (if x.toInt ≤ y.toInt then y else x) ∧
    exec (.maxN g d a b) s = done (if x.toNat ≤ y.toNat then y else x)) ∧
  (∀ (s : State) (g : BitVec 4) (d a : BitVec 6) (imm : BitVec 42), Issues s g [.sreg a.toNat, .sreg d.toNat] →
    let x := getS s a
    let v := imm.signExtend 64
    let n := imm.toNat % 64
    let done := fun (v : Word) => (Host.Outcome.next (after s (setS s d v)) : Result)
    exec (.addi g d a imm) s = done (BitVec.ofInt 64 (x.toInt + v.toInt)) ∧
    exec (.andi g d a imm) s = done (x &&& v) ∧
    exec (.ori g d a imm) s = done (x ||| v) ∧
    exec (.xori g d a imm) s = done (x ^^^ v) ∧
    exec (.shli g d a imm) s = done (x <<< n) ∧
    exec (.shriN g d a imm) s = done (x >>> n) ∧
    exec (.shriI g d a imm) s = done (x.sshiftRight n) ∧
    exec (.li g d imm) s = done v ∧
    exec (.lih g d a imm) s = done ((imm.setWidth 22).setWidth 64 <<< 42 ||| (x &&& 0x000003FFFFFFFFFF)))

/-- R119: the encodings of OP 0x0B, with FN 8 to 15 unassigned; the products (the high half with the low one is the exact product) and the quotients and remainders, with the values
of a zero divisor and of -2^63 / -1.

R120: leading and trailing zero bits, one bits, bits reversed and bytes reversed.

R121: `bfx` takes `w` bits from bit `o` (a bit above 63 is the sign or 0) and extends them, `bfi` puts the low `w` bits of
s[A] at bit `o`, and the funnel shifts take 64 of the 128 bits of a pair. -/
def Obligations.MultiplyDivideBits : Prop :=
  (∀ (s : State) (g : BitVec 4) (d a b : BitVec 6), Issues s g [.sreg a.toNat, .sreg b.toNat, .sreg d.toNat] →
     let x := getS s a
     let y := getS s b
     let low := BitVec.ofNat 64 (x.toNat * y.toNat)
     let least : Word := 0x8000000000000000
     let done := fun (v : Word) => (Host.Outcome.next (after s (setS s d v)) : Result)
     exec (.mul g d a b) s = done low ∧
     (∃ h : Word, exec (.mulhI g d a b) s = done h ∧ h.toInt * 2 ^ 64 + (low.toNat : Int) = x.toInt * y.toInt) ∧
     (∃ h : Word, exec (.mulhN g d a b) s = done h ∧ h.toNat * 2 ^ 64 + low.toNat = x.toNat * y.toNat) ∧
     (∃ h : Word, exec (.mulhIn g d a b) s = done h ∧ h.toInt * 2 ^ 64 + (low.toNat : Int) = x.toInt * (y.toNat : Int)) ∧
     (∃ q : Word, exec (.divI g d a b) s = done q ∧
       q = (if y = 0 then BitVec.allOnes 64 else if x = least ∧ y = BitVec.allOnes 64 then least else q) ∧
       (y ≠ 0 → ¬ (x = least ∧ y = BitVec.allOnes 64) → q.toInt = x.toInt.tdiv y.toInt)) ∧
     (∃ q : Word, exec (.divN g d a b) s = done q ∧ (y = 0 → q = BitVec.allOnes 64) ∧
       (y ≠ 0 → q.toNat = x.toNat / y.toNat)) ∧
     (∃ r : Word, exec (.remI g d a b) s = done r ∧ (y = 0 → r = x) ∧ (x = least ∧ y = BitVec.allOnes 64 → r = 0) ∧
       (y ≠ 0 → r.toInt = x.toInt - y.toInt * x.toInt.tdiv y.toInt)) ∧
     (∃ r : Word, exec (.remN g d a b) s = done r ∧ (y = 0 → r = x) ∧ (y ≠ 0 → r.toNat = x.toNat % y.toNat))) ∧
  ((∀ (s : State) (g : BitVec 4) (d a : BitVec 6), Issues s g [.sreg a.toNat, .sreg d.toNat] →
     let x := getS s a
     let done := fun (v : Word) => (Host.Outcome.next (after s (setS s d v)) : Result)
     (∃ n : Nat, exec (.clz g d a) s = done (BitVec.ofNat 64 n) ∧ (x = 0 → n = 64) ∧
       (x ≠ 0 → n < 64 ∧ x.getLsbD (63 - n) = true ∧ ∀ i, i < n → x.getLsbD (63 - i) = false)) ∧
     (∃ n : Nat, exec (.ctz g d a) s = done (BitVec.ofNat 64 n) ∧ (x = 0 → n = 64) ∧
       (x ≠ 0 → n < 64 ∧ x.getLsbD n = true ∧ ∀ i, i < n → x.getLsbD i = false)) ∧
     exec (.popc g d a) s = done (BitVec.ofNat 64 ((List.range 64).countP fun i => x.getLsbD i)) ∧
     (∃ v : Word, exec (.brev g d a) s = done v ∧ ∀ i, i < 64 → v.getLsbD i = x.getLsbD (63 - i)) ∧
     (∃ v : Word, exec (.bswap g d a) s = done v ∧
       ∀ i, i < 8 → v.extractLsb' (8 * i) 8 = x.extractLsb' (8 * (7 - i)) 8)) ∧
   (∀ (s : State) (g : BitVec 4) (d a b : BitVec 6),
     Issues s g [.sreg d.toNat, .sreg a.toNat, .sreg (a.toNat + 1), .sreg b.toNat, .sreg (b.toNat + 1)] →
     let x := getS s a
     let high := getS s (a + 1)
     let o := (getS s b).toNat % 128
     let w := (getS s (b + 1)).toNat % 128
     let bit := fun (q : Nat) (signed : Bool) => if q < 64 then x.getLsbD q else signed && x.getLsbD 63
     let done := fun (v : Word) => (Host.Outcome.next (after s (setS s d v)) : Result)
     (∃ v : Word, exec (.bfxN g d a b) s = done v ∧
       ∀ i, i < 64 → v.getLsbD i = (decide (i < w) && bit (o + i) false)) ∧
     (∃ v : Word, exec (.bfxI g d a b) s = done v ∧
       ∀ i, i < 64 → v.getLsbD i = (decide (w ≠ 0) && bit (o + min i (w - 1)) true)) ∧
     (∃ v : Word, exec (.bfi g d a b) s = done v ∧
       ∀ i, i < 64 → v.getLsbD i = if o ≤ i ∧ i < o + w then x.getLsbD (i - o) && decide (i - o < 64) else (getS s d).getLsbD i) ∧
     exec (.fshl g d a b) s = done (((high ++ x) <<< o).extractLsb' 64 64) ∧
     exec (.fshr g d a b) s = done (((high ++ x) >>> o).extractLsb' 0 64))) ∧
  (∀ (g : BitVec 4) (d a b : BitVec 6) (fn : BitVec 4),
    decodeSyllable .scalar (0x0B * 2 ^ 26 + g.toNat * 2 ^ 22 + d.toNat * 2 ^ 16 + a.toNat * 2 ^ 10 + b.toNat * 2 ^ 4 + fn.toNat) none =
      match [Instr.mul g d a b, .mulhI g d a b, .mulhN g d a b, .mulhIn g d a b, .divI g d a b, .divN g d a b, .remI g d a b,
          .remN g d a b][fn.toNat]? with
      | some i => .ok i
      | none => .error .instruction)

/-- R122: the eight conditions of `cmp`, and of `cmpi` with IMM8 sign-extended for CC 0, 1, 2, 3 and 6 and zero-extended for 4,
5 and 7, set p[PD].

R123, R124: predicate logic sets p[PD]; `sel` takes s[A] where its predicate holds and s[B] where it does not, and every FN of
OP 0x11 is a `sel` of the predicate of that number. -/
def Obligations.ComparesAndPredicates : Prop :=
  (∀ (s : State) (g pd cc : BitVec 4) (a b : BitVec 6) (imm : BitVec 8), cc.toNat < 8 →
     Issues s g [.sreg a.toNat, .sreg b.toNat, .pred pd.toNat] →
     let x := getS s a
     let holds := fun (y : Word) =>
       (cc = 0 ∧ x = y) ∨ (cc = 1 ∧ x ≠ y) ∨ (cc = 2 ∧ x.toInt < y.toInt) ∨ (cc = 3 ∧ y.toInt ≤ x.toInt) ∨
       (cc = 4 ∧ x.toNat < y.toNat) ∨ (cc = 5 ∧ y.toNat ≤ x.toNat) ∨ (cc = 6 ∧ x.toInt ≤ y.toInt) ∨
       (cc = 7 ∧ x.toNat ≤ y.toNat)
     let operand : Word := if cc = 4 ∨ cc = 5 ∨ cc = 7 then imm.setWidth 64 else imm.signExtend 64
     let done := fun (v : Bool) => (Host.Outcome.next (after s (setP s pd v)) : Result)
     (∃ v : Bool, exec (.cmp g pd a b cc) s = done v ∧ (v = true ↔ holds (getS s b))) ∧
     (∃ v : Bool, exec (.cmpi g pd cc a imm) s = done v ∧ (v = true ↔ holds operand))) ∧
  ((∀ (s : State) (g pd pa pb : BitVec 4), Issues s g [.pred pa.toNat, .pred pb.toNat, .pred pd.toNat] →
     let x := getP s pa
     let y := getP s pb
     let done := fun (v : Bool) => (Host.Outcome.next (after s (setP s pd v)) : Result)
     exec (.pand g pd pa pb) s = done (x && y) ∧ exec (.por g pd pa pb) s = done (x || y) ∧
     exec (.pxor g pd pa pb) s = done (xor x y) ∧ exec (.pandn g pd pa pb) s = done (x && !y) ∧
     exec (.pmov g pd pa) s = done x ∧ exec (.pset g pd) s = done true ∧ exec (.pclr g pd) s = done false) ∧
   (∀ (s : State) (g : BitVec 4) (d a b : BitVec 6) (p : BitVec 4),
     Issues s g [.sreg a.toNat, .sreg b.toNat, .pred p.toNat, .sreg d.toNat] →
     exec (.sel g d a b p) s = .next (after s (setS s d (if getP s p = true then getS s a else getS s b))))) ∧
  (∀ (g : BitVec 4) (d a b : BitVec 6) (n : BitVec 4),
    decodeSyllable .scalar (0x11 * 2 ^ 26 + g.toNat * 2 ^ 22 + d.toNat * 2 ^ 16 + a.toNat * 2 ^ 10 + b.toNat * 2 ^ 4 + n.toNat) none =
      .ok (.sel g d a b n))
/-! ## Scalar floating point and system registers -/

/-- R125, R126: scalar arithmetic in both formats: the exact result rounded once under FPCSR.RM, a 32-bit result zero-extended,
its flags and its trap as R23 says. The exact sum, product, quotient and root and the rounding are the model's functions. -/
def Obligations.ScalarFloat : Prop :=
  ∀ (s : State) (g : BitVec 4) (d a b : BitVec 6), Issues s g [.sreg a.toNat, .sreg b.toNat, .sreg d.toNat] →
    let rm := bits s.task.fpcsr 0 2
    let wide := fun (n : BitVec 6) => (getS s n).toNat
    let narrow := fun (n : BitVec 6) => (getS s n).toNat % 2 ^ 32
    let x := fpDecode f64 (wide a)
    let y := fpDecode f64 (wide b)
    let u := fpDecode f32 (narrow a)
    let v := fpDecode f32 (narrow b)
    let done := fun (r : Rounded) =>
      (Host.Outcome.next (after s (fpOutcome s 1 r.flags (fun t => setS t d (word r.bits)) s)) : Result)
    exec (.faddF64 g d a b) s = done (fpAdd f64 rm x y) ∧
    exec (.fsubF64 g d a b) s = done (fpAdd f64 rm x y.negate) ∧
    exec (.fmulF64 g d a b) s = done (fpMulR f64 rm x y) ∧
    exec (.fdivF64 g d a b) s = done (fpDiv f64 rm x y) ∧
    exec (.fsqrtF64 g d a) s = done (fpSqrt f64 rm x) ∧
    exec (.fminF64 g d a b) s = done (if x.isNan || y.isNan then ⟨defaultNan f64, signalFlag [x, y]⟩
      else ⟨if fpBelow y x then wide b else wide a, 0⟩) ∧
    exec (.fmaxF64 g d a b) s = done (if x.isNan || y.isNan then ⟨defaultNan f64, signalFlag [x, y]⟩
      else ⟨if fpBelow x y then wide b else wide a, 0⟩) ∧
    exec (.faddF32 g d a b) s = done (fpAdd f32 rm u v) ∧
    exec (.fsubF32 g d a b) s = done (fpAdd f32 rm u v.negate) ∧
    exec (.fmulF32 g d a b) s = done (fpMulR f32 rm u v) ∧
    exec (.fdivF32 g d a b) s = done (fpDiv f32 rm u v) ∧
    exec (.fsqrtF32 g d a) s = done (fpSqrt f32 rm u) ∧
    exec (.fminF32 g d a b) s = done (if u.isNan || v.isNan then ⟨defaultNan f32, signalFlag [u, v]⟩
      else ⟨if fpBelow v u then narrow b else narrow a, 0⟩) ∧
    exec (.fmaxF32 g d a b) s = done (if u.isNan || v.isNan then ⟨defaultNan f32, signalFlag [u, v]⟩
      else ⟨if fpBelow u v then narrow b else narrow a, 0⟩)

/-- R19: an operation with a NaN operand gives the default NaN of its format, whatever the payload, and raises NV exactly where
an operand is signalling.

R21: the directed modes round to the side they name and never past the value: what RDN gives is not above the value, what
RUP gives is not below it, RTZ gives no larger magnitude; and a finite result without NX is the value itself. -/
def Obligations.NanAndRounding : Prop :=
  (∀ (f : FFmt) (rm : Nat) (x y : Fp), x.isNan = true ∨ y.isNan = true →
     let nan : Rounded := ⟨defaultNan f, if x = .nan true ∨ y = .nan true then flagNV else 0⟩
     fpAdd f rm x y = nan ∧ fpSub f rm x y = nan ∧ fpMulR f rm x y = nan ∧ fpDiv f rm x y = nan ∧
     (∀ q, fpSqrt f rm (.nan q) = ⟨defaultNan f, if q = true then flagNV else 0⟩) ∧
     (∀ q, fpConvert f rm (.nan q) = ⟨defaultNan f, if q = true then flagNV else 0⟩) ∧
     defaultNan f32 = 0x7FC00000 ∧ defaultNan f16 = 0x7E00 ∧ defaultNan bf16 = 0x7FC0 ∧
     defaultNan f64 = 0x7FF8000000000000 ∧ defaultNan f128 = 0x7FFF8000000000000000000000000000) ∧
  (∀ (f : FFmt), f ∈ [f128, f64, f32, f16, bf16] → ∀ (n : Bool) (m : Nat) (e : Int),
     let x : Fp := .fin n m e
     let goes := fun (rm : Nat) => fpDecode f (fpRound f rm x).bits
     fpLt x (goes 2) = false ∧ fpLt (goes 3) x = false ∧ fpLt x.abs (goes 1).abs = false ∧
     ∀ rm, (fpRound f rm x).flags &&& flagNX = 0 → fpEq (goes rm) x = true)

/-- R127, R128, R24: conversions between scalar floats and integers, and the compares. A float to integer conversion saturates,
a NaN gives 0, both with NV; ordered compares raise NV on any NaN. -/
def Obligations.ScalarConvertCompare : Prop :=
  (∀ (s : State) (g : BitVec 4) (d a : BitVec 6), Issues s g [.sreg a.toNat, .sreg d.toNat] →
    let rm := bits s.task.fpcsr 0 2
    let x := fpDecode f64 (getS s a).toNat
    let u := fpDecode f32 ((getS s a).toNat % 2 ^ 32)
    let done := fun (v : Nat) (z : Flags) =>
      (Host.Outcome.next (after s (fpOutcome s 1 z (fun t => setS t d (word v)) s)) : Result)
    let round := fun (r : Rounded) => done r.bits r.flags
    let toInt := fun (lo hi : Int) (y : Fp) =>
      let r := match y with
        | .nan _ => ((0 : Int), flagNV)
        | .inf q => (if q = true then lo else hi, flagNV)
        | .fin q m e =>
          let v := fpToInteger rm q m e
          if hi < v.1 then (hi, flagNV) else if v.1 < lo then (lo, flagNV) else (v.1, if v.2 = true then flagNX else 0)
      done (BitVec.ofInt 64 r.1).toNat r.2
    exec (.fcvtF64I64 g d a) s = round (fpFromInt f64 rm (getS s a).toInt) ∧
    exec (.fcvtF64N64 g d a) s = round (fpFromInt f64 rm (getS s a).toNat) ∧
    exec (.fcvtI64F64 g d a) s = toInt (-(2 ^ 63)) (2 ^ 63 - 1) x ∧
    exec (.fcvtN64F64 g d a) s = toInt 0 (2 ^ 64 - 1) x ∧
    exec (.fcvtF32F64 g d a) s = round (fpConvert f32 rm x) ∧
    exec (.fcvtF64F32 g d a) s = round (fpConvert f64 rm u) ∧
    exec (.fcvtF32I64 g d a) s = round (fpFromInt f32 rm (getS s a).toInt) ∧
    exec (.fcvtI64F32 g d a) s = toInt (-(2 ^ 63)) (2 ^ 63 - 1) u) ∧
  (∀ (s : State) (g pd : BitVec 4) (a b : BitVec 6) (cc : BitVec 2),
    Issues s g [.sreg a.toNat, .sreg b.toNat, .pred pd.toNat] →
    let done := fun (x y : Fp) =>
      let z := if (cc = 1 ∨ cc = 2) ∧ (x.isNan = true ∨ y.isNan = true) then flagNV else signalFlag [x, y]
      let v := if cc = 0 then fpEq x y else if cc = 1 then fpLt x y else if cc = 2 then fpLt x y || fpEq x y
        else x.isNan || y.isNan
      (Host.Outcome.next (after s (fpOutcome s 1 z (fun t => setP t pd v) s)) : Result)
    exec (.fcmpF64 g pd a b cc) s = done (fpDecode f64 (getS s a).toNat) (fpDecode f64 (getS s b).toNat) ∧
    exec (.fcmpF32 g pd a b cc) s =
      done (fpDecode f32 ((getS s a).toNat % 2 ^ 32)) (fpDecode f32 ((getS s b).toNat % 2 ^ 32)))

/-- R129, R131: what `mfs` reads from each system register, at S; at U the same of all but the privileged ones. -/
def Obligations.SystemReads : Prop :=
  ∀ (s : State) (g : BitVec 4) (d : BitVec 6) (reg : BitVec 10), Issues s g [.sreg d.toNat] →
    (s.task.supervisor = true ∨ ¬ (reg = 0x010 ∨ (0x020 ≤ reg.toNat ∧ reg.toNat ≤ 0x025) ∨ reg = 0x060)) →
    ∃ v : Word, exec (.mfs g d reg) s = .next (after s (setS s d v)) ∧
      (reg = 0x000 → v.toNat = s.task.taskId.toNat) ∧
      (reg = 0x001 → v = word (s.moduleId.toNat * 2 ^ 12 + dieOf s.active * 2 ^ 8 + clusterOf s.active % 4 * 2 ^ 6
        + coreNoOf s.active)) ∧
      (reg = 0x002 → v = word s.task.tbase) ∧ (reg = 0x003 → v = word s.task.kbase) ∧
      (reg = 0x004 → v = word s.task.abase) ∧ (reg = 0x005 → v.toNat = s.task.quota.toNat) ∧
      (reg = 0x008 → v = s.task.fpcsr) ∧ (reg = 0x009 → v = s.task.amax) ∧
      (reg = 0x00A → ∀ i, i < 8 → v.extractLsb' (8 * i) 8 = smGet 0 s.task.slatch i) ∧
      (reg = 0x00B → v = s.task.frcnt) ∧ (reg = 0x00C → v = s.task.mfmt) ∧ (reg = 0x00D → v = s.task.discards) ∧
      (reg = 0x010 → v = s.task.prebound) ∧ (reg = 0x011 → v = s.task.bt) ∧ (reg = 0x012 → v = word s.task.weight) ∧
      (reg = 0x013 → v.toNat = s.task.launchId.toNat) ∧ (reg = 0x014 → v = s.task.repLeft) ∧
      (reg = 0x015 → v = s.task.taskctl) ∧ (reg = 0x016 → v = s.task.streamsel) ∧
      (reg = 0x020 → v = s.task.trapcause) ∧ (reg = 0x021 → v = s.task.trappc) ∧ (reg = 0x022 → v = s.task.trapva) ∧
      (reg = 0x023 → v = s.task.trapinfo) ∧ (reg = 0x024 → v = s.task.tvec) ∧
      (reg = 0x025 → v = word (snapReplayCount s.task * 2 ^ 8 + snapExposedCount s.task)) ∧
      (∀ n, n < 16 → reg.toNat = 0x030 + n → v = smGet 0 s.core.smap n) ∧
      (∀ n, n < 4 → reg.toNat = 0x040 + n → v = smGet 0 s.task.ofs n) ∧
      (∀ n, n < 4 → reg.toNat = 0x048 + n → v = smGet 0 s.task.ofstep n) ∧
      (reg = 0x050 → v = s.task.phasectl) ∧ (reg = 0x060 → v = s.core.slotmap) ∧
      (reg = 0x061 → v = capsOf s s.active) ∧ (reg = 0x070 → v = s.task.sfcm)

/-- R129, R130: `mts` to a register that its privilege may write, at U all but the privileged ones: its writable bits take s[A], its
read-only bits keep their value and its reserved bits read 0, and no other system register changes. `mts` of PHASECTL inside a phase
traps PHASE_ILLEGAL (R238). -/
def Obligations.SystemWrites : Prop :=
  (∀ (s : State) (g : BitVec 4) (a : BitVec 6) (reg : BitVec 10),
    (s.task.supervisor = true ∨ reg ∉ ([0x010, 0x020, 0x021, 0x022, 0x024] : List (BitVec 10))) →
    ∀ rw ro : Word, (reg, rw, ro) ∈ ([(0x008, 0xFF7F, 0), (0x009, 0x1FFFFFFFF, 0), (0x00B, 0xFFFFFFFF, 0),
      (0x00D, 0xFFFFFFFF, 0), (0x010, 0xFFFFFFFF, 0), (0x014, 0xFFFFFFFFFFFFFFFF, 0), (0x015, 1, 0), (0x016, 0x3F, 0),
      (0x020, 0x5FF, 0x200), (0x021, 0xFFFFFFFFFFFFFFFF, 0), (0x022, 0xFFFFFFFFFFFFFFFF, 0), (0x024, 0xFFFFFFFFFFFFFFE0, 0),
      (0x040, 0x033F07FF, 0), (0x041, 0xFF, 0), (0x042, 0xFF, 0), (0x043, 0xFF, 0), (0x048, 0xFFFFFF, 0), (0x049, 0xFFFFFF, 0),
      (0x04A, 0xFFFFFF, 0), (0x04B, 0xFFFFFF, 0), (0x050, 0xF0F000FFF00, 0xE000000), (0x070, 1, 0)]
      : List (BitVec 10 × Word × Word)) →
    (reg = 0x050 → bits s.task.phasectl 25 1 = 0) → Issues s g [.sreg a.toNat, sysDest reg.toNat] →
    ∃ t, exec (.mts g a reg) s = .next (after s t) ∧
      sysRead t reg.toNat = ((getS s a &&& rw) ||| (sysRead s reg.toNat &&& ro)) ∧
      (∀ n : BitVec 10, n ≠ reg → sysRead t n.toNat = sysRead s n.toNat) ∧ SameScalars s t [] [] ∧ SameVector s t ∧ t.mem = s.mem) ∧
  (∀ (s : State) (g : BitVec 4) (a : BitVec 6), Issues s g [.sreg a.toNat, sysDest 0x050] → bits s.task.phasectl 25 1 = 1 →
    exec (.mts g a 0x050) s = .next (issueTrap causePhase 0 1 0 s))

/-- R63, R129: at U, `eret`, `tlbi`, `pattr` and an `mfs` or `mts` of a privileged register trap PRIVILEGE; at S an `mts` of a
read-only register traps ILLEGAL_INSTRUCTION. The guard does not matter (R55).

R64: `vbas` in every form traps ILLEGAL_INSTRUCTION on a core that is not a gate core. -/
def Obligations.Privilege : Prop :=
  (∀ (s : State) (g : BitVec 4) (a b c : BitVec 6) (reg : BitVec 10), s.core.run.isSome = true →
    let traps := fun (cause : BitVec 8) (slot : Nat) => (Host.Outcome.next (issueTrap cause 0 slot 0 s) : Result)
    let hidden := reg = 0x010 ∨ (0x020 ≤ reg.toNat ∧ reg.toNat ≤ 0x025) ∨ reg = 0x060
    let fixed := reg.toNat ≤ 5 ∨ reg = 0x00A ∨ reg = 0x00C ∨ (0x011 ≤ reg.toNat ∧ reg.toNat ≤ 0x013) ∨ reg = 0x023 ∨
      reg = 0x025 ∨ (0x030 ≤ reg.toNat ∧ reg.toNat ≤ 0x03F) ∨ reg = 0x060 ∨ reg = 0x061
    (s.task.supervisor = false →
      exec (.eret g) s = traps causePrivilege 2 ∧ exec (.tlbiPage g a) s = traps causePrivilege 2 ∧
      exec (.tlbiRange g a b) s = traps causePrivilege 2 ∧ exec (.tlbiAll g) s = traps causePrivilege 2 ∧
      exec (.pattr g a b c) s = traps causePrivilege 2 ∧
      (hidden → exec (.mfs g a reg) s = traps causePrivilege 1 ∧ exec (.mts g a reg) s = traps causePrivilege 1)) ∧
    (fixed → (hidden → s.task.supervisor = true) → exec (.mts g a reg) s = traps causeInstruction 1)) ∧
  (∀ (s : State) (g : BitVec 4) (d a : BitVec 5) (k : BitVec 6), s.core.run.isSome = true → isGate s.active = false →
    ∀ i ∈ [Instr.vbas g d a k, .vbasSilu g d a k, .vbasGelu g d a k, .vbasSigm g d a k, .vbasRelu g d a k],
      exec i s = .next (issueTrap causeInstruction 0 3 0 s))
/-! ## Control, tasks and traps -/

/-- R43, R51, R93, R100, R133: what the issue of a full bundle without SP and SKIP adds to what its slots have written: the
clocks advance by one, control goes to the next block or to the branch target, nothing is latched, no wait of the bundle parks, and
everything else is as the slots left it. The safe point and the quantum count on; so does a debugger's step count (R88), a
failed fill that nobody took is dropped (R231), and a breakpoint that the debugger's resume has passed holds again (R298). -/
def Obligations.IssueBookkeeping : Prop :=
  ∀ (s u : State), phaseOpen u.task = false → (u.task.flow = .next ∨ ∃ p, u.task.flow = .branch p) →
    after s u = { u with
      tick := u.tick + 1
      core := { u.core.countStep with fills := u.core.fills.filter (·.failed.isNone), passBreak := none }
      task := { u.task with
        pc := (match u.task.flow with
          | .branch p => p
          | _ => nextBlock u), bt := u.task.bt + 1, skip := 0, sinceSp := u.task.sinceSp + 1, quantum := u.task.quantum + 1,
        atSafe := false, rimWait := none, stateWord := none, latch := .empty, flow := .next,
        waits := u.task.waits.map fun w => { w with park := false },
        owed := u.task.owed.map fun o => { o with park := false } } }

/-- R53: a syllable whose guard does not hold issues and has no effect, whatever it is and whatever its checks would say, unless the
core waits to hand over a `cp` that has issued (R277).

R96: a syllable that names a register, predicate, tile, rim or accumulator that an interlocked operation still owes freezes:
a tick passes, and nothing else changes. -/
def Obligations.GuardAndStall : Prop :=
  (∀ (i : Instr) (x : SlotOp) (s : State), opOf i = some x → s.core.run.isSome = true → overrun s.task = false →
    copyWaits s = false → decodeTrapOf s x = none → getP s x.guard = false → exec i s = .next (after s s)) ∧
  (∀ (i : Instr) (x : SlotOp) (s : State) (d : Dest), opOf i = some x → s.core.run.isSome = true → overrun s.task = false →
    decodeTrapOf s x = none → getP s x.guard = true → d ∈ x.uses s → d ∈ owedDests s.task →
    exec i s = .next { s with tick := s.tick + 1 })

/-- R50, R51, R133: branches and calls. The target of a displacement is counted in blocks from the block at the PC, with its
sub-position, and the link is the block after it.

R135, R136: `loop` counts s[A] down and branches unless it has reached 0; `loop.st` shifts p8 to p15 up by one, lets p8 say
whether s[A] was positive, and counts s[A], then s[A + 1]. -/
def Obligations.BranchesAndLoops : Prop :=
  (∀ (s : State) (g : BitVec 4) (a : BitVec 6) (disp : BitVec 22), Issues s g [.sreg a.toNat, .sreg 63] →
    let target := BitVec.ofInt 64 (((s.task.pc.toNat / 32 * 32 : Nat) : Int) + 32 * (disp.extractLsb' 4 18).toInt
      + ((disp.extractLsb' 0 4).toNat : Int))
    let linked := setS s (63 : BitVec 6) (nextBlock s)
    exec (.b g disp) s = .next (after s (goTo s target)) ∧
    exec (.call g disp) s = .next (after s (goTo linked target)) ∧
    exec (.jr g a) s = .next (after s (goTo s (getS s a))) ∧
    exec (.callr g a) s = .next (after s (goTo linked (getS s a))) ∧
    exec (.ret g) s = .next (after s (goTo s (getS s (63 : BitVec 6))))) ∧
  (∀ (s : State) (g : BitVec 4) (a : BitVec 6) (o : BitVec 12) (sub : BitVec 4),
    Issues s g ([.sreg a.toNat, .sreg (a.toNat + 1)] ++ (List.range 8).map fun q => .pred (8 + q)) →
    let target := BitVec.ofInt 64 (((s.task.pc.toNat / 32 * 32 : Nat) : Int) + 32 * o.toInt + (sub.toNat : Int))
    let n := getS s a
    let m := getS s (a + 1)
    (getS s a = 1 → exec (.loop g a o sub) s = .next (after s (setS s a 0))) ∧
    (getS s a ≠ 1 → exec (.loop g a o sub) s = .next (after s (goTo (setS s a (n - 1)) target))) ∧
    ∃ t : State, exec (.loopSt g a o sub) s =
        .next (after s (if 0 < n.toInt ∨ 0 < m.toInt then goTo t target else t)) ∧
      t = { (if 0 < n.toInt then setS s a (n - 1) else if 0 < m.toInt then setS s (a + 1) (m - 1) else s) with
        task := t.task } ∧
      t.task = { (if 0 < n.toInt then setS s a (n - 1) else if 0 < m.toInt then setS s (a + 1) (m - 1) else s).task with
        preds := t.task.preds } ∧
      (∀ q, q < 8 → t.task.preds.getLsbD q = s.task.preds.getLsbD q) ∧
      t.task.preds.getLsbD 8 = decide (0 < n.toInt) ∧
      (∀ q, 9 ≤ q → q < 16 → t.task.preds.getLsbD q = s.task.preds.getLsbD (q - 1)))

/-- R137: `spawn` takes the child's weight from the parent, which first draws 2^16 from the launch's reserve where it has come
down to 1; the child starts as R91 says, with s6 = s[B], and joins the ready tasks of the cluster. As a release it issues once no
earlier access of the task is outstanding.

R138: `spawn.sib` on a core that cannot take the child traps SPAWN_BUSY with the reason; else the child stands in a frame of
that core when the bundle has issued, an empty core with the launch's bundle-table image on its way.

The model's choices here: log 71, that an empty core begins to load the image as the child is placed, and log 31, that DETAIL 3 also
stands for a scratchpad region that does not fit. -/
def Obligations.Spawning : Prop :=
  (∀ (s : State) (g : BitVec 4) (a b c : BitVec 6) (l : Launch),
    Issues s g [.sreg a.toNat, .sreg b.toNat, .sreg c.toNat] → phaseOpen s.task = false → AccessesDone s →
    launchOf (getCluster s (clusterOf s.active)) s.task.launchId = some l →
    let k := min (max (getS s c).toNat 1) 16
    let drawn := if s.task.weight = 1 then min (2 ^ 16) l.reserve else 0
    let child := max 1 ((s.task.weight + drawn) / 2 ^ k)
    ¬ (s.task.weight = 1 ∧ drawn = 0) →
    ∃ t : Task, t.weight = child ∧ t.pc = getS s a ∧ t.sregs = smSet 0 s.task.initRegs 6 (getS s b) ∧
      t.launchId = s.task.launchId ∧ t.tvec = l.tvec ∧ t.quota = s.task.quota ∧ t.prio = s.task.prio ∧
      t.supervisor = false ∧ t.fpcsr = 0 ∧ t.preds = 1 ∧ t.mfmt = 0x111 ∧
      exec (.spawn g a b c) s = .next (after s (updCluster { s with task := { s.task with weight := s.task.weight + drawn - child } }
        (clusterOf s.active) fun x => { updLaunch x l.id (fun y => { y with reserve := l.reserve - drawn }) with ready := x.ready ++ [t] }))) ∧
  (∀ (s : State) (g : BitVec 4) (a b c : BitVec 6), Issues s g [.sreg a.toNat, .sreg b.toNat, .sreg c.toNat] →
    (∀ d, siblingFault s (getS s c).toNat (siblingOf s) = some d →
      exec (.spawnSib g a b c) s = .next (issueTrap causeSpawnBusy d 2 0 s)) ∧
    (siblingFault s (getS s c).toNat (siblingOf s) = none → phaseOpen s.task = false → AccessesDone s →
      (∀ t u, makeChild s (getS s a) (getS s b) 1 s = some (t, u) →
        let core := clusterOf s.active * 48 + (getS s c).toNat
        ∀ p, spotFor u core t false = some p →
          exec (.spawnSib g a b c) s = .next (after s (placeTask
            (if (tasksOn u core).isEmpty = true then dropImage core (advanceImage core (startImage core t.btabVa u)) else u)
            core p t)) ∧
          ((tasksOn u core).isEmpty = false →
            exec (.spawnSib g a b c) s = .next (after s (putFrame u core p (t.at p u.tick).withStack))))))

/-- R139, R140, R263: `exit` of the only frame of its core, with nothing outstanding and no hoop or operand slot, leaves the core
idle and returns the task's weight to its launch's reserve; `yield` in a bundle that is no safe point only goes on. -/
def Obligations.ExitAndYield : Prop :=
  ∀ (s : State) (g : BitVec 4), Issues s g [] → phaseOpen s.task = false →
    (s.task.flow = .next → (after s { s with task := { s.task with flow := .yield } }).task.pc = nextBlock s ∧
      exec (.yield g) s = .next (after s { s with task := { s.task with flow := .yield } })) ∧
    (s.task.owed = [] → s.task.detected = [] → s.task.cancel = none → s.task.waits = [] → s.task.inflight = [] → s.task.omap = [] → s.task.hoops = [] → s.task.replays = [] →
      s.task.snapReplay = [] → s.core.frames = [] → ∃ t, exec (.exit g) s = .next t ∧
        t.core.run = none ∧ t.core.frames = [] ∧ t.mem = s.mem ∧ t.tick = s.tick + 1 ∧
        t.clusters = (updCluster s (clusterOf s.active) fun k =>
          updLaunch k s.task.launchId fun l => { l with reserve := l.reserve + s.task.weight }).clusters)

/-- R141, R394: `wait` on an own-scratchpad word and `tcwait` on a counter of the module end at once, with p1, where the
condition holds or the timeout is 0; else the wait begins, with a deadline unless the timeout is all ones; a wait for a change
compares with the word's value at issue. A misaligned word traps ALIGNMENT. -/
def Obligations.Waits : Prop :=
  ∀ (s : State) (g : BitVec 4) (a b c : BitVec 6) (n : BitVec 4),
    Issues s g [.sreg a.toNat, .sreg b.toNat, .sreg c.toNat, .pred 1] → s.task.waits = [] →
    let value := getS s b
    let until' := if getS s c = BitVec.allOnes 64 then none else some (s.tick + (getS s c).toNat)
    let done := fun (v : Bool) => (Host.Outcome.next (after s (setP s (1 : BitVec 4) v)) : Result)
    let starts := fun (k : WaitKind) => (Host.Outcome.next (after s { s with task := { s.task with
      waits := [⟨k, until', s.tick, 2, s.task.pc, true⟩] } }) : Result)
    (∀ off, OwnPlain s (getS s a) 8 off → (getS s a).toNat % 8 = 0 → n.toNat < 5 →
      let w := word (leNat (ownAt s off 8))
      let met := (n = 0 ∧ w = value) ∨ (n = 1 ∧ w ≠ value) ∨ (n = 2 ∧ value.toNat ≤ w.toNat) ∨ (n = 3 ∧ w.toNat < value.toNat)
      exec (.wait g a b c n) s = if met then done true else if getS s c = 0 then done false
        else starts (.word (getS s a) n.toNat (if n = 4 then w else value) (getS s c) (laneOf s.task a.toNat))) ∧
    ((getS s a).toNat % 8 ≠ 0 → exec (.wait g a b c n) s = .next (issueTrap causeAlignment 0 2 (getS s a) s)) ∧
    (∀ d i, nameFate s (getS s a) = .live d i →
      exec (.tcwait g a b c) s = if value.toNat ≤ (getCounter s d i).value.toNat then done true
        else if getS s c = 0 then done false else starts (.counter (getS s a) value (getS s c) (laneOf s.task a.toNat)))

/-- R142, R143: allocating, freeing, joining and leaving a hoop, and its size.

R143, R144: `hbar` of a member arrives, once no earlier access of the task is outstanding, and waits for the phase; on a broken
hoop, on one that is not allocated, and by a task that is no member it traps HOOP_BROKEN with DETAIL 1, 2 and 3. -/
def Obligations.Hoops : Prop :=
  (∀ (s : State) (g : BitVec 4) (d a : BitVec 6), Issues s g [.sreg a.toNat, .sreg d.toNat] → phaseOpen s.task = false →
    let cl := clusterOf s.active
    let hoop := fun (n : Nat) => smGet Hoop.initial (getCluster s cl).hoops n
    let n := (getS s a).toNat
    let me := s.task.ident
    let change := fun (f : Hoop → Hoop) => updCluster s cl fun k => updHoop k n f
    (∀ h, h < 64 → (hoop h).allocated = false → (∀ j, j < h → (hoop j).allocated = true) →
      exec (.halloc g d) s = .next (after s (setS (updCluster s cl fun k => updHoop k h fun _ =>
        { Hoop.initial with allocated := true, owner := s.task.launchId }) d (word h)))) ∧
    ((∀ h, h < 64 → (hoop h).allocated = true) → exec (.halloc g d) s = .next (after s (setS s d (BitVec.allOnes 64)))) ∧
    (n < 64 → (hoop n).allocated = true → (allFrames s).all (fun e => !e.2.2.atHoop n none) = true →
      (getCluster s cl).saved = [] →
      ∃ t, exec (.hfree g a) s = .next (after s t) ∧ t.task = s.task ∧ t.mem = s.mem ∧
        ∀ j, smGet Hoop.initial (getCluster t cl).hoops j = if j = n then Hoop.initial else hoop j) ∧
    (n < 64 → (hoop n).allocated = true → (hoop n).broken = false → me ∉ (hoop n).members → n ∉ s.task.hoops →
      exec (.hjoin g a) s = .next (after s (let t := change fun x => { x with
          members := x.members ++ [me], late := if x.arrived = [] then x.late else x.late ++ [me] }
        { t with task := { t.task with hoops := t.task.hoops ++ [n] } }))) ∧
    (n < 64 → (hoop n).allocated = true → (hoop n).broken = false →
      exec (.hleave g a) s = .next (after s (let t := change fun x => x.leave me
        { t with task := { t.task with hoops := t.task.hoops.filter (· ≠ n) } }))) ∧
    exec (.hsize g d a) s = .next (after s (setS s d
      (if n < 64 ∧ (hoop n).allocated = true then word (hoop n).members.length else BitVec.allOnes 64)))) ∧
  (∀ (s : State) (g : BitVec 4) (a : BitVec 6), Issues s g [.sreg a.toNat] → phaseOpen s.task = false →
    let cl := clusterOf s.active
    let n := (getS s a).toNat
    let h := smGet Hoop.initial (getCluster s cl).hoops n
    (n < 64 → h.allocated = true → h.broken = false → s.task.ident ∈ h.members → AccessesDone s →
      exec (.hbar g a) s = .next (after s (startWait
        (.hoop n (if s.task.ident ∈ h.late then h.phase + 1 else h.phase)) none true 2 s.task.pc
        (updCluster s cl fun k => updHoop k n fun x => { x with arrived := x.arrived ++ [s.task.ident] })))) ∧
    (n < 64 → h.broken = true → exec (.hbar g a) s = .next (issueTrap causeHoop 1 2 0 s)) ∧
    (n < 64 → h.broken = false → h.allocated = false → exec (.hbar g a) s = .next (issueTrap causeHoop 2 2 0 s)) ∧
    (64 ≤ n → exec (.hbar g a) s = .next (issueTrap causeHoop 2 2 0 s)) ∧
    (n < 64 → h.allocated = true → h.broken = false → s.task.ident ∉ h.members →
      exec (.hbar g a) s = .next (issueTrap causeHoop 3 2 0 s)))

/-- R145, R240: `phase.begin` opens the phase and checkpoints the registers and the position that follow the bundle; `phase.commit`
selects the other half of every declared input and, with no copy held, closes the phase; `phase.abort` closes it and drops
the held copies; each traps PHASE_ILLEGAL in the other state. -/
def Obligations.Phases : Prop :=
  ∀ (s : State) (g : BitVec 4), Issues s g [] → s.task.flow = .next → s.task.waits = [] →
    let opened := bits s.task.phasectl 25 1 = 1
    let closed := s.task.phasectl &&& ~~~ 0xE000000
    (¬ opened → ∃ t, exec (.phaseBegin g) s = .next t ∧ t.task.phasectl = s.task.phasectl ||| 0x2000000 ∧
      t.task.checkpoint = some ⟨[], s.task.sregs, s.task.preds, nextBlock s, s.task.repLeft⟩ ∧ t.task.heldCopies = [] ∧
      t.task.pc = nextBlock s ∧ t.mem = s.mem ∧ SameScalars s t [] [] ∧ SameVector s t) ∧
    (opened → s.task.heldCopies = [] → ∃ t, exec (.phaseCommit g) s = .next t ∧
      t.task.phasectl = closed ^^^ word (bits s.task.phasectl 32 4 * 2 ^ 40) ∧ t.task.checkpoint = none ∧
      t.task.pc = nextBlock s ∧ t.mem = s.mem ∧ SameScalars s t [] [] ∧ SameVector s t) ∧
    (opened → ∃ t, exec (.phaseAbort g) s = .next t ∧ t.task.phasectl = closed ∧ t.task.checkpoint = none ∧
      t.task.heldCopies = [] ∧ t.task.pc = nextBlock s ∧ t.mem = s.mem ∧ SameScalars s t [] [] ∧ SameVector s t) ∧
    (opened → exec (.phaseBegin g) s = .next (issueTrap causePhase 0 2 0 s)) ∧
    (¬ opened → exec (.phaseCommit g) s = .next (issueTrap causePhase 0 2 0 s) ∧
      exec (.phaseAbort g) s = .next (issueTrap causePhase 0 2 0 s))

/-- R108, R109, R146: `sys`, `trap` and `brk` with a handler and nothing outstanding enter it: TRAPCAUSE holds the cause and the
privilege before, TRAPPC the block after the bundle, TRAPVA 0, TRAPINFO the code, the slot and whether replay entries are
held, the privilege is S, the PC is TVEC, and no register or byte of memory changes. -/
def Obligations.SoftwareTraps : Prop :=
  ∀ (s : State) (g : BitVec 4) (c : BitVec 16), Issues s g [] → s.task.flow = .next → s.task.owed = [] → s.task.detected = [] →
    s.task.tvec ≠ 0 → (s.task.supervisor = true → snapCount s.task = 0) →
    ∀ i cause, (i, cause) ∈ [(Instr.sys g c, causeSyscall), (.trap g c, causeSoftTrap), (.brk g c, causeBreak)] →
      ∃ t, exec i s = .next t ∧
        t.task.trapcause = word (cause.toNat + if s.task.supervisor = true then 0x100 else 0) ∧
        t.task.trappc = nextBlock s ∧ t.task.trapva = 0 ∧
        t.task.trapinfo = word (c.toNat * 2 ^ 16 + (if s.task.replays ++ s.task.snapReplay = [] then 0 else 2 ^ 11) + 2) ∧
        t.task.supervisor = true ∧ t.task.pc = s.task.tvec ∧ t.task.inflight = [] ∧ t.mem = s.mem ∧
        SameScalars s t [] [] ∧ SameVector s t ∧ t.task.fpcsr = s.task.fpcsr ∧ t.task.tvec = s.task.tvec

/-- R107, R108, R109: an issue trap of a task with a handler and nothing outstanding: nothing of the bundle has taken effect,
TRAPPC names the bundle, exposed results are latched with the bundle times they still need, the rest of a SKIP is set aside,
and the handler runs at S at TVEC.

R111, R112: a trap of a task with TVEC = 0, or at S with a snapshot held, ends the task as a fatal fault; where it is the fetch of
a root's first bundle that has failed, the launch's instances that are still to be created are discarded (R249). -/
def Obligations.TrapEntry : Prop :=
  (∀ (s : State) (cause : BitVec 8) (detail : BitVec 16) (slot : Nat) (va : Word), slot < 8 →
    s.task.owed = [] → s.task.detected = [] → s.task.tvec ≠ 0 → (s.task.supervisor = true → snapCount s.task = 0) →
    let t := issueTrap cause detail slot va s
    t.task.trapcause = word (cause.toNat + if s.task.supervisor = true then 0x100 else 0) ∧
    t.task.trappc = s.task.pc ∧ t.task.trapva = va ∧
    t.task.trapinfo = word (detail.toNat * 2 ^ 16 + (if s.task.replays ++ s.task.snapReplay = [] then 0 else 2 ^ 11) + slot) ∧
    t.task.supervisor = true ∧ t.task.pc = s.task.tvec ∧ t.task.inflight = [] ∧ t.task.skip = 0 ∧ t.task.snapSkip = s.task.skip ∧
    t.task.snapExposed = s.task.snapExposed ++ s.task.inflight.map (fun e => { e with due := e.due - s.task.bt.toNat }) ∧
    t.task.bt = s.task.bt ∧ t.mem = s.mem ∧ SameScalars s t [] [] ∧ SameVector s t) ∧
  (∀ (s : State) (cause : BitVec 8) (detail : BitVec 16) (slot : Nat) (va : Word),
    (s.task.tvec = 0 ∨ (s.task.supervisor = true ∧ snapCount s.task ≠ 0)) →
    s.task.owed = [] → s.task.omap = [] → s.task.hoops = [] → s.task.inflight = [] → s.task.replays = [] → s.task.snapReplay = [] →
    s.task.detected = [] → s.core.frames = [] →
    let t := issueTrap cause detail slot va s
    t.core.run = none ∧ t.core.frames = [] ∧ t.mem = s.mem ∧
    t.clusters = (updCluster s (clusterOf s.active) fun k => updLaunch k s.task.launchId fun l =>
      let ended := { l with reserve := l.reserve + s.task.weight, fatals := l.fatals + 1,
                            firstCause := if l.fatals = 0 then cause else l.firstCause, lastCause := cause }
      if l.entryFault s.task (some cause) = true then
        { ended with toCreate := 0, st := if l.st = .issuing then .running else l.st }
      else ended).clusters)

/-- R110, R147: `eret` at S with nothing outstanding: the privilege of TRAPCAUSE.PS and the position of TRAPPC come back, latched
results are in flight again with their remaining bundle times, a SKIP that was set aside counting among them, and replay entries and the SKIP that was left are due. -/
def Obligations.TrapReturn : Prop :=
  ∀ (s : State) (g : BitVec 4), Issues s g [] → s.task.supervisor = true → s.task.owed = [] → s.task.detected = [] →
    s.task.cancel = none → s.task.waits = [] → s.task.snapBad = false → s.task.inflight = [] → bits s.task.trapcause 10 1 = 0 →
    ∃ t, exec (.eret g) s = .next t ∧ t.task.pc = s.task.trappc ∧ t.task.supervisor = decide (bits s.task.trapcause 8 1 = 1) ∧
      t.task.inflight = s.task.snapExposed.map (fun e =>
        { e with due := (s.task.bt + 1).toNat + e.due, latched := true }) ∧
      t.task.replays = s.task.snapReplay ∧ t.task.detected = s.task.snapPending ∧ t.task.skip = s.task.snapSkip ∧
      t.task.snapExposed = [] ∧ t.task.snapReplay = [] ∧ t.task.snapPending = [] ∧ t.task.bt = s.task.bt + 1 ∧
      t.mem = s.mem ∧ SameScalars s t [] [] ∧ SameVector s t

/-- R148, R303, R307, R398: `tlbi` at S with nothing outstanding completes: no MTLB of the module keeps an entry that covers an address
of the page or of the range, nor the pool translator, every other entry stays, and nothing else changes; `tlbi.all` leaves none,
and the roots that were written take effect.

R149: `pattr` is made as an access: code 3 or more is refused with ATTRIBUTE, an empty range changes nothing, and a quiescent 64 KiB page
that the issuing core may move takes the attribute, the core as its owner where it is CP, with MIG 0 again, and no translator keeps its
old leaf. It walks without other modules' holders of the tables in its way (R304).

R148, R149: an address or a length off 64 KiB traps ALIGNMENT with the address. -/
def Obligations.Maintenance : Prop :=
  (∀ (s : State) (g : BitVec 4) (a b : BitVec 6), s.task.supervisor = true → s.task.owed = [] →
    Issues s g [.sreg a.toNat, .sreg b.toNat] →
    let even := fun (w : Word) => w.toNat % 2 ^ 16 = 0
    let meets := fun (n base : Nat) (x : TlbEntry) => ∃ v, (getS s a).toNat ≤ v ∧ v < (getS s a).toNat + n ∧
      base + x.page ≤ v ∧ v < base + x.page + x.size
    let drops := fun (i : Instr) (n : Nat) => ∃ t : State, exec i s = .next (after s t) ∧
      t = { s with dies := t.dies, poolTlb := t.poolTlb } ∧
      (∀ (d p : Nat) (x : TlbEntry), d < 4 → 0 < x.size → x.page + x.size ≤ 2 ^ 52 →
        (x ∈ mtlb t d p ↔ x ∈ mtlb s d p ∧ ¬ meets n (s.moduleId.toNat * 2 ^ 54 + d * 2 ^ 52) x) ∧
        (x ∈ tablePaths t d p ↔ x ∈ tablePaths s d p ∧ ¬ meets n (s.moduleId.toNat * 2 ^ 54 + d * 2 ^ 52) x)) ∧
      (∀ x : TlbEntry, 0 < x.size → x.page + x.size ≤ 2 ^ 48 → (x ∈ t.poolTlb ↔ x ∈ s.poolTlb ∧ ¬ meets n (2 ^ 62) x)) ∧
      ∀ d, d < 4 → getDie t d = { getDie s d with mtlb := (getDie t d).mtlb, paths := (getDie t d).paths }
    (even (getS s a) → drops (.tlbiPage g a) (2 ^ 16)) ∧
    (even (getS s a) → even (getS s b) → drops (.tlbiRange g a b) (getS s b).toNat) ∧
    (∃ t : State, exec (.tlbiAll g) s = .next (after s t) ∧
      t = { s with dies := t.dies, poolTlb := [], poolrootLive := s.poolroot } ∧
      ∀ d, d < 4 → getDie t d = { getDie s d with mtlb := [], paths := [], dtrootLive := (getDie s d).dtroot }) ∧
    (¬ even (getS s a) → exec (.tlbiPage g a) s = .next (issueTrap causeAlignment 0 2 (getS s a) s)) ∧
    (¬ (even (getS s a) ∧ even (getS s b)) → exec (.tlbiRange g a b) s = .next (issueTrap causeAlignment 0 2 (getS s a) s))) ∧
  (∀ (s : State) (g : BitVec 4) (a b c : BitVec 6), s.task.supervisor = true → s.task.owed = [] →
    Issues s g [.sreg a.toNat, .sreg b.toNat, .sreg c.toNat] →
    let va := getS s a
    let code := (getS s c).toNat
    let even := fun (w : Word) => w.toNat % 2 ^ 16 = 0
    let whole := leavesHere s va (getS s b) = Pre.ok ∧ splitsLeaf (Agent.ofCore s.active) va (getS s b).toNat s = false
    (even va → even (getS s b) →
      (3 ≤ code → exec (.pattr g a b c) s = .next (after s { s with task := { s.task with detected := s.task.detected ++
        [⟨causeAttribute, 1, 2, va, [⟨2, laneOf s.task a.toNat, s.nextOwed, .setAttribute va (getS s b) (getS s c) false⟩]⟩] } })) ∧
      (code < 3 → getS s b = 0 → exec (.pattr g a b c) s = .next (after s s)) ∧
      (code < 3 → whole → exec (.pattr g a b c) s = .next (after s (issueAccess 2 s.task.pc
        (.setAttribute va (getS s b) (getS s c) false) (laneOf s.task a.toNat) true s))) ∧
      (code < 3 → whole → getS s b = 0x10000 →
        ∀ (t : Translator) (e : TlbEntry) (s1 : State), freshLeaf (Agent.ofCore s.active) .probe va s = .ok (t, e) s1 →
          e.size = 2 ^ 16 → leafAttr e.entry ≠ code → (leafAttr e.entry = 2 → leafOwner e.entry = s.active) →
          quiescent s1 s.active ⟨va, if leafCommit e.entry then frameKey t e.entry else 2 ^ 70, e.size⟩ = true →
          holdersOf s1 (Place.dram t.tableDie e.entryPa).key 8 true = [] →
          ∃ u : State, exec (.pattr g a b c) s = .next (after s u) ∧
            tableEntry u t.tableDie e.entryPa =
              setBits (setBits (setBits e.entry 11 2 0) 5 2 code) 48 10 (if code = 2 then s.active else 0) ∧
            ∀ x ∈ t.cache u, x.page + x.size ≤ e.page ∨ e.page + e.size ≤ x.page)) ∧
    (¬ (even va ∧ even (getS s b)) → exec (.pattr g a b c) s = .next (issueTrap causeAlignment 0 2 va s)))

/-! ## Tiles and rims -/

/-- R172, R173: the elementwise float operations on tiles without factors: exact, rounded once under FPCSR.RM, landing 2 or 4
bundle times after the read point. -/
def Obligations.TileFloatArithmetic : Prop :=
  ∀ (s : State) (g : BitVec 4) (d a b : BitVec 5) (t : Nat), 1 ≤ t → t ≤ 4 → PlainTiles s t [a.toNat, b.toNat] →
    GoodTile s t d.toNat → Issues s g (tileUses t [a.toNat, b.toNat, d.toNat]) →
    let f := tagFmt t
    let rm := bits s.task.fpcsr 0 2
    let p := fun k => (readOpnd s a.toNat).elems.getD k 0
    let q := fun k => (readOpnd s b.toNat).elems.getD k 0
    let x := fun k => fpDecode f (p k)
    let y := fun k => fpDecode f (q k)
    let pair := fun (r : Rounded) => (r.bits, r.flags)
    let sign := fun (z w : Fp) => if z.isNan = true then (defaultNan f, signalFlag [z]) else ((fpRound f 0 w).bits, 0)
    TileLands (.vadd g d a b) s d.toNat t 2 (fun k => pair (fpAdd f rm (x k) (y k))) ∧
    TileLands (.vsub g d a b) s d.toNat t 2 (fun k => pair (fpAdd f rm (x k) (y k).negate)) ∧
    TileLands (.vmul g d a b) s d.toNat t 4 (fun k => pair (fpMulR f rm (x k) (y k))) ∧
    TileLands (.vmin g d a b) s d.toNat t 2 (fun k => pair (fpMinMax f false (p k) (q k))) ∧
    TileLands (.vmax g d a b) s d.toNat t 2 (fun k => pair (fpMinMax f true (p k) (q k))) ∧
    TileLands (.vabs g d a) s d.toNat t 2 (fun k => sign (x k) (x k).abs) ∧
    TileLands (.vneg g d a) s d.toNat t 2 (fun k => sign (x k) (x k).negate) ∧
    ((getTile s d.toNat).slots = Slots.identity → tagOf s d.toNat = t →
      TileLands (.vfma g d a b) s d.toNat t 4 (fun k =>
        pair (fpFma f rm (x k) (y k) (fpDecode f ((readOpnd s d.toNat).elems.getD k 0)))))

/-- R172, R173: the elementwise integer operations: exact, wrapped to the element's width. -/
def Obligations.TileIntegerArithmetic : Prop :=
  ∀ (s : State) (g : BitVec 4) (d a b : BitVec 5) (t : Nat), t ∈ [5, 6, 7, 0xB, 0xC] → PlainTiles s t [a.toNat, b.toNat] →
    GoodTile s t d.toNat → Issues s g (tileUses t [a.toNat, b.toNat, d.toNat]) →
    let w := tagWidth t
    let p := fun k => (readOpnd s a.toNat).elems.getD k 0
    let q := fun k => (readOpnd s b.toNat).elems.getD k 0
    let x := fun k => intOf t (p k)
    let y := fun k => intOf t (q k)
    let wrap := fun (v : Int) => ((v % 2 ^ w).toNat, (0 : Flags))
    TileLands (.vadd g d a b) s d.toNat t 2 (fun k => wrap (x k + y k)) ∧
    TileLands (.vsub g d a b) s d.toNat t 2 (fun k => wrap (x k - y k)) ∧
    TileLands (.vmul g d a b) s d.toNat t 4 (fun k => wrap (x k * y k)) ∧
    TileLands (.vmin g d a b) s d.toNat t 2 (fun k => wrap (min (x k) (y k))) ∧
    TileLands (.vmax g d a b) s d.toNat t 2 (fun k => wrap (max (x k) (y k))) ∧
    TileLands (.vabs g d a) s d.toNat t 2 (fun k => wrap ((x k).natAbs : Nat)) ∧
    TileLands (.vneg g d a) s d.toNat t 2 (fun k => wrap (-(x k))) ∧
    TileLands (.vshl g d a b) s d.toNat t 2 (fun k => (p k * 2 ^ (q k % w) % 2 ^ w, 0)) ∧
    TileLands (.vshr g d a b) s d.toNat t 2 (fun k => wrap (x k / 2 ^ (q k % w))) ∧
    (tagOf s d.toNat = t → (getTile s d.toNat).slots = Slots.identity →
      TileLands (.vfma g d a b) s d.toNat t 4 (fun k =>
        wrap (x k * y k + intOf t ((readOpnd s d.toNat).elems.getD k 0))))

/-- R173, R174: bitwise logic on tiles of any one number tag, compares into a mask tile of all ones or zeros tagged n32, selection
by a mask tile, and `vmov`, which copies containers, tag, factor slots and OVP of a tile of any tag but none, factored or not. -/
def Obligations.TileLogicCompareSelect : Prop :=
  (∀ (s : State) (g : BitVec 4) (d a b : BitVec 5) (t : Nat), isNumTag t = true → PlainTiles s t [a.toNat, b.toNat] →
    let p := fun k => (readOpnd s a.toNat).elems.getD k 0
    let q := fun k => (readOpnd s b.toNat).elems.getD k 0
    let u := fun k => fpDecode (tagFmt t) (p k)
    let v := fun k => fpDecode (tagFmt t) (q k)
    let x := fun k => intOf t (p k)
    let y := fun k => intOf t (q k)
    let mask := fun (c : Bool) => if c = true then 0xFFFFFFFF else 0
    let quiet := fun k => if isFloatTag t = true then signalFlag [u k, v k] else 0
    let loud := fun k => if isFloatTag t = true ∧ ((u k).isNan = true ∨ (v k).isNan = true) then flagNV else 0
    (GoodTile s t d.toNat → Issues s g (tileUses t [a.toNat, b.toNat, d.toNat]) →
      TileLands (.vand g d a b) s d.toNat t 2 (fun k => (p k &&& q k, 0)) ∧
      TileLands (.vor g d a b) s d.toNat t 2 (fun k => (p k ||| q k, 0)) ∧
      TileLands (.vxor g d a b) s d.toNat t 2 (fun k => (p k ^^^ q k, 0)) ∧
      (tagOf s d.toNat = 6 →
        TileLands (.vsel g d a b) s d.toNat t 2 (fun k =>
          (if (containers (getTile s d.toNat)).getD k 0 ≠ 0 then p k else q k, 0)))) ∧
    (d.toNat < tileQuota s.task → Issues s g (tileUses t [a.toNat, b.toNat] ++ [.tile d.toNat]) →
      TileLands (.vcmpeq g d a b) s d.toNat 6 2 (fun k =>
        (mask (if isFloatTag t = true then fpEq (u k) (v k) else x k == y k), quiet k)) ∧
      TileLands (.vcmplt g d a b) s d.toNat 6 2 (fun k =>
        (mask (if isFloatTag t = true then fpLt (u k) (v k) else decide (x k < y k)), loud k)) ∧
      TileLands (.vcmple g d a b) s d.toNat 6 2 (fun k =>
        (mask (if isFloatTag t = true then fpLt (u k) (v k) || fpEq (u k) (v k) else decide (x k ≤ y k)), loud k)))) ∧
  (∀ (s : State) (g : BitVec 4) (d a : BitVec 5), a.toNat < tileQuota s.task → d.toNat < tileQuota s.task → tagOf s a.toNat ≠ 0 →
    (tagOf s a.toNat = 4 → a.toNat % 2 = 0 ∧ d.toNat % 2 = 0) → Issues s g (tileUses (tagOf s a.toNat) [a.toNat, d.toNat]) →
    exec (.vmov g d a) s = .next (after s (expose (loneCtx 3 s) s 2 false false 0
      (if tagOf s a.toNat = 4 then [.tile d.toNat (getTile s a.toNat), .tile (d.toNat + 1) (getTile s (a.toNat + 1))]
        else [.tile d.toNat (getTile s a.toNat)]) s)))

/-- R24, R175, R178: `vcvt` between number tags: float to float rounds, float to integer saturates, integer to float rounds, and
integer to integer saturates with NV; `vdq` gives the exact values of QB blocks as binary32. -/
def Obligations.TileConversions : Prop :=
  ∀ (s : State) (g : BitVec 4) (d a : BitVec 5) (f : BitVec 4) (t : Nat), PlainTiles s t [a.toNat] →
    let r := f.toNat
    let rm := bits s.task.fpcsr 0 2
    let p := fun k => (readOpnd s a.toNat).elems.getD k 0
    let low := if tagSigned r = true then -(2 ^ (tagWidth r - 1) : Int) else 0
    let high := if tagSigned r = true then (2 ^ (tagWidth r - 1) - 1 : Int) else 2 ^ tagWidth r - 1
    let wrap := fun (v : Int) => (v % 2 ^ tagWidth r).toNat
    let pair := fun (x : Rounded) => (x.bits, x.flags)
    (isNumTag t = true → isNumTag r = true → GoodTile s r d.toNat →
      Issues s g (tileUses t [a.toNat] ++ tileUses r [d.toNat]) →
      TileLands (.vcvt g d a f) s d.toNat r 3 (fun k =>
        if isFloatTag t = true then
          if isFloatTag r = true then pair (fpConvert (tagFmt r) rm (fpDecode (tagFmt t) (p k)))
          else (wrap (fpToInt rm low high (fpDecode (tagFmt t) (p k))).1, (fpToInt rm low high (fpDecode (tagFmt t) (p k))).2)
        else if isFloatTag r = true then pair (fpFromInt (tagFmt r) rm (intOf t (p k)))
        else (wrap (max low (min high (intOf t (p k)))), if intOf t (p k) < low ∨ high < intOf t (p k) then flagNV else 0))) ∧
    (8 ≤ t → t ≤ 0xA → d.toNat < tileQuota s.task → Issues s g [.tile a.toNat, .tile d.toNat] →
      TileLands (.vdq g d a) s d.toNat 1 3 (fun k =>
        ((fpRound f32 0 (qbElem (readOpnd s a.toNat) (k / 16) (k % 16))).bits, 0)))

/-- R176, R177: `vmaxe` fills the scale latch exactly 3 bundle times after issue with one entry per row, and `vcvq` writes QB blocks
made with the latch as it stands at issue, and AMAX and FPCSR.SAT with them. -/
def Obligations.Quantisation : Prop :=
  ∀ (s : State) (g : BitVec 4) (d a : BitVec 5) (t : Nat), 1 ≤ t → t ≤ 3 → PlainTiles s t [a.toNat] → d.toNat < tileQuota s.task →
    Issues s g [.tile a.toNat, .tile d.toNat, .latch] →
    let row := fun i => (List.range 16).map fun j => fpDecode (tagFmt t) ((readOpnd s a.toNat).elems.getD (16 * i + j) 0)
    let all := (List.range 16).flatMap row
    let block := fun k i => roundQb k (smGet 0 s.task.slatch i).toNat (row i)
    let lands := fun (l : List Landing) => (Host.Outcome.next (after s (expose (loneCtx 3 s) s 3 false false 0 l s)) : Result)
    let quantised := fun (tag k : Nat) => lands [.tile d.toNat (mkTile tag Slots.identity false
      (((List.range 16).map (block k)).flatMap (qbRow k)).toArray),
      .quant (all.any Fp.isNan) (largestMag all) (((List.range 16).map (block k)).any (·.sat))]
    exec (.vmaxe g a) s = lands [.latch ((List.range 16).map fun i => BitVec.ofNat 8 (scaleEntry (row i)))] ∧
    exec (.vcvqQ3 g d a) s = quantised 8 2 ∧ exec (.vcvqQ5 g d a) s = quantised 9 4 ∧ exec (.vcvqQ8 g d a) s = quantised 0xA 7

/-- R179, R180, R132: the special functions on f32, f16 and bf16 tiles after 8 bundle times, the gated activations after 10, under
SFCM and FPCSR.RM. The functions' values are the model's `sfEval` and `gatedAct`. -/
def Obligations.SpecialFunctions : Prop :=
  ∀ (s : State) (g : BitVec 4) (d a b : BitVec 5) (t : Nat), 1 ≤ t → t ≤ 3 → PlainTiles s t [a.toNat, b.toNat] →
    d.toNat < tileQuota s.task → Issues s g [.tile a.toNat, .tile b.toNat, .tile d.toNat] →
    let f := tagFmt t
    let rm := bits s.task.fpcsr 0 2
    let old := s.task.sfcm.getLsbD 0
    let x := fun k => fpDecode f ((readOpnd s a.toNat).elems.getD k 0)
    let y := fun k => fpDecode f ((readOpnd s b.toNat).elems.getD k 0)
    let pair := fun (r : Rounded) => (r.bits, r.flags)
    (∀ i fn, (i, fn) ∈ [(Instr.vexp2 g d a, Sf.exp2), (.vlog2 g d a, .log2), (.vrcp g d a, .rcp), (.vrsqrt g d a, .rsqrt),
        (.vsqrt g d a, .sqrt), (.vtanh g d a, .tanh), (.vsigm g d a, .sigmoid), (.vsilu g d a, .silu), (.vgelu g d a, .gelu),
        (.verf g d a, .erf)] → TileLands i s d.toNat t 8 (fun k => pair (sfEval fn old f rm (x k)))) ∧
    (∀ i act, (i, act) ∈ [(Instr.vgactSilu g d a b, Act.silu), (.vgactGelu g d a b, .gelu), (.vgactSigm g d a b, .sigm),
        (.vgactRelu g d a b, .relu)] → TileLands i s d.toNat t 10 (fun k => pair (gatedAct act old f rm (x k) (y k))))

/-- R181: on a gate core the fused bias, activation and scale takes the bias from rim K and the scale from rim K + 1, by column,
and lands after 12 bundle times; the pair is written back with the result. -/
def Obligations.BiasActivationScale : Prop :=
  ∀ (s : State) (g : BitVec 4) (d a : BitVec 5) (k : BitVec 6) (t : Nat), 1 ≤ t → t ≤ 3 → isGate s.active = true →
    PlainTiles s t [a.toNat] → d.toNat < tileQuota s.task → ReadyRims s [k.toNat, k.toNat + 1] →
    Issues s g [.tile a.toNat, .tile d.toNat, .rim k.toNat, .rim (k.toNat + 1)] →
    let f := tagFmt t
    let col := fun (r j : Nat) => fpDecode f32 (smGet 0 (getRim s r).vals j).toNat
    let value := fun (act : Act) (e : Nat) => vbasElem act (s.task.sfcm.getLsbD 0) f (bits s.task.fpcsr 0 2)
      (fpDecode f ((readOpnd s a.toNat).elems.getD e 0)) (col k.toNat (e % 16)) (col (k.toNat + 1) (e % 16))
    ∀ i act, (i, act) ∈ [(Instr.vbas g d a k, Act.none), (.vbasSilu g d a k, .silu), (.vbasGelu g d a k, .gelu),
        (.vbasSigm g d a k, .sigm), (.vbasRelu g d a k, .relu)] →
      ∃ (e : Array Nat) (x : Flags), (∀ n, n < 256 → e.getD n 0 = (value act n).1) ∧
        exec i s = .next (after s (expose (loneCtx 3 s) s 12 false false x
          [.tile d.toNat (mkTile t Slots.identity false e), .rim k.toNat (getRim s k.toNat).vals,
            .rim (k.toNat + 1) (getRim s (k.toNat + 1)).vals] s))

/-- R183, R184, R192, R193: movement after 6 bundle times, broadcasts after 2, retagging and zeroing after 1, on tiles without
factors. -/
def Obligations.MovementAndBroadcast : Prop :=
  ∀ (s : State) (g : BitVec 4) (d a b : BitVec 5) (n : BitVec 4) (c : BitVec 6) (t : Nat), isNumTag t = true →
    PlainTiles s t [a.toNat] → GoodTile s t d.toNat →
    let p := fun k => (readOpnd s a.toNat).elems.getD k 0
    (Issues s g (tileUses t [a.toNat, d.toNat]) →
      TileLands (.vxpose g d a) s d.toNat t 6 (fun k => (p (k % 16 * 16 + k / 16), 0)) ∧
      TileLands (.vxrot g d a n) s d.toNat t 6 (fun k => (p ((k / 16 + n.toNat) % 16 * 16 + k % 16), 0)) ∧
      TileLands (.vxbrow g d a n) s d.toNat t 6 (fun k => (p (n.toNat * 16 + k % 16), 0))) ∧
    (Issues s g (tileUses t [a.toNat, d.toNat] ++ [.tile b.toNat]) → b.toNat < tileQuota s.task →
      (tagOf s b.toNat = 5 ∨ tagOf s b.toNat = 6) →
      TileLands (.vperm g d a b) s d.toNat t 6 (fun k => (p ((containers (getTile s b.toNat)).getD k 0 % 256), 0))) ∧
    (Issues s g (tileUses t [a.toNat] ++ [.sreg c.toNat]) →
      TileLands (.vbcast g c a) s a.toNat t 2 (fun _ => ((getS s c).toNat % 2 ^ tagWidth t, 0))) ∧
    (Issues s g (tileUses t [a.toNat] ++ [.rim c.toNat]) → isFloatTag t = true → ReadyRims s [c.toNat] →
      let v := fun e => (smGet 0 (getRim s c.toNat).vals e).toNat
      let into := fun e => if t = 1 then (v e, 0)
        else ((fpConvert (tagFmt t) (bits s.task.fpcsr 0 2) (fpDecode f32 (v e))).bits,
          (fpConvert (tagFmt t) (bits s.task.fpcsr 0 2) (fpDecode f32 (v e))).flags)
      TileLands (.vbrow g a c) s a.toNat t 2 (fun k => into (k % 16)) ∧
      TileLands (.vbcol g a c) s a.toNat t 2 (fun k => into (k / 16))) ∧
    (Issues s g (tileUses t [a.toNat]) →
      exec (.vzero g a) s = .next (after s (expose (loneCtx 3 s) s 1 false false 0
        ((if t = 4 then [a.toNat, a.toNat + 1] else [a.toNat]).map fun m => .tile m ⟨BitVec.ofNat 4 t, Slots.identity, false, []⟩) s))) ∧
    (n ≠ 4 → t ≠ 4 → Issues s g [.tile a.toNat, .tile d.toNat] → (getTile s a.toNat).ovp = false →
      exec (.vtag g d a n) s = .next (after s (expose (loneCtx 3 s) s 1 false false 0
        [.tile d.toNat ⟨n, Slots.identity, false, (getTile s a.toNat).data⟩] s)))

/-- R155, R187, R190: binding and unbinding a factor slot after 1 bundle time, and inspecting a tile, which gives its state word (R156).

R161, R162, R189: resolving a tile without factors changes nothing; a factored one, without OVP and with its rims READY, is replaced by
its resolved elements, with identity slots, under the flags that resolving them raises.

R164, R165, R166: a factored operand passes through `vmul` where the other has no factor and it has no shift: its slots go to
the result and nothing is resolved; `vfma` resolves it and works on the resolved elements, which FRCNT counts, and under FPCSR.FRT the
resolve is a FORCED_RESOLVE trap in place of the result. -/
def Obligations.Factors : Prop :=
  (∀ (s : State) (g : BitVec 4) (a : BitVec 5) (k d : BitVec 6) (sel : BitVec 4) (m : BitVec 2), a.toNat < tileQuota s.task →
     (Issues s g [.tile a.toNat, .tile (a.toNat + 1)] →
       (1 ≤ tagOf s a.toNat → tagOf s a.toNat ≤ 4 → (tagOf s a.toNat = 4 → a.toNat % 2 = 0) → k.toNat < rimQuota s.task →
         exec (.kbind g a k sel) s = .next (after s (expose (loneCtx 3 s) s 1 false false 0
           [.slotCode a.toNat sel.toNat (k.setWidth 7)] s))) ∧
       ((tagOf s a.toNat = 4 → a.toNat % 2 = 0) → exec (.kunbind g a sel) s = .next (after s (expose (loneCtx 3 s) s 1 false false 0
         [.slotCode a.toNat sel.toNat 0x7F] s))) ∧
       ((getTile s a.toNat).slots = Slots.identity → (tagOf s a.toNat = 4 → a.toNat % 2 = 0) →
         exec (.tres g a) s = .next (after s s) ∧ exec (.tresPart g a m) s = .next (after s s))) ∧
     (Issues s g [.tile a.toNat, .tile (a.toNat + 1), .sreg d.toNat] →
       let t := getTile s a.toNat
       let busy := s.task.inflight.any fun e => e.results.any fun r => match r with
         | .tile n _ => n == a.toNat
         | .slotCode n _ _ => n == a.toNat
         | _ => false
       exec (.tstat g d a) s = .next (after s (setS s d (word (t.tag.toNat + t.slots.rsh.toNat * 2 ^ 4 + t.slots.rsc.toNat * 2 ^ 11
         + t.slots.csh.toNat * 2 ^ 18 + t.slots.csc.toNat * 2 ^ 25 + (if t.ovp = true then 2 ^ 32 else 0)
         + (if busy = true then 2 ^ 33 else 0))))))) ∧
  (∀ (s : State) (g : BitVec 4) (d a b : BitVec 5) (t : Nat), 1 ≤ t → t ≤ 3 → PlainTiles s t [b.toNat, d.toNat] →
     a.toNat < tileQuota s.task → tagOf s a.toNat = t → (getTile s a.toNat).slots ≠ Slots.identity →
     (getTile s a.toNat).slots.rsh = 0x7F → (getTile s a.toNat).slots.csh = 0x7F →
     Issues s g (tileUses t [a.toNat, b.toNat, d.toNat]) →
     (∃ (e : Array Nat) (ovp : Bool) (x : Flags), exec (.vmul g d a b) s = .next (after s (expose (loneCtx 3 s) s 4 false false x
         [.tile d.toNat (mkTile t (getTile s a.toNat).slots ovp e)] s)) ∧
       (∀ k, k < 256 → e.getD k 0 = (fpMulR (tagFmt t) (bits s.task.fpcsr 0 2)
         (fpDecode (tagFmt t) ((readOpnd s a.toNat).elems.getD k 0)) (fpDecode (tagFmt t) ((readOpnd s b.toNat).elems.getD k 0))).bits)) ∧
     ((∀ c ∈ [(getTile s a.toNat).slots.rsc, (getTile s a.toNat).slots.csc], c ≠ 0x7F → (getRim s c.toNat).state = .ready) →
       let fma := fun k => fpFma (tagFmt t) (bits s.task.fpcsr 0 2) (fpDecode (tagFmt t) (resolvedElem s a.toNat t k).1)
         (fpDecode (tagFmt t) ((readOpnd s b.toNat).elems.getD k 0)) (fpDecode (tagFmt t) ((readOpnd s d.toNat).elems.getD k 0))
       ∃ (e : Array Nat) (x : Flags), exec (.vfma g d a b) s = .next (after s (countForced true
         (expose (loneCtx 3 s) s 4 true (getTile s a.toNat).ovp x [.tile d.toNat (mkTile t Slots.identity false e)] s))) ∧
         (∀ k, k < 256 → e.getD k 0 = (fma k).bits) ∧
         ∀ n, x.getLsbD n = true ↔ ∃ k, k < 256 ∧ (((resolvedElem s a.toNat t k).2 ||| (fma k).flags).getLsbD n = true)) ∧
     (∀ (r : Exposed) (u : State), r.forced = true → bits u.task.fpcsr 14 1 = 1 →
       landResult r u =
         let x := detect { u with task := { u.task with inflight := u.task.inflight.erase r } } ⟨causeForced, 0, r.slot, r.pc, []⟩
         { x with task := (x.task.takeReads r.pc r.slot).2 })) ∧
  (∀ (s : State) (g : BitVec 4) (d : BitVec 5) (t : Nat), 1 ≤ t → t ≤ 4 → GoodTile s t d.toNat → tagOf s d.toNat = t →
     (getTile s d.toNat).slots ≠ Slots.identity → (getTile s d.toNat).ovp = false → FactorsReady s d.toNat →
     Issues s g (tileUses t [d.toNat]) →
     ∃ (e : Array Nat) (x : Flags), e.size = 256 ∧ (∀ k, k < 256 → e.getD k 0 = (resolvedElem s d.toNat t k).1) ∧
       (∀ n, x.getLsbD n = true ↔ ∃ k, k < 256 ∧ (resolvedElem s d.toNat t k).2.getLsbD n = true) ∧
       exec (.tres g d) s = .next (after s (fpOutcome s 3 x (fun u =>
         (resultTiles d.toNat t Slots.identity false e).foldl (fun u w => setTile u w.1 w.2) u) s)))

/-- R158, R182: a reduction makes its rim PENDING at once and owes the 16 values, row by row or column by column, with what the rim
held before, to which a trap takes it back. -/
def Obligations.Reductions : Prop :=
  ∀ (s : State) (g : BitVec 4) (a : BitVec 5) (k : BitVec 6) (t : Nat), isNumTag t = true → PlainTiles s t [a.toNat] →
    ReadyRims s [k.toNat] → Issues s g (tileUses t [a.toNat] ++ [.rim k.toNat]) →
    let o := readOpnd s a.toNat
    let rm := bits s.task.fpcsr 0 2
    let sum := fun (l : List Fp) => ((roundWith f32 rm (fpSum rm l)).bits, (roundWith f32 rm (fpSum rm l)).flags)
    let sq := fun (l : List Fp) => l.map fun x => (fpMul x x).1
    ∀ i fn value, (i, fn, value) ∈ ([(.vrsum g a k, 0, fun n => sum (rowValues o n)),
        (.vrmax g a k, 1, fun n => extremeRound true rm (rowValues o n)),
        (.vrmin g a k, 2, fun n => extremeRound false rm (rowValues o n)),
        (.vrsumsq g a k, 3, fun n => ((sum (sq (rowValues o n))).1, (sum (sq (rowValues o n))).2 ||| signalFlag (rowValues o n))),
        (.vcsum g a k, 4, fun n => sum (colValues o n)),
        (.vcmax g a k, 5, fun n => extremeRound true rm (colValues o n))] : List (Instr × Nat × (Nat → Nat × Flags))) →
      ∃ (v : SMap (BitVec 32)) (x : Flags) (u : State), exec i s = .next (after s u) ∧
        (getRim u k.toNat).state = .pending fn s.task.bt.toNat ∧ (getRim u k.toNat).vals = (getRim s k.toNat).vals ∧
        u.task.owed = s.task.owed ++ [⟨s.nextOwed + 1, s.task.pc, 3, false, false, .fixed 0, false,
          .reduction k.toNat v (getRim s k.toNat).vals x false false⟩] ∧
        u.mem = s.mem ∧ SameScalars s u [] [] ∧ (∀ e, e < 16 → smGet 0 v e = BitVec.ofNat 32 (value e).1)

/-- R185, R186, R188, R191: rim arithmetic on READY rims lands after 3 bundle times; `kset` takes a row or column of a tile; `kpend`
makes a rim PENDING on an external producer, and `kwait` on a READY rim only goes on. -/
def Obligations.RimArithmetic : Prop :=
  ∀ (s : State) (g : BitVec 4) (d a b : BitVec 6), ReadyRims s [d.toNat, a.toNat, b.toNat] →
    Issues s g [.rim d.toNat, .rim a.toNat, .rim b.toNat] →
    let rm := bits s.task.fpcsr 0 2
    let old := s.task.sfcm.getLsbD 0
    let v := fun (k : BitVec 6) (e : Nat) => (smGet 0 (getRim s k.toNat).vals e).toNat
    let x := fun e => fpDecode f32 (v a e)
    let y := fun e => fpDecode f32 (v b e)
    let pair := fun (r : Rounded) => (r.bits, r.flags)
    RimLands (.kadd g d a b) s d.toNat (fun e => pair (fpAdd f32 rm (x e) (y e))) ∧
    RimLands (.kmul g d a b) s d.toNat (fun e => pair (fpMulR f32 rm (x e) (y e))) ∧
    RimLands (.kmax g d a b) s d.toNat (fun e => pair (fpMinMax f32 true (v a e) (v b e))) ∧
    RimLands (.krcp g d a) s d.toNat (fun e => pair (sfEval .rcp old f32 rm (x e))) ∧
    RimLands (.krsqrt g d a) s d.toNat (fun e => pair (sfEval .rsqrt old f32 rm (x e))) ∧
    RimLands (.kneg g d a) s d.toNat (fun e =>
      if (x e).isNan = true then (defaultNan f32, signalFlag [x e]) else ((fpRound f32 0 (x e).negate).bits, 0)) ∧
    RimLands (.kmov g d a) s d.toNat (fun e => (v a e, 0)) ∧
    exec (.kwait g a) s = .next (after s s) ∧
    exec (.kpend g d) s = .next (after s { s with task := { s.task with
      rims := smSet Rim.initial s.task.rims d.toNat ⟨.pending 6 s.task.bt.toNat, (getRim s d.toNat).vals⟩ } }) ∧
    (ReadyRims s [d.toNat + 1, a.toNat + 1, b.toNat + 1] → Issues s g [.rim d.toNat, .rim (d.toNat + 1), .rim a.toNat,
        .rim (a.toNat + 1), .rim b.toNat, .rim (b.toNat + 1)] →
      let lane := fun e => lseLane rm (v a e) (smGet 0 (getRim s (a.toNat + 1)).vals e).toNat (v b e)
        (smGet 0 (getRim s (b.toNat + 1)).vals e).toNat
      ∃ m l x, exec (.klse g d a b) s = .next (after s (expose (loneCtx 3 s) s 3 false false x
          [.rim d.toNat m, .rim (d.toNat + 1) l] s)) ∧
        ∀ e, e < 16 → smGet 0 m e = BitVec.ofNat 32 (lane e).1 ∧ smGet 0 l e = BitVec.ofNat 32 (lane e).2.1) ∧
    (∀ (c : BitVec 5) (n : BitVec 4) (t : Nat), isNumTag t = true → PlainTiles s t [c.toNat] →
      Issues s g (tileUses t [c.toNat] ++ [.rim d.toNat]) →
      let pick := fun (q : Nat) => fpConvert f32 rm (elemValue t ((readOpnd s c.toNat).elems.getD q 0))
      RimLands (.ksetRow g c d n) s d.toNat (fun e => pair (pick (16 * n.toNat + e))) ∧
      RimLands (.ksetCol g c d n) s d.toNat (fun e => pair (pick (16 * e + n.toNat))))

/-! ## The matrix engine -/

/-- R198, R199, R205, R212: the products on operands, and an accumulator, without factor codes: every element is the sum, in groups
rounded to binary128 under RNE, of the products of its A row and B column, on top of the accumulator or from zero, with
the A row of tap mode, zero beyond its span, and the B layout that the form names. MFMT.DR becomes 0, and tap mode steps its
offsets (R213).

R216: where an operand or the accumulator that it reads holds an uncorrectable error it writes neither accumulator nor offset, and the
error is consumed with the PC of the bundle. -/
def Obligations.MatrixProducts : Prop :=
  ∀ (s : State) (g : BitVec 4) (d : BitVec 3) (a b : BitVec 6) (zero tap bt : Bool) (i : Instr),
    (i, zero, tap, bt) ∈ ([(.mma g d a b, false, false, false), (.mmz g d a b, true, false, false),
      (.mmaTap g d a b, false, true, false), (.mmzTap g d a b, true, true, false), (.mmaBt g d a b, false, false, true),
      (.mmzBt g d a b, true, false, true), (.mmaTapBt g d a b, false, true, true), (.mmzTapBt g d a b, true, true, true)]
      : List (Instr × Bool × Bool × Bool)) →
    Issues s g (.acc d.toNat :: if tap = true then (List.range 8).map .ofs else []) → s.task.owed = [] →
    d.toNat < accQuota s.task → slotMapped s b.toNat = true → (∀ o ∈ aSlots s.task tap a.toNat, slotMapped s o = true ∧
      (operand s o).fmt.toNat = bits s.task.mfmt 4 4) →
    (operand s b.toNat).fmt.toNat = bits s.task.mfmt 0 4 → (bt = false → isQbTag (bits s.task.mfmt 0 4) = false) →
    (operand s a.toNat).codes = Slots.identity → (operand s b.toNat).codes = Slots.identity →
    (getAcc s d.toNat).rsc = 0x7F → (getAcc s d.toNat).csc = 0x7F →
    let bad := aBad s tap a.toNat || bBad s bt b.toNat || (!zero && !(getAcc s d.toNat).bad.isEmpty)
    (bad = true → exec i s = .next (after s (consumeError (clearDr s) 5 s.task.pc s.task.pc []))) ∧
    (bad = false →
    let x := aOpnd s tap a.toNat
    let y := bOpnd s bt b.toNat
    ∃ v : Acc, v.rsc = 0x7F ∧ v.csc = 0x7F ∧ v.clr = false ∧
      (∀ e, e < 256 → smGet 0 v.vals e = BitVec.ofNat 128 (mmaElem (extentOf x.fmt y.fmt) (groupOf x.fmt y.fmt) zero
        (fun k => if x.inside (e / 16) = true then x.elem (e / 16) k else .zero) (fun k => y.elem k (e % 16)) (accElem (getAcc s d.toNat) e))) ∧
      exec i s = .next (after s (let u := clearDr (setAcc s d.toNat v)
        if tap = true then { u with task := stepTap u.task 4 0 } else u)))

/-- R207 to R210: zeroing, resolving, scaling, reading and writing accumulators without codes and without uncorrectable errors; reading and
writing raise the flags of their 256 conversions. -/
def Obligations.Accumulators : Prop :=
  ∀ (s : State) (g : BitVec 4) (d e : BitVec 3) (k : BitVec 6) (t : BitVec 5) (f : BitVec 4),
    d.toNat < accQuota s.task → e.toNat < accQuota s.task →
    let rm := bits s.task.fpcsr 0 2
    let x := getAcc s d.toNat
    let y := getAcc s e.toNat
    let put := fun (v : Acc) => (Host.Outcome.next (after s (clearDr (setAcc s d.toNat v))) : Result)
    (Issues s g [.acc d.toNat] → exec (.mzero g d) s = put Acc.initial) ∧
    (Issues s g [.acc d.toNat] → x.rsc = 0x7F → x.csc = 0x7F → x.bad = [] → exec (.mres g d) s = put x) ∧
    (Issues s g [.acc d.toNat, .rim k.toNat] → ReadyRims s [k.toNat] → x.clr = false → x.rsc = y.rsc → x.csc = y.csc → x.bad = [] → y.bad = [] →
      ∃ v : Acc, exec (.msacc g d e k) s = put v ∧ v.rsc = y.rsc ∧ v.csc = y.csc ∧ v.clr = false ∧
        ∀ n, n < 256 → smGet 0 v.vals n = BitVec.ofNat 128 (fpFma f128 0
          (fpDecode f32 (smGet 0 (getRim s k.toNat).vals (n / 16)).toNat) (accElem y n) (accElem x n)).bits) ∧
    (isNumTag f.toNat = true → x.rsc = 0x7F → x.csc = 0x7F → x.bad = [] → GoodTile s f.toNat t.toNat →
      Issues s g (tileUses f.toNat [t.toNat]) →
      let float := fun n => fpRound (tagFmt f.toNat) rm (accElem x n)
      let int := fun n => fpToInt rm (intMin f.toNat) (intMax f.toNat) (accElem x n)
      ∃ (v : Array Nat) (z : Flags), v.size = 256 ∧
        (∀ n, n < 256 → v.getD n 0 = if isFloatTag f.toNat = true then (float n).bits else wrapInt f.toNat (int n).1) ∧
        (∀ b, z.getLsbD b = true ↔ ∃ n, n < 256 ∧
          (if isFloatTag f.toNat = true then (float n).flags else (int n).2).getLsbD b = true) ∧
        exec (.mrd g d t f) s = .next (after s (fpOutcome s 5 z (fun u =>
          (resultTiles t.toNat f.toNat Slots.identity false v).foldl (fun u w => setTile u w.1 w.2) u) (clearDr s)))) ∧
    (isNumTag f.toNat = true ∨ isQbTag f.toNat = true → PlainTiles s f.toNat [t.toNat] →
      Issues s g (tileUses f.toNat [t.toNat] ++ [.acc d.toNat]) →
      let wide := fun n => fpConvert f128 0 (if isQbTag f.toNat = true then qbElem (readOpnd s t.toNat) (n / 16) (n % 16)
        else elemValue f.toNat ((readOpnd s t.toNat).elems.getD n 0))
      ∃ (v : Acc) (z : Flags), exec (.mwr g d t f) s = .next (after s (fpOutcome s 5 z (fun u => setAcc u d.toNat v) (clearDr s))) ∧
        v.rsc = 0x7F ∧ v.csc = 0x7F ∧ v.clr = false ∧ v.bad = [] ∧
        (∀ n, n < 256 → smGet 0 v.vals n = BitVec.ofNat 128 (wide n).bits) ∧
        ∀ b, z.getLsbD b = true ↔ ∃ n, n < 256 ∧ (wide n).flags.getLsbD b = true)

/-- R195, R199, R200, R214: draining, choosing formats (MATRIX_BUSY while not drained), claiming the lowest free operand number on
the lowest free slot, releasing one, and writing a tap register. -/
def Obligations.MatrixControl : Prop :=
  ∀ (s : State) (g : BitVec 4) (a b : BitVec 4) (r o : BitVec 6), s.task.owed = [] → Issues s g [.sreg r.toNat, .ofs o.toNat] →
    (∃ w : Word, exec (.mdrain g) s = .next (after s { s with task := { s.task with mfmt := w } }) ∧
      w.getLsbD 8 = true ∧ ∀ q, q ≠ 8 → w.getLsbD q = s.task.mfmt.getLsbD q) ∧
    (s.task.mfmt.getLsbD 8 = true → exec (.mfmt g a b) s = .next (after s { s with task := { s.task with
      mfmt := word (0x100 + a.toNat * 16 + b.toNat) } })) ∧
    (s.task.mfmt.getLsbD 8 = false → exec (.mfmt g a b) s = .next (issueTrap causeMatrixBusy 0 5 0 s)) ∧
    (∀ n p, n < 64 → p < 64 → mapped s n = none → (∀ m, m < n → (mapped s m).isSome = true) →
      (getOSlot s p).claimed = false → (∀ q, q < p → (getOSlot s q).claimed = true) →
      exec (.oclaim g r) s = .next (after s (setS { setOSlot s p ⟨true, 0, Slots.identity, [], []⟩ with
        task := { s.task with omap := smPut s.task.omap n p } } r (word n)))) ∧
    ((∀ n, n < 64 → (mapped s n).isSome = true) ∨ (∀ p, p < 64 → (getOSlot s p).claimed = true) →
      exec (.oclaim g r) s = .next (after s (setS s r (BitVec.allOnes 64)))) ∧
    (∀ p, mapped s o.toNat = some p → exec (.orel g o) s = .next (after s
      { setOSlot s p { getOSlot s p with claimed := false } with
        task := { s.task with omap := smErase s.task.omap o.toNat } })) ∧
    (o.toNat < 4 → exec (.mofs g r o) s = .next (after s { s with task := { s.task with
      ofs := smSet 0 s.task.ofs o.toNat (getS s r &&& if o = 0 then 0x033F07FF else 0xFF) } })) ∧
    (4 ≤ o.toNat → o.toNat < 8 → exec (.mofs g r o) s = .next (after s { s with task := { s.task with
      ofstep := smSet 0 s.task.ofstep (o.toNat - 4) (getS s r &&& 0xFFFFFF) } }))

/-! ## Memory -/

/-- R94, R97, R220, R224: loads from the own scratchpad read at the read point and land 3 bundle times after it, a rim load 4, with
the extension that the form names. -/
def Obligations.OwnLoads : Prop :=
  ∀ (s : State) (g : BitVec 4) (d a : BitVec 6) (imm : BitVec 10), Accesses s g [.sreg a.toNat, .sreg d.toNat, .rim d.toNat] →
    let at' := fun (size : Nat) => getS s a + BitVec.ofInt 64 (imm.toInt * size)
    let lands := fun (lat : Nat) (l : Landing) =>
      (Host.Outcome.next (after s (expose (loneCtx 6 s) s lat false false 0 [l] s)) : Result)
    (∀ i size signed, (i, size, signed) ∈ [(Instr.ldI8 g d a imm, 1, true), (.ldN8 g d a imm, 1, false),
        (.ldI16 g d a imm, 2, true), (.ldN16 g d a imm, 2, false), (.ldI32 g d a imm, 4, true), (.ldN32 g d a imm, 4, false),
        (.ld64 g d a imm, 8, false)] →
      ∀ off, OwnPlain s (at' size) size off → (at' size).toNat % size = 0 →
      let n := leNat (ownAt s off size)
      let v : Word := if signed = true ∧ 2 ^ (8 * size - 1) ≤ n then BitVec.ofInt 64 ((n : Int) - 2 ^ (8 * size)) else word n
      exec i s = lands 3 (.scalar d v)) ∧
    (∀ off, OwnPlain s (at' 64) 64 off → (at' 64).toNat % 64 = 0 → ReadyRims s [d.toNat] →
      ∃ v : SMap (BitVec 32), exec (.kld g d a imm) s = lands 4 (.rim d.toNat v) ∧
        ∀ e, e < 16 → smGet 0 v e = BitVec.ofNat 32 (leNat (ownAt s (off + 4 * e) 4)))

/-- R94, R219, R220, R224: stores to the own scratchpad perform one bundle time after the read point with the low bytes of the
register, little-endian; `st.128` stores the pair, and `kst` a rim. -/
def Obligations.OwnStores : Prop :=
  ∀ (s : State) (g : BitVec 4) (d a : BitVec 6) (imm : BitVec 10), Accesses s g [.sreg a.toNat, .sreg d.toNat, .sreg (d.toNat + 1),
      .rim d.toNat] →
    let at' := fun (size : Nat) => getS s a + BitVec.ofInt 64 (imm.toInt * size)
    let performs := fun (size : Nat) (b : List Byte) =>
      (Host.Outcome.next (after s (expose (loneCtx 6 s) s 1 false false 0 [.store (at' size) b] s)) : Result)
    let low := fun (r : BitVec 6) (size : Nat) => leBytes size (getS s r).toNat
    (∀ i size b, (i, size, b) ∈ [(Instr.st8 g d a imm, 1, low d 1), (.st16 g d a imm, 2, low d 2), (.st32 g d a imm, 4, low d 4),
        (.st64 g d a imm, 8, low d 8), (.st128 g d a imm, 16, low d 8 ++ low (d + 1) 8)] →
      ∀ off, OwnFree s (at' size) size off → (at' size).toNat % size = 0 → phaseStore s (at' size) = .ok →
        exec i s = performs size b) ∧
    (∀ off, OwnFree s (at' 64) 64 off → (at' 64).toNat % 64 = 0 → phaseStore s (at' 64) = .ok → ReadyRims s [d.toNat] →
      exec (.kst g d a imm) s = performs 64 ((List.range 16).flatMap fun e =>
        leBytes 4 (smGet 0 (getRim s d.toNat).vals e).toNat))

/-- R219, R235: when the store of a lone bundle to the own scratchpad performs, its bytes stand at its offset, every other byte of
memory is as before, and no register changes. -/
def Obligations.StoreLands : Prop :=
  ∀ (s : State) (e : Exposed) (va : Word) (b : List Byte) (off : Nat), s.core.run.isSome = true →
    dueResult s.task = some e → e.results = [.store va b] → e.flags = 0 → e.forced = false → e.ovpHit = false →
    OwnFree s va b.length off →
    ∃ t, exec .exposedResultLands s = .next t ∧ t.task.inflight = s.task.inflight.erase e ∧
      SameOutside s t (Place.scratch s.active off).key b.length ∧
      (∀ n, n < b.length → memByte t.mem ((Place.scratch s.active off).key + n) = b.getD n 0) ∧
      SameScalars s t [] [] ∧ SameVector s t ∧ SameSystem s t ∧ t.task.pc = s.task.pc

/-- R220, R221, R224, R289, R290, R292, R293, R311, R337, R374, R392: a load, store, tile or rim access, atomic, SC operation, multicast,
`st.tc` or page operation of a misaligned address traps ALIGNMENT with the address: of the rows of a tile the first such one. -/
def Obligations.Misaligned : Prop :=
  ∀ (s : State) (g : BitVec 4) (d a b : BitVec 6) (imm : BitVec 10) (w : BitVec 1) (sc : BitVec 3),
    Accesses s g [.sreg a.toNat, .sreg b.toNat, .sreg d.toNat, .sreg (d.toNat + 1), .sreg (b.toNat + 1)] →
    let at' := fun (size : Nat) => getS s a + BitVec.ofInt 64 (imm.toInt * size)
    let traps := fun (i : Instr) (va : Word) => exec i s = .next (issueTrap causeAlignment 0 6 va s)
    let width := if w = 1 then 4 else 8
    (∀ i size, (i, size) ∈ [(Instr.ldI16 g d a imm, 2), (.ldN16 g d a imm, 2), (.ldI32 g d a imm, 4), (.ldN32 g d a imm, 4),
        (.ld64 g d a imm, 8), (.st16 g d a imm, 2), (.st32 g d a imm, 4), (.st64 g d a imm, 8), (.st128 g d a imm, 16)] →
      (at' size).toNat % size ≠ 0 → traps i (at' size)) ∧
    (∀ i size, (i, size) ∈ [(Instr.ldAcq32 g d a sc, 4), (.ldAcq64 g d a sc, 8), (.stRel32 g d a sc, 4), (.stRel64 g d a sc, 8),
        (.amoAdd g d a b w sc, width), (.amoAnd g d a b w sc, width), (.amoOr g d a b w sc, width), (.amoXor g d a b w sc, width),
        (.amoMinI g d a b w sc, width), (.amoMinN g d a b w sc, width), (.amoMaxI g d a b w sc, width),
        (.amoMaxN g d a b w sc, width), (.amoFaddF32 g d a b sc, 4), (.amoSwap g d a b w sc, width), (.cas g d a b w sc, width), (.cas128 g d a b sc, 16),
        (.ldSc g d a w, width), (.stSc g d a w, width), (.amoSc g d a b w, width), (.mcst g d a b w, width),
        (.mcstSeq g d a b w, width), (.stTc g d a b w, width), (.pcommit g a, 65536), (.pfree g a, 65536), (.pin g a, 65536), (.unpin g a, 65536)] →
      (getS s a).toNat % size ≠ 0 → traps i (getS s a)) ∧
    (∀ i ∈ [Instr.kld g d a imm, .kst g d a imm], Accesses s g [.sreg a.toNat, .rim d.toNat] → d.toNat < rimQuota s.task →
      (at' 64).toNat % 64 ≠ 0 → traps i (at' 64)) ∧
    (∀ (t : BitVec 5) (f : BitVec 4) (n : Nat), Accesses s g [.sreg a.toNat, .sreg b.toNat, .tile t.toNat, .tile (t.toNat + 1)] →
      let row := fun (q : Nat) => getS s a + word q * getS s b
      n < 16 → (∀ q, q < n → (row q).toNat % 64 = 0) → (row n).toNat % 64 ≠ 0 →
      let fits := fun (tag : Nat) => (tag = 4 → t.toNat % 2 = 0) ∧ ∀ m ∈ (if tag = 4 then [t.toNat, t.toNat + 1] else [t.toNat]),
        m < tileQuota s.task
      (fits f.toNat → traps (.tld g t a b f) (row n)) ∧ (t.toNat < tileQuota s.task → traps (.tldRaw g t a b) (row n)) ∧
      (fits (tagOf s t.toNat) → traps (.tst g t a b) (row n) ∧ traps (.tstRaw g t a b) (row n)))

/-- R96, R218: an access that is aligned, outside a phase, not to the own scratchpad or a window, and not held back by a release,
issues once as the interlocked access that its form is.

R218, R232, R300, R366: a load of the module's own device memory that nothing else holds gives the bytes at the address's place, extended as
its form says, and a store of it leaves its bytes there and every other byte as the translation left it. -/
def Obligations.InterlockedAccesses : Prop :=
  ∀ (s : State) (g : BitVec 4) (d a b : BitVec 6) (imm : BitVec 10) (w : BitVec 1) (sc : BitVec 3),
    Accesses s g [.sreg a.toNat, .sreg b.toNat, .sreg (b.toNat + 1), .sreg d.toNat, .sreg (d.toNat + 1)] →
    phaseOpen s.task = false → s.task.owed = [] → StoresLanded s →
    let va := getS s a
    let at' := fun (size : Nat) => va + BitVec.ofInt 64 (imm.toInt * size)
    let narrow := w == 1
    let width := if w = 1 then 4 else 8
    let issues := fun (i : Instr) (x : Access) (block : Bool) => exec i s = .next (after s (accessed s x a.toNat block))
    let low := fun (r : BitVec 6) (size : Nat) => leBytes size (getS s r).toNat
    (∀ i size signed, (i, size, signed) ∈ [(Instr.ldI8 g d a imm, 1, true), (.ldN8 g d a imm, 1, false),
        (.ldI16 g d a imm, 2, true), (.ldN16 g d a imm, 2, false), (.ldI32 g d a imm, 4, true), (.ldN32 g d a imm, 4, false),
        (.ld64 g d a imm, 8, false)] →
      (at' size).toNat % size = 0 → Elsewhere s (at' size) → issues i (.load (at' size) size signed d) true) ∧
    (∀ i size x, (i, size, x) ∈ [(Instr.st8 g d a imm, 1, low d 1), (.st16 g d a imm, 2, low d 2), (.st32 g d a imm, 4, low d 4),
        (.st64 g d a imm, 8, low d 8), (.st128 g d a imm, 16, low d 8 ++ low (d + 1) 8)] →
      (at' size).toNat % size = 0 → Elsewhere s (at' size) → issues i (.store (at' size) x) false) ∧
    (va.toNat % 4 = 0 → Elsewhere s va → issues (.ldAcq32 g d a sc) (.load va 4 false d) true ∧
      issues (.stRel32 g d a sc) (.store va (low d 4)) false) ∧
    (va.toNat % 8 = 0 → Elsewhere s va → issues (.ldAcq64 g d a sc) (.load va 8 false d) true ∧
      issues (.stRel64 g d a sc) (.store va (low d 8)) false) ∧
    (va.toNat % width = 0 →
      (∀ i op, (i, op) ∈ [(Instr.amoAdd g d a b w sc, 0), (.amoAnd g d a b w sc, 1), (.amoOr g d a b w sc, 2),
          (.amoXor g d a b w sc, 3), (.amoMinI g d a b w sc, 4), (.amoMinN g d a b w sc, 5), (.amoMaxI g d a b w sc, 6),
          (.amoMaxN g d a b w sc, 7), (.amoSwap g d a b w sc, 8)] → issues i (.amo op narrow va (getS s b) d) true) ∧
      issues (.cas g d a b w sc) (.cas narrow va (getS s d) (getS s b) d) true ∧
      issues (.ldSc g d a w) (.scLoad va narrow d) false ∧ issues (.stSc g d a w) (.scStore va narrow (getS s d)) false ∧
      issues (.amoSc g d a b w) (.scAdd va narrow (getS s b) d) false ∧
      issues (.mcst g d a b w) (.multicast (getS s b) va narrow (getS s d) false) false ∧
      issues (.mcstSeq g d a b w) (.multicast (getS s b) va narrow (getS s d) true) false ∧
      (Elsewhere s va → issues (.stTc g d a b w) (.storeThenRaise va (low d width) (getS s b)) false)) ∧
    (va.toNat % 4 = 0 → issues (.amoFaddF32 g d a b sc) (.amo 9 true va (getS s b) d) true) ∧
    (va.toNat % 16 = 0 → issues (.cas128 g d a b sc) (.cas128 va (getS s d) (getS s (d + 1)) (getS s b) (getS s (b + 1)) d) true) ∧
    (va.toNat % 65536 = 0 → issues (.pcommit g a) (.pageOp 0 va) true ∧ issues (.pfree g a) (.pageOp 1 va) true ∧
      issues (.pin g a) (.pageOp 2 va) true ∧ issues (.unpin g a) (.pageOp 3 va) true) ∧
    issues (.tcadd g a b) (.counterAdd va (getS s b)) false ∧ issues (.tcread g d a) (.counterRead va d) true ∧
    issues (.tcancel g a) (.cancel va) false ∧
    (va.toNat % 128 = 0 → (getS s b).toNat % 128 = 0 →
      issues (.swb g a b) (.writeBack va (getS s b)) false ∧ issues (.sinv g a b) (.invalidate va (getS s b)) false) ∧
    (s.task.inflight = [] →
      (∀ i at'' size signed, (i, at'', size, signed) ∈ [(Instr.ldI8 g d a imm, at' 1, 1, true), (.ldN8 g d a imm, at' 1, 1, false),
          (.ldI16 g d a imm, at' 2, 2, true), (.ldN16 g d a imm, at' 2, 2, false), (.ldI32 g d a imm, at' 4, 4, true),
          (.ldN32 g d a imm, at' 4, 4, false), (.ld64 g d a imm, at' 8, 8, false), (.ldAcq32 g d a sc, va, 4, false),
          (.ldAcq64 g d a sc, va, 8, false)] →
        at''.toNat % size = 0 → bits at'' 62 2 = 0 → Elsewhere s at'' → (Access.load at'' size signed d).queued s (s.nextOwed + 1) = false →
        ∀ (t : Target) (u : State), translate (Agent.ofCore s.active) .read at'' s = .ok t u → AtHomeOnly u t.key size →
          rangePoisoned u t.key size = false →
          let n := leNat (memBytes u.mem t.key size)
          exec i s = .next (after s (setS u d
            (if signed = true ∧ 2 ^ (8 * size - 1) ≤ n then BitVec.ofInt 64 ((n : Int) - 2 ^ (8 * size)) else word n)))) ∧
      (∀ i at'' size x, (i, at'', size, x) ∈ [(Instr.st8 g d a imm, at' 1, 1, low d 1), (.st16 g d a imm, at' 2, 2, low d 2),
          (.st32 g d a imm, at' 4, 4, low d 4), (.st64 g d a imm, at' 8, 8, low d 8),
          (.st128 g d a imm, at' 16, 16, low d 8 ++ low (d + 1) 8), (.stRel32 g d a sc, va, 4, low d 4), (.stRel64 g d a sc, va, 8, low d 8)] →
        at''.toNat % size = 0 → bits at'' 62 2 = 0 → Elsewhere s at'' → (Access.store at'' x).queued s (s.nextOwed + 1) = false →
        ∀ (t : Target) (u : State), translate (Agent.ofCore s.active) .write at'' s = .ok t u → AtHomeOnly u t.key size →
          ∃ v : State, exec i s = .next (after s v) ∧ memBytes v.mem t.key size = x ∧ SameOutside u v t.key size ∧
            SameScalars u v [] [] ∧ SameVector u v))

/-- R222 to R224, R218: a rim, a tile or a raw tile to and from memory outside the own scratchpad: one access for all 16 rows; a store of which a row is
found to fault at once stores no byte. -/
def Obligations.TileAccesses : Prop :=
  ∀ (s : State) (g : BitVec 4) (d : BitVec 5) (k a b : BitVec 6) (f : BitVec 4) (imm : BitVec 10) (t : Nat), phaseOpen s.task = false →
    Accesses s g (tileUses f.toNat [d.toNat] ++ tileUses t [d.toNat] ++ [.sreg a.toNat, .sreg b.toNat, .rim k.toNat]) →
    d.toNat < tileQuota s.task → d.toNat % 2 = 0 → (getTile s d.toNat).slots = Slots.identity → tagOf s d.toNat = t →
    let rows := (List.range 16).map fun i => getS s a + word i * getS s b
    let last := getS s a + 16 * getS s b
    let line := getS s a + BitVec.ofInt 64 (imm.toInt * 64)
    let halves := fun (n : Nat) => rows.flatMap fun v => if n = 4 then [v, v + 64] else [v]
    let bytes := fun (c : List (List Byte)) => rows.zip c
    let pieces := fun (r : List (Word × List Byte)) => r.flatMap fun p => rowStores p.1 p.2
    let stores := fun (i : Instr) (r : List (Word × List Byte)) =>
      ((∀ x u, probePieces (pieces r) s ≠ .fault x u) →
        exec i s = .next (after s (accessed s (.storeRows (pieces r)) a.toNat false))) ∧
      (∀ x u, probePieces (pieces r) s = .fault x u →
        exec i s = .next (after s (detectAccess u 6 s.task.pc x (laneOf s.task a.toNat) (.storeRows (pieces r)))))
    (∀ v ∈ rows, v.toNat % 64 = 0) →
    ((∀ v ∈ halves f.toNat, Elsewhere s v) →
      exec (.tld g d a b f) s = .next (after s (accessed s (.loadTile d.toNat f rows Slots.identity false []) a.toNat true))) ∧
    ((∀ v ∈ halves t, Elsewhere s v) → stores (.tst g d a b) (bytes (opndRows (readOpnd s d.toNat)))) ∧
    ((∀ v ∈ halves t ++ [last], Elsewhere s v) → stores (.tstRaw g d a b)
      (bytes (rawRows s d.toNat) ++ [(last, leBytes 8 (stateWordOf (getTile s d.toNat) false).toNat)])) ∧
    (s.task.stateWord = none → Elsewhere s last →
      exec (.tldRaw g d a b) s = .next (freezeStep (.access 6 (laneOf s.task a.toNat) (.stateWord last)) s)) ∧
    (∀ w, s.task.stateWord = some (last, w) → stateWordCheck s d.toNat w = .ok →
      (∀ v ∈ halves (stateTag w), Elsewhere s v) → Issues s g (tileUses (stateTag w) [d.toNat]) →
      exec (.tldRaw g d a b) s = .next (after s (accessed s
        (.loadTile d.toNat (BitVec.ofNat 4 (stateTag w)) rows (stateSlots w) (bits w 32 1 == 1) []) a.toNat true))) ∧
    (k.toNat < rimQuota s.task → (getRim s k.toNat).state = .ready → line.toNat % 64 = 0 → Elsewhere s line →
      exec (.kld g k a imm) s = .next (after s (accessed s (.loadRim k.toNat line) a.toNat true)) ∧
      exec (.kst g k a imm) s = .next (after s (accessed s (.store line (rimBytes (getRim s k.toNat).vals)) a.toNat false)))

/-- R287, R288: with no interlocked access outstanding a fence, `drain.far` and, with its channels empty, `drain.cp` and
`drain.all` only go on. A copy on the channel freezes `drain.cp`, one on any channel `drain.all`, and an outstanding access
every fence that releases and `drain.all`: one tick passes and nothing else changes. -/
def Obligations.DrainsAndFences : Prop :=
  ∀ (s : State) (g : BitVec 4) (n z : BitVec 2), Issues s g [] →
    let goesOn := fun (i : Instr) => exec i s = .next (after s s)
    let freezes := fun (i : Instr) => exec i s = .next { s with tick := s.tick + 1 }
    (s.task.owed = [] →
      (∀ i ∈ [Instr.drainFar g, .fenceAcq g z, .fenceRel g z, .fenceFull g z, .fenceAcqPool g, .fenceRelPool g, .fenceFullPool g],
        goesOn i) ∧
      (channelOf s s.active n.toNat = [] → goesOn (.drainCp g n)) ∧
      ((∀ k, k < 4 → channelOf s s.active k = []) → goesOn (.drainAll g))) ∧
    (channelOf s s.active n.toNat ≠ [] → freezes (.drainCp g n) ∧ freezes (.drainAll g)) ∧
    (∀ o a k m, o ∈ s.task.owed → o.kind = .access a k m →
      ∀ i ∈ [Instr.fenceRel g z, .fenceFull g z, .fenceRelPool g, .fenceFullPool g, .drainAll g], freezes i)

/-- R225, R226, R227, R228, R233, R234, R285, R286, R390, R395: `cp`, `cpq`, `tpost`, `smap`, `sunmap` and `oload` issue as the
accesses that they are, a `cpq` with its packet where that lies in the own scratchpad; `tcset` takes the lowest free counter of the
die and gives s[D] its name, and traps TRIGGER_EXHAUSTED where none is free; `cp` on a channel that holds 8 copies freezes; `pf` of a
line that is there, or of no window, or that is on its way out, has no effect, and of another line starts its fill. A misaligned address
of `oload`, `cp`, `cpq`, `tpost`, `swb` or `sinv` traps ALIGNMENT. -/
def Obligations.QueuesWindowsCounters : Prop :=
  ∀ (s : State) (g : BitVec 4) (d a b : BitVec 6) (n : BitVec 4) (ch : BitVec 2) (f : BitVec 4) (imm : BitVec 10),
    Accesses s g [.sreg a.toNat, .sreg b.toNat, .sreg (b.toNat + 1), .sreg d.toNat] → phaseOpen s.task = false → s.task.owed = [] →
    let va := getS s a
    let w := getS s b
    let len := getS s (b + 1)
    let line := va + BitVec.ofInt 64 (imm.toInt * 128)
    let die := dieOf s.active
    let issues := fun (i : Instr) (x : Access) (base : Nat) (block : Bool) => exec i s = .next (after s (accessed s x base block))
    let misaligned := fun (i : Instr) (at' : Word) => exec i s = .next (issueTrap causeAlignment 0 6 at' s)
    let plain := fun (v : Word) => ∀ off, ownSpot s v ≠ some (.window off)
    let even := fun (v : Word) => v.toNat % 2 ^ 16 = 0
    let apart := fun (p q : Nat) (e : Nat) (m : Nat) => p + q ≤ e ∨ e + m ≤ p
    (∀ i, i < 4096 → (getCounter s die i).live = false → (∀ j, j < i → (getCounter s die j).live = true) →
      exec (.tcset g d a) s = .next (after s (setS (setCounter s die i
          { getCounter s die i with live := true, value := va, launch := s.task.launchId }) d
        (word (i + die * 2 ^ 12 + s.moduleId.toNat * 2 ^ 16 + (getCounter s die i).gen.toNat * 2 ^ 24))))) ∧
    ((∀ j, j < 4096 → (getCounter s die j).live = true) → exec (.tcset g d a) s = .next (issueTrap causeTrigger 0 6 0 s)) ∧
    (va.toNat % 64 = 0 → plain va →
      (((getDie s die).posted.filter fun e => e.2.used).length < 16384 →
        issues (.tpost g d a) (.readDescriptor va d) a.toNat false) ∧
      ((channelOf s s.active ch.toNat).length < 8 → issues (.cp g a ch) (.readPacket va ch.toNat) a.toNat false) ∧
      (8 ≤ (channelOf s s.active ch.toNat).length → exec (.cp g a ch) s = .next { s with tick := s.tick + 1 })) ∧
    (va.toNat % 128 = 0 → w.toNat % 64 = 0 →
      (plain w → (Elsewhere s w ∨ bits va 62 2 ≠ 0) → issues (.cpq g a b) (.cpq va w []) a.toNat true) ∧
      (∀ off, OwnPlain s w 64 off → bits va 62 2 = 0 → issues (.cpq g a b) (.cpq va w [ownAt s off 64]) a.toNat true)) ∧
    (even va → even w → even len → len ≠ 0 → va.toNat + len.toNat ≤ 2 ^ 20 → w.toNat < 2 ^ 63 →
      (∀ e ∈ validWindows s.core, e.1 ≠ n.toNat → apart va.toNat len.toNat (winOff e.2) (winLen e.2) ∧
        apart w.toNat len.toNat (winVa e.2) (winLen e.2)) →
      issues (.smap g n a b) (.remap n.toNat (word (w.toNat + va.toNat / 2 ^ 16 * 2 ^ 12 + len.toNat / 2 ^ 16 * 2 ^ 7 + 1)))
        b.toNat false) ∧
    issues (.sunmap g n) (.unmap n.toNat) 0 false ∧
    (∀ p, mapped s (getS s d).toNat = some p → bits w 61 1 = 0 → (bits w 32 1 = 1 → isQbTag f.toNat = false) → va.toNat % 16 = 0 →
      bits w 0 32 % 16 = 0 → (∀ q ∈ oloadPieces f va w, Elsewhere s q.1 ∨ ∃ off, OwnPlain s q.1 q.2 off) →
      issues (.oload g d a b f) (.loadSlot (getS s d).toNat p f va w []) a.toNat false) ∧
    ((mapped s (getS s d).toNat).isSome = true → bits w 61 1 = 0 → (bits w 32 1 = 1 → isQbTag f.toNat = false) →
      va.toNat % 16 ≠ 0 ∨ bits w 0 32 % 16 ≠ 0 → misaligned (.oload g d a b f) va) ∧
    (va.toNat % 64 ≠ 0 → misaligned (.cp g a ch) va ∧ misaligned (.tpost g d a) va) ∧
    (va.toNat % 128 ≠ 0 → misaligned (.cpq g a b) va) ∧
    (va.toNat % 128 = 0 → w.toNat % 64 ≠ 0 → misaligned (.cpq g a b) w) ∧
    (va.toNat % 128 ≠ 0 ∨ w.toNat % 128 ≠ 0 → misaligned (.swb g a b) va ∧ misaligned (.sinv g a b) va) ∧
    (plain line → exec (.pf g a imm) s = .next (after s s)) ∧
    (∀ off, ownSpot s line = some (.window off) →
      ((smFind s.core.lines (off / 128)).isSome = true → exec (.pf g a imm) s = .next (after s s)) ∧
      (smFind s.core.lines (off / 128) = none →
        (lineAsked s.core (off / 128) = true → exec (.pf g a imm) s = .next (after s s)) ∧
        (lineAsked s.core (off / 128) = false →
          exec (.pf g a imm) s = .next (after s (startFill (laneOf s.task a.toNat) s ⟨off / 128, false, false, none, none⟩)))))

/-- R290, R292, R293, R376, R391, R393: what an atomic on the own scratchpad does when it performs: the new value at the address, the
old one in s[D] (sign-extended for a 32-bit signed minimum or maximum), nothing else, but that a debugger's watch of the bytes
stops the core (R88), and so it does where a compare and swap stores nothing (the model's choice, log 70); a compare and swap stores
only where the old value is the expected one; a counter add saturates and tests
the counter's operations, and a counter read gives its value. -/
def Obligations.AtomicsAndCounters : Prop :=
  ∀ (s : State) (va x y : Word) (d : BitVec 6) (off base : Nat) (block narrow : Bool),
    let n := if narrow = true then 4 else 8
    let low := fun (v : Word) => v.toNat % 2 ^ (8 * n)
    let key := (Place.scratch s.active off).key
    let old := leNat (memBytes s.mem key n)
    let signed := fun (v : Nat) => if 2 ^ (8 * n - 1) ≤ v then (v : Int) - 2 ^ (8 * n) else (v : Int)
    let puts := fun (v : Nat) (r : Word) => setS { s with mem := memStore s.mem key (leBytes n v) } d r
    let does := fun (x : Access) (t : State) => accessed s x base block = watched x s t
    (spaceOf s (some (clusterOf s.active)) (some s.active) va = .scratch s.active off → windowAtOff s.core off = none →
      sectorBad s.core off n = false → behindOwed s s.task.owed [(va, n)] = false →
      let wide : Word := if narrow = true then BitVec.ofInt 64 (signed old) else word old
      (∀ op new, (op, new) ∈ [(0, (old + low x) % 2 ^ (8 * n)), (1, old &&& low x), (2, old ||| low x), (3, old ^^^ low x),
          (5, min old (low x)), (7, max old (low x)), (8, low x)] →
        does (.amo op narrow va x d) (puts new (word old))) ∧
      does (.amo 4 narrow va x d) (puts (if signed (low x) < signed old then low x else old) wide) ∧
      does (.amo 6 narrow va x d) (puts (if signed old < signed (low x) then low x else old) wide) ∧
      (narrow = true → does (.amo 9 narrow va x d) (puts (fpAdd f32 0 (fpDecode f32 old) (fpDecode f32 (low x))).bits (word old))) ∧
      does (.cas narrow va x y d) (if old = low x then puts (low y) (word old) else setS s d (word old))) ∧
    (∀ e i, nameFate s va = .live e i →
      let c := getCounter s e i
      accessed s (.counterRead va d) base block = setS s d c.value ∧
      (armedOn s e i = [] → accessed s (.counterAdd va x) base block =
        setCounter s e i { c with value := word (min (c.value.toNat + x.toNat) (2 ^ 64 - 1)) })) ∧
    (nameFate s va = .stale → ∃ t, accessed s (.counterRead va d) base block = t ∧ t.mem = s.mem ∧
      (t.task.detected.getLast?.map fun z => (z.cause, z.detail)) = some (causeTranslation, 10))

/-- R300, R304, R306: a translation of device memory of the own module that finds its leaf by a walk: the checks of the leaf in
their order, then the place; a walk that finds no leaf faults TRANSLATION with the level's detail. A page that holds tables is HC
whatever the leaf says of it. No other module holds a line, and the MTLB keeps no table entry, so that the walk reads the tables in
memory. -/
def Obligations.LeafChecks : Prop :=
  ∀ (s : State) (a : Agent) (u : Use) (va : Word) (d off root : Nat), a.space s va = .device d off → (getDie s d).online = true →
    (Translator.die d (portOf s a d)).root s = .ok root → tlbFind (mtlb s d (portOf s a d)) off = none →
    tablePaths s d (portOf s a d) = [] → s.holders = [] →
    (∀ x, walk s d root off = .fail x → ∃ t, translate a u va s = .fault ⟨causeTranslation, x, va⟩ t ∧ t.mem = s.mem) ∧
    (∀ page size e pa, walk s d root off = .leaf page size e pa → leafMig e = 0 →
      let fault := fun (c : BitVec 8) (x : BitVec 16) => ∃ t, translate a u va s = .fault ⟨c, x, va⟩ t
      let bad := leafMalformed size e = true
      let past := leafLoc e = false ∧ leafCommit e = true ∧ dieBytes s d < leafFrame e + size
      let asks := u = .commit ∨ u = .probe
      (bad → fault causeTranslation 0x14) ∧
      (¬ bad → past → fault causeTranslation 0x15) ∧
      (¬ bad → ¬ past → leafCommit e = false → ¬ asks → fault causeSparse 0) ∧
      (¬ bad → ¬ past → leafCommit e = true → u ∈ [Use.read, .pin] → leafR e = false → fault causePermission 1) ∧
      (¬ bad → ¬ past → leafCommit e = true →
        (leafW e = false ∧ u ∈ [Use.write, .commit, .atomic]) ∨ (leafR e = false ∧ u = .atomic) → fault causePermission 2) ∧
      (¬ bad → ¬ past → leafCommit e = true → leafR e = true → leafW e = true →
        (leafA e = true ∧ pageAttr s d e (off - page) = 2) ∨ (leafLoc e = true ∧ leafAttr e = 2) → u ≠ .probe →
        a.core ≠ some (leafOwner e) → fault causeAttribute 4) ∧
      (¬ bad → ¬ past → leafCommit e = true → leafR e = true → leafW e = true → leafLoc e = false →
        (pageAttr s d e (off - page) = 2 → u = .probe ∨ a.core = some (leafOwner e)) → leafA e = true → (leafD e = true ∨ ¬ (u = .write ∨ u = .atomic)) →
        ∃ g t, translate a u va s = .ok g t ∧ g.key = (Place.dram d (leafFrame e + (off - page))).key ∧
          g.attr = pageAttr s d e (off - page) ∧
          t.mem = s.mem))

/-! ## Encoding -/

/-- R52, R56 to R61: words written out from the encodings of the spec decode to the syllables they stand for, and words that break
an encoding are refused. -/
def Obligations.SpecWordsDecode : Prop :=
  decodeTableWord 32 0x040824A0 = some (.add 0 8 9 10) ∧
  decodeSyllable .scalar 0x240801EF (some 0x59E26AF3) = .ok (.li 0 8 0x16789ABCDEF) ∧
  decodeSyllable .control 0x14140000 none = .ok (.loopSt 0 20 0 0) ∧
  decodeSyllable .vector 0x24082847 none = .ok (.klse 0 8 10 4) ∧
  decodeSyllable .copy 0x680910A3 none = .ok (.amoAdd 0 9 4 10 0 3) ∧
  decodeSyllable .copy 0xD0002090 none = .ok (.tcadd 0 8 9) ∧
  decodeSyllable .scalar 0x00000001 none = .error .instruction ∧
  decodeSyllable .copy 0xD0002091 none = .error .encoding

/-- R43, R52, R56 to R61: the encoding of every well-formed syllable decodes to it, in its slot class and in a bundle of its own; and a
word that decodes, without LIMM, is the one encoding of the well-formed syllable that it decodes to. -/
def Obligations.DecodeEncode : Prop :=
  (∀ (i : Instr) (e : Encoded), wellFormed i = true → encode i = some e → decodeSyllable e.cls e.word e.ext = .ok i ∧
    decodeFull (match e.ext with
      | none => 7 + 2 ^ (4 + slotFor i) + e.word * 2 ^ (32 * slotFor i)
      | some x => 7 + 2 ^ 4 + 2 ^ 5 + e.word * 2 ^ 32 + x * 2 ^ 64) = .ok ⟨0, false, [⟨slotFor i, i⟩]⟩) ∧
  (∀ (c : SlotClass) (w : Nat) (i : Instr), w < 2 ^ 32 → decodeSyllable c w none = .ok i →
    wellFormed i = true ∧ encode i = some ⟨c, w, none⟩)

/-! ## The machine -/

/-- A step runs the decoded instruction (R41 to R43): at a boundary with nothing pending, where the 32 bytes of device memory at the
PC decode to the full bundle of one syllable that this mode and core admit, the step is that syllable's meaning, with nothing
beside it but what R236 keeps of the registers it wrote, and with the turn that the model's schedule gives the rest of the machine
after it (log 5). An SC operation that issues as the slot wheel stands at its core's position performs in that step (R336). -/
def Obligations.StepRunsDecoded : Prop :=
  ∀ (s s1 : State) (pos : Nat) (b : List Byte) (i : Instr) (x : SlotOp), AtBoundary s pos → s.task.latch = .empty →
    s.task.pc.toNat % 32 = 0 → fetchable s = true → agentRead (Agent.ofCore s.active) s.task.pc 32 s = .ok b s1 →
    leNat b % 8 = 7 → decodeFull (leNat b) = .ok ⟨0, false, [⟨slotFor i, i⟩]⟩ → opOf i = some x → decodeTrapOf s x = none →
    let l : State := { s1 with task := { s1.task with latch := .full ⟨0, false, [⟨slotFor i, i⟩]⟩ } }
    ∃ t u versions queue reads bad, exec i l = .next t ∧
      u = { t with task := { t.task with versions := versions, replayQueue := queue, issuedReads := reads, parityBad := bad } } ∧
      u = trackIssue .full [(slotFor i, x)] l t ∧ step s = afterIssue s (.next (wheelAtIssue l u))

/-- Every step keeps memory in its canonical form, from any state: addresses strictly rise and no byte is listed that an unlisted
address reads as. The form is the model's own (log 2), over the memories of R217, R342 and R398. -/
def Obligations.StepKeepsMemory : Prop :=
  ∀ (s t : State), MemoryOk s → step s = .next t → MemoryOk t

/-- R91, R226, R303, R352, R405: what reset leaves: the bundle-time counter 0, memory canonical, no window valid, translation disabled
on every die and in the pool, every pool region OFFLINE; and with what a root task of a launch starts. -/
def Obligations.ResetAndTaskStart : Prop :=
  (State.reset.tick = 0 ∧ MemoryOk State.reset ∧ State.reset.core.run = none ∧
    (∀ g n, smGet 0 (getCore State.reset g).smap n = 0) ∧ (∀ d, bits (getDie State.reset d).dtrootLive 0 1 = 0) ∧
    bits State.reset.poolrootLive 0 1 = 0 ∧ ∀ r, regionState State.reset r = 0) ∧
  (∀ (l : Launch) (i w tick : Nat),
    let t := rootTask l i w tick
    let reg := fun (n : Nat) => smGet 0 t.sregs n
    t.pc = l.entry ∧ t.supervisor = false ∧ t.repLeft = 0 ∧ t.skip = 0 ∧ t.bt = 0 ∧ t.weight = w ∧ t.tvec = l.tvec ∧
    reg 1 = word i ∧ (∀ k, k < 4 → reg (2 + k) = match l.footprints[k]? with
      | some f => word f.base
      | none => 0) ∧
    reg 6 = l.args ∧ reg 7 = word l.id.toNat ∧ (∀ n, n = 0 ∨ 8 ≤ n → reg n = 0) ∧ t.preds = 1 ∧
    (∀ n, smGet Tile.initial t.tiles n = Tile.initial) ∧ Tile.initial.tag = 0 ∧ Tile.initial.slots = Slots.identity ∧
    (∀ n, smGet Rim.initial t.rims n = Rim.initial) ∧ Rim.initial.state = .ready ∧ (∀ n, smGet Acc.initial t.accs n = Acc.initial) ∧
    t.omap = [] ∧ t.fpcsr = 0 ∧ t.amax = 0 ∧ t.slatch = [] ∧ t.frcnt = 0 ∧ t.discards = 0 ∧ t.mfmt = 0x111 ∧
    t.trapcause = 0 ∧ t.trappc = 0 ∧ t.trapva = 0 ∧ t.trapinfo = 0)

/-! ## Events of a core -/

/-- R43, R45, R47, R93, R94, R96, R231, R314, R336, R364: events of the issue stream, on a core that no debugger stops. An empty bundle
time of SKIP, before which what is due lands; a latched bundle of one syllable is that syllable's meaning, with what R236 keeps of its
results, and an SC operation of it performs at once where the slot wheel stands at its core's position; an empty one only goes on; a
reference issues its entry once, counts REPLEFT down and moves on at 0; a fetch or decode trap is taken; a due result lands in its scalar
register, tile or rim and nothing else changes; an owed reduction completes and its rim is READY; another module's answer to a load is
loaded; a fill that is no longer wanted, a prefetch of a page that is being moved, and a fill that has its line, are over. -/
def Obligations.IssueEvents : Prop :=
  ∀ (s : State) (pos : Nat), s.core.run = some pos →
    (0 < s.task.skip → s.core.stopped = false → s.breaks = [] → dueResult s.task = none → s.task.trapPending = false →
      s.task.ending = false → checkpointOwed s.task = false → ∃ t, exec .skip s = .next t ∧ t.tick = s.tick + 1 ∧ t.task = { s.task with
      bt := s.task.bt + 1, skip := s.task.skip - 1, sinceSp := s.task.sinceSp + 1, quantum := s.task.quantum + 1 } ∧ t.mem = s.mem) ∧
    (mayIssue s.task = true → s.task.replays = [] → overrun s.task = false → s.core.stopped = false → s.breaks = [] →
      (∀ i x, opOf i = some x → decodeTrapOf s x = none → s.task.parityBad = [] →
        s.task.latch = .full ⟨0, false, [⟨slotFor i, i⟩]⟩ →
        ∃ t, exec i s = .next t ∧ exec .fullBundle s = .next (wheelAtIssue s (trackIssue .full [(slotFor i, x)] s t))) ∧
      (copyWaits s = false → s.task.latch = .full ⟨0, false, []⟩ → exec .fullBundle s = .next (after s s)) ∧
      (∀ entry n last, copyWaits s = false → s.task.latch = .reference entry n last ⟨0, false, []⟩ → 1 ≤ n → n ≤ 128 →
        let left := if s.task.repLeft = 0 then word n else s.task.repLeft
        ∃ t, exec .reference s = .next t ∧ t.task.repLeft = left - 1 ∧ t.task.bt = s.task.bt + 1 ∧ t.mem = s.mem ∧
          t.task.pc = if left ≠ 1 then s.task.pc else if last = true then nextBlock s
            else word (s.task.pc.toNat / 32 * 32 + max 1 (s.task.pc.toNat % 32) + 1)) ∧
      (∀ c info d va, s.task.latch = .trap c info d va → exec .fullBundle s = .next (raiseTrap
        ⟨c, d, (info.extractLsb' 0 9).toNat, info.getLsbD 9, decide (c = causeParity), va, s.task.pc⟩ s))) ∧
    (∀ e, dueResult s.task = some e → e.flags = 0 → e.forced = false → e.ovpHit = false →
      let lands := fun (f : State → Prop) => ∃ t, exec .exposedResultLands s = .next t ∧ t.task.inflight = s.task.inflight.erase e ∧
        t.mem = s.mem ∧ SameSystem s t ∧ t.task.pc = s.task.pc ∧ t.task.fpcsr = s.task.fpcsr ∧ t.task.preds = s.task.preds ∧
        t.task.accs = s.task.accs ∧ f t
      (∀ (d : BitVec 6) v, e.results = [.scalar d v] → lands fun t =>
        (∀ n : BitVec 6, getS t n = if n = 0 then 0 else if n = d then v else getS s n) ∧ SameVector s t) ∧
      (∀ n x, e.results = [.tile n x] → lands fun t => (∀ m, getTile t m = if m = n then x else getTile s m) ∧
        t.task.rims = s.task.rims ∧ t.task.sregs = s.task.sregs) ∧
      (∀ k v, e.results = [.rim k v] → lands fun t => (∀ m, getRim t m = if m = k then ⟨.ready, v⟩ else getRim s m) ∧
        t.task.tiles = s.task.tiles ∧ t.task.sregs = s.task.sregs)) ∧
    (∀ id o, findOwed s id = some (s.active, pos, o) → o.held = false →
      (∀ k v old, o.kind = .reduction k v old 0 false false →
        ∃ t, exec (.interlockedCompletion id (.data [])) s = .next t ∧ getRim t k = ⟨.ready, v⟩ ∧ t.mem = s.mem) ∧
      (∀ va n d k target b, o.kind = .access (.load va n false d) k target → target ≠ s.moduleId.toNat →
        ∃ t, exec (.interlockedCompletion id (.data b)) s = .next t ∧ t.mem = s.mem ∧
          ∀ r : BitVec 6, getS t r = if r = 0 then 0 else if r = d then word (leNat (b.take n)) else getS s r)) ∧
    (∀ core f r, nextFill (getCore s core) = some f → admittedBy s (fun d => d.filling.contains (core, f.line)) = none →
      (fillWanted (getCore s core) f = false → exec (.stashFill core r) s = .next (endFill s core f)) ∧
      (f.demand = false → pageMoves s core (lineVa (getCore s core) f.line) = true →
        exec (.stashFill core r) s = .next (endFill s core f)) ∧
      (∀ g s0 s1, fillWanted (getCore s core) f = true → f.upgrade = false →
        f.demand = true ∨ pageMoves s core (lineVa (getCore s core) f.line) = false →
        queuedBehind s (s.nextOwed + 1) false [(lineVa (getCore s core) f.line, 128)] = false →
        translate (Agent.ofCore core) .read (lineVa (getCore s core) f.line) s = .ok g s0 → fillLine s core f.line = .ok () s1 →
        exec (.stashFill core r) s = .next (endFill s1 core f)))

/-- R87, R88, R101, R105, R108, R141, R241, R261, R265, R336: events of a waiting or interrupted task: entering the handler of a
detected trap; parking at a rim; the timeout of a wait and the wake-up of one; the end of a quantum; a pre-emption, at once or
asked for, and a restore; an SC load at its core's position of the wheel; a phase cancel, once the channels have room for its reruns,
and the fourth one; and the debugger's resume, stop and error. No event of a frame happens on a core that the debugger has stopped.

The model's choices here: log 28, that a restored task goes on with the wait that the scheduler has kept; log 65, that a pre-emption
which cannot be done now is remembered; log 70, when the debugger's resume is refused and which breakpoint it passes. -/
def Obligations.TaskEvents : Prop :=
  ∀ (s : State) (pos : Nat), s.core.run = some pos →
    (∀ c n slot va, slot < 8 → s.core.stopped = false → s.task.owed = [] → s.task.waits = [] → s.task.trapping = none →
      s.task.detected = [⟨c, n, slot, va, []⟩] →
      dueResult s.task = none → s.task.tvec ≠ 0 → (s.task.supervisor = true → snapCount s.task = 0) →
      ∃ t, exec .trapEntry s = .next t ∧ t.task.trapcause = word (c.toNat + if s.task.supervisor = true then 0x100 else 0) ∧
        t.task.trappc = s.task.pc ∧ t.task.trapva = va ∧ t.task.supervisor = true ∧ t.task.pc = s.task.tvec ∧
        t.task.detected = [] ∧ t.mem = s.mem ∧ SameScalars s t [] [] ∧ SameVector s t) ∧
    (∀ since n (k : BitVec 6), s.core.stopped = false → s.task.rimWait = some since → since + 256 ≤ s.tick →
      s.task.latch = .full ⟨n, true, [⟨3, .kwait 0 k⟩]⟩ → s.task.inflight = [] → snapCount s.task = 0 → k.toNat < rimQuota s.task →
      (getRim s k.toNat).state ≠ .ready →
      exec .rimWaitPark s = .next (switchFrame { s with task := { s.task with
        rimWait := none, latch := .empty, waits := s.task.waits ++ [⟨.rim k.toNat, none, s.tick, 0, s.task.pc, true⟩] } })) ∧
    (s.task.waits.any (Wait.expired s.tick) = true → ∃ t, exec (.waitTimeout s.active pos) s = .next t ∧
      getP t (1 : BitVec 4) = false ∧ t.task.waits = s.task.waits.filter (fun w => !w.expired s.tick) ∧ t.mem = s.mem ∧
      SameScalars s t [] [1]) ∧
    (∀ va value timeout reg dl since slot pc park off,
      s.task.waits = [⟨.word va 0 value timeout reg, dl, since, slot, pc, park⟩] → OwnPlain s va 8 off →
      word (leNat (ownAt s off 8)) = value → ∃ t, exec (.waitWakeup s.active pos) s = .next t ∧ getP t (1 : BitVec 4) = true ∧
        t.task.waits = [] ∧ t.mem = s.mem ∧ SameScalars s t [] [1]) ∧
    (s.core.stopped = false → atSafePoint s.task = true → s.task.waits = [] → 4096 ≤ s.task.quantum → exec .quantumExpiry s = .next (switchFrame s)) ∧
    (∀ core p t rec, getFrame s core p = some t → freeRecord (getCluster s (clusterOf core)) = some rec →
      (∀ s1, savable s core p t = true → saveFrame core p t rec s = .ok s1 → exec (.preemption core p) s = .next s1) ∧
      (savable s core p t = false → t.preemptReq = false →
        exec (.preemption core p) s = .next (updFrame s core p fun t => { t with preemptReq := true }))) ∧
    (∀ cl index x p l ok s1, (getCluster s cl).saved[index]? = some x → spotFor s x.core x.task true = some p →
      loadingFor s cl x.core x.task = false → classTurn s cl x.task = true →
      readRecord (Agent.ofDie (dieOf x.core)) x.record (recordLayout x (tasksOn s x.core).isEmpty) s = .ok (l, ok, s1) →
      ∃ t u, exec (.contextRestore cl index) s = .next t ∧ smFind (getCore t x.core).frames p.pos = some u ∧ u.pc = wordAt l 0 ∧
        u.repLeft = wordAt l 8 ∧ (∀ n, 0 < n → n < 64 → smGet 0 u.sregs n = wordAt l (0x100 + 8 * n)) ∧
        u.preds = BitVec.ofNat 16 (bits (wordAt l 0x58) 0 16) ∧ u.fpcsr = wordAt l 0x300 &&& 0xFF7F ∧
        u.mfmt = wordAt l 0x328 &&& 0x1FF ∧
        (∀ n, n < rimQuota x.task → smGet Rim.initial u.rims n = recordRim l n) ∧
        (∀ n, n < tileQuota x.task → smGet Tile.initial u.tiles n = recordTile l x.task n) ∧
        (∀ n, n < accQuota x.task → smGet Acc.initial u.accs n = recordAcc l x.task n) ∧
        u.tbase = p.tbase ∧ u.kbase = p.kbase ∧ u.abase = p.abase ∧ u.waits = x.task.waits ∧
        (getCluster t cl).saved = (getCluster s cl).saved.eraseIdx index) ∧
    (∀ slot reg order va d dl since sl pc park off, s.tick % 1024 = s.active → s.active < 768 → present s s.active = true →
      (getDie s (dieOf s.active)).online = true → s.task.owed = [] → s.task.inflight = [] →
      s.task.waits = [⟨.slotWheel [⟨slot, reg, order, .scLoad va false d⟩], dl, since, sl, pc, park⟩] → OwnPlain s va 8 off →
      ∃ t, exec .scPerform s = .next t ∧ t.task.waits = [] ∧ t.mem = s.mem ∧
        ∀ r : BitVec 6, getS t r = if r = 0 then 0 else if r = d then word (leNat (ownAt s off 8)) else getS s r) ∧
    (∀ at' c, s.core.stopped = false → s.task.cancel = some at' → s.task.checkpoint = some c → s.task.owed = [] → s.task.waits = [] →
      bits s.task.phasectl 26 2 = 3 ∨ rerunRoom s = true →
      ∃ t, exec .phaseCancel s = .next t ∧ t.task.sregs = c.sregs ∧ t.task.preds = c.preds ∧ t.task.pc = c.pc ∧
        t.task.repLeft = c.repLeft ∧ t.task.heldCopies = [] ∧ t.task.inflight = [] ∧ t.task.cancel = none ∧
        (s.core.eccBad = [] → s.core.eccOnce = [] → t.mem = s.mem) ∧
        (bits s.task.phasectl 26 2 = 3 → bits t.task.phasectl 25 1 = 0 ∧ t.task.detected = [⟨causeRepeat, 0, 0, at', []⟩]) ∧
        (bits s.task.phasectl 26 2 < 3 → bits t.task.phasectl 26 2 = bits s.task.phasectl 26 2 + 1 ∧ t.task.detected = [])) ∧
    (∀ core n, (getCore s core).stopped = true → onlyParked s core = false → n ≠ some 0 →
      exec (.debuggerResume core n) s = .next (updCore s core fun c =>
        { c with stopped := false, stepsLeft := n, passBreak := standsAt s core })) ∧
    (∃ t, exec .stopAll s = .next t ∧ t.mem = s.mem ∧ t.task = s.task ∧
      ∀ core, core < 768 → present s core = true → (getCore t core).stopped = true) ∧
    (∀ core offset, s.debugMode = true → present s core = true → ∃ t, exec (.injectEcc core offset) s = .next t ∧
      sectorBad (getCore t core) offset 1 = true ∧ t.mem = s.mem ∧ t.task = s.task)

/-! ## Events of a cluster and of copies -/

/-- R246, R247, R252, R255, R257, R259, R260, R262, R263, R266: a cluster's queue engine and scheduler. A void packet is passed over; an
accepted one without a footprint block becomes a launch with the whole weight; an instance is created with its weight, where none of
a higher class could be; a READY task is placed with its stack pointer; classes age; a frame is displaced; a launch that is whole again
leaves the table, once its status word is there; a complete hoop enters its next phase. -/
def Obligations.SchedulerEvents : Prop :=
  ∀ (s : State) (cl : Nat), (getDie s (cl / 4)).online = true →
    let k := getCluster s cl
    let aged := fun (t : Task) => t.prio - (s.tick - t.readySince) / 2 ^ 16
    (∀ q d ring b s1 s2, s.booted = true → k.fwHalted = false → k.launches.length < 256 → k.voids = [] →
      k.fwPending.any FirmwareOutput.left = false → takeLate s cl = false →
      nextQueue cl s = some (.ok (q, d, ring, b, s1)) →
      advanceRead (Agent.ofCluster cl) (cl / 4) d ring s1 = .ok s2 →
      let taken := updCluster s2 cl fun x => { x with rr := q + 1 }
      let h := packetField b 0 8
      (bits h 0 8 = 0 → exec (.packetTake cl) s = .next { taken with lastTake := some (s.tick, cl) }) ∧
      (bits h 0 8 = 1 → packetField b 0x20 8 = 0 → rejectCode taken cl b none = 0 → ∃ t l, exec (.packetTake cl) s = .next t ∧
        (getCluster t cl).launches = (getCluster taken cl).launches ++ [l] ∧ l.id = taken.nextLaunch ∧ l.hdr = h ∧
        l.entry = packetField b 0x08 8 ∧ l.args = packetField b 0x10 8 ∧ l.toCreate = (packetField b 0x18 4).toNat ∧
        l.done = packetField b 0x30 8 ∧ l.doneVal = packetField b 0x38 8 ∧ l.btab = packetField b 0x28 8 ∧ l.tvec = ring.tvec ∧
        l.st = .issuing ∧ l.share + l.reserve = 2 ^ 32)) ∧
    (∀ e l, k.launches[e]? = some l → l.st = .issuing → 0 < l.toCreate →
      let w := max 1 (l.share / l.toCreate)
      w ≤ l.share + l.reserve → placements s cl = [] → fittingCores s cl (rootTask l l.nextIndex w s.tick) ≠ [] →
      classTurn s cl (rootTask l l.nextIndex w s.tick) = true →
      (∀ x ∈ k.launches, creatable s cl x = true → bits l.hdr 22 2 ≤ bits x.hdr 22 2) →
      ∃ t, exec (.instanceCreation cl e) s = .next t ∧
        (getCluster t cl).ready = k.ready ++ [rootTask l l.nextIndex w s.tick] ∧
        (getCluster t cl).launches = k.launches.map fun x => if x.id = l.id then { x with
          share := x.share - min w x.share, reserve := x.reserve - (w - min w x.share), toCreate := x.toCreate - 1,
          nextIndex := x.nextIndex + 1, st := if x.toCreate = 1 then .running else .issuing } else x) ∧
    (∀ t g p rest, placements s cl = (t, g, p) :: rest → classTurn s cl t = true → tasksOn s g ≠ [] → ∃ u v, exec (.taskPlacement cl) s = .next u ∧
      smFind (getCore u g).frames p.pos = some v ∧ v.pc = t.pc ∧ v.weight = t.weight ∧ v.tbase = p.tbase ∧ v.kbase = p.kbase ∧
      v.abase = p.abase ∧ v.regionOff = p.region ∧ smGet 0 v.sregs 62 = sspOf p.region t.spad ∧
      (getCluster u cl).ready = k.ready.erase t) ∧
    (k.ready.any (fun t => t.effClass != aged t) = true → ∃ t, exec (.classAging cl) s = .next t ∧
        (getCluster t cl).ready = k.ready.map fun t => { t with effClass := aged t }) ∧
    (∀ t g pos v rec s1, k.ready = [t] → fittingCores s cl t = [] → victimOf (displaceable s cl t) = some (g, pos, v) →
      freeRecord (getCluster s (clusterOf g)) = some rec → savable s g pos v = true →
      saveFrame g pos v rec s = .ok s1 → exec (.frameDisplacement cl) s = .next s1) ∧
    (∀ e l s1, k.launches[e]? = some l → l.st ≠ .waiting → l.toCreate = 0 → l.reserve + l.share = 2 ^ 32 →
      finishLaunch cl l s = .ok s1 → exec (.launchComplete cl e) s = .next s1 ∧
        (wordPending s1 (cl / 4) l.statusVa = false → ∀ x ∈ (getCluster s1 cl).launches, x.id ≠ l.id ∧ l.id ∉ x.preds)) ∧
    (∀ h, (smGet Hoop.initial k.hoops h).due = true → ∃ t, exec (.hoopPhaseComplete cl h) s = .next t ∧
      (smGet Hoop.initial (getCluster t cl).hoops h).phase = (smGet Hoop.initial k.hoops h).phase + 1)

/-- R244, R246, R264, R269, R270, R278, R355: the cluster's firmware. The commands in split mode; a halted pair, and one whose
firmware has not passed its check, stays busy; a checkpoint, 2^16 ticks after the last one, releases what lockstep holds back; a mismatch
before it counts, and the third halts the pair. The model's choices here, both of log 26: a cycle of a control core counts as a package
tick, and a pair that answers nothing shows BUSY. -/
def Obligations.FirmwareEvents : Prop :=
  ∀ (s : State) (cl : Nat) (d a1 : Word),
    let k := getCluster s cl
    let args := updCluster s cl fun x => { x with arg0 := d }
    let ends := fun (f : Cluster → Cluster) => (Host.Outcome.next (updCluster args cl f) : Result)
    let foreign := ∀ e o, spaceOf s none none d ≠ .device e o
    (k.fwHalted = true ∨ s.booted = false → ∀ i ∈ [Instr.registerLaunchQueue cl d, .registerCopyQueue cl d, .unregisterQueue cl d],
      exec i s = ends fun x => { x with mbStatus := 1 }) ∧
    (k.fwHalted = false → s.booted = true → k.lockstep = false →
      (foreign → ∀ i ∈ [Instr.registerLaunchQueue cl d, .registerCopyQueue cl d], exec i s = ends fun x => { x with mbStatus := 2 }) ∧
      ((descriptorOk args cl d true).1 = true → k.knows d = false → k.fwPending = [] → k.launchQueues.length < 64 →
        ∃ t, exec (.registerLaunchQueue cl d) s = .next t ∧ (getCluster t cl).launchQueues = k.launchQueues ++ [⟨d⟩] ∧
          (getCluster t cl).mbStatus = 0) ∧
      (∀ q, (descriptorOk args cl d false).1 = true → k.knows d = false → k.fwPending = [] → k.copyQueues.length < 16 → q < 16 →
        smFind k.copyQueues q = none → (∀ p, p < q → (smFind k.copyQueues p).isSome = true) →
        ∃ t, exec (.registerCopyQueue cl d) s = .next t ∧ smFind (getCluster t cl).copyQueues q = some ⟨d⟩ ∧
          (getCluster t cl).mbStatus = 0) ∧
      (k.knows d = true → exec (.unregisterQueue cl d) s = ends fun x => { x with
        launchQueues := x.launchQueues.filter (fun q => q.descriptor != d),
        copyQueues := x.copyQueues.filter (fun q => q.2.descriptor != d), mbStatus := 0 }) ∧
      (k.knows d = false → exec (.unregisterQueue cl d) s = ends fun x => { x with mbStatus := 6 }) ∧
      (d.toNat % 65536 = 0 → ownMemory s d = true → ∃ t, exec (.setContextPool cl d a1) s = .next t ∧ (getCluster t cl).ctxBase = d ∧
        (getCluster t cl).ctxCount = a1.toNat ∧ (getCluster t cl).mbStatus = 0)) ∧
    (k.fwHalted = false → k.lockstep = true →
      (k.fwSince + 2 ^ 16 ≤ s.tick → (∀ status value done doneVal, .rejected status value done doneVal ∉ k.fwPending) →
        k.fwPending.any FirmwareOutput.left = false →
        ∃ t, exec (.firmwareCheckpoint cl) s = .next t ∧ (getCluster t cl).fwPending = [] ∧ (getCluster t cl).fwMismatch = 0 ∧
        (getCluster t cl).fwSince = s.tick / 2 ^ 16 * 2 ^ 16 ∧ (k.fwPending = [.launchQueue d] → (getCluster t cl).launchQueues = k.launchQueues ++ [⟨d⟩])) ∧
      (s.tick < k.fwSince + 2 ^ 16 → ∃ t, exec (.lockstepMismatch cl) s = .next t ∧
        (k.fwMismatch < 2 → (getCluster t cl).fwMismatch = k.fwMismatch + 1 ∧ (getCluster t cl).fwHalted = false) ∧
        (2 ≤ k.fwMismatch → (getCluster t cl).fwHalted = true ∧ (getCluster t cl).fwPending = k.fwPending.filter FirmwareOutput.left)))

/-- R249, R274, R275, R277, R278, R280, R283: copies. A packet that fails its checks moves nothing and has its ERR; a sound one moves its
payload sector by sector, and where no other module is asked, none is held and none faults, its words come next; a copy without DONE
and TRIG ends with its last byte; a copy queue's packet joins the queue's stream, a void one is passed over. That all of a payload's own
sectors move in one step, with the words as a stage after it, is the model's choice (log 49). -/
def Obligations.CopyEvents : Prop :=
  ∀ (s : State),
    (∀ x j rest, streamJobs s x = j :: rest → (getDie s (streamDie x)).online = true → j.posted = none →
      (j.stage = .fresh → j.check ≠ 0 → exec (.copyStart x) s = .next (setJobs s x ({ j with
        stage := .words, err := j.check, todo := [], awaiting := none, answer := none } :: rest))) ∧
      (∀ j1 s1, j.stage = .fresh → j.check = 0 → j.gather = false → j.awaiting = none →
        let moving : CopyJob := { j with stage := .moving, todo := j.plan }
        runSectors (copyAgent s x moving) j.plan moving s = (j1, .finished, s1) →
        exec (.copyStart x) s = .next (setJobs (clearCopied (copyAgent s x moving) moving s1) x
          ({ j1 with stage := .words, cache := [] } :: rest))) ∧
      (j.stage = .words → j.awaiting = none → j.done = 0 → bits j.hdr 25 1 = 0 → exec (.copyComplete x) s = .next (setJobs s x rest))) ∧
    (∀ j : CopyJob, bits j.hdr 0 8 ≠ 2 → j.check = 0x01) ∧
    (∀ cl q d ring b s1 s2, (getDie s (cl / 4)).online = true → nextCopyQueue cl s = some (.ok (q, d, ring, b, s1)) →
      advanceRead (Agent.ofCluster cl) (cl / 4) d ring s1 = .ok s2 →
      let taken := updCluster s2 cl fun x => { x with rrCopy := (q + 1) % 16 }
      (bits (packetField b 0 8) 0 8 = 0 → exec (.copyQueueTake cl) s = .next taken) ∧
      (bits (packetField b 0 8) 0 8 ≠ 0 → ∃ t j, exec (.copyQueueTake cl) s = .next t ∧
        smGet [] (getCluster t cl).queueJobs q = smGet [] (getCluster taken cl).queueJobs q ++ [j] ∧ j.packet = b ∧ j.stage = .fresh))

/-! ## Events of dies and of the pool -/

/-- R310, R312, R313, R341, R344, R345, R349, R377, R409, R410, R411: a die. A frame joins the free-frame pool zeroed; a page freed gives its
frame or its pool page back. A move of a committed page begins: its destination is taken, MIG is 1 and MIGSTAT busy, and nothing else in
memory changes; with no frame free it gives up. It ends: the bytes are at the new place, the entry names that place with MIG = 0, MIGSTAT
shows success and the old place is free; a page that has been pinned meanwhile stays, and the frame goes back. The sweep of the policy
clears A of a page with A = 1. A reset begins with the die offline and its move aborted, and its steps follow one another: what was
admitted done, lines asked back, work ended, the die empty and its scratchpads 0; with the clear request its memory is 0 too, and a failed
die answers that request alone. It comes back with every counter's generation advanced. A die that fails is offline; a link that fails is
down at both ends. The model's choices here: scratchpads read 0 after a reset (logs 2, 58), the steps are events (58), the oldest free
frame or page comes first (52), a move takes two events (37), a reclaimed pool page is kept from 2^60 on (33), and a die with both links
down has failed (59). -/
def Obligations.DieEvents : Prop :=
  ∀ (s : State) (d : Nat), d < 4 →
    let k := getDie s d
    let inFrame := fun (f key : Nat) => d * 2 ^ 48 + f ≤ key ∧ key < d * 2 ^ 48 + f + 65536
    let givesFrame := fun (i : Instr) (f : Nat) => ∃ t, exec i s = .next t ∧ (getDie t d).freeFrames = k.freeFrames ++ [f] ∧
      ∀ key, (inFrame f key → memByte t.mem key = 0) ∧ (¬ inFrame f key → memByte t.mem key = memByte s.mem key)
    let noLines := ∀ g, (getCore s g).lines = []
    let empty := fun (t : State) => (∀ g, dieOf g = d → (getCore t g).frames = [] ∧ (getCore t g).run = none) ∧
      (∀ cl, cl / 4 = d → (getCluster t cl).launches = [] ∧ (getCluster t cl).ready = [] ∧ (getCluster t cl).saved = []) ∧
      ∀ i, (getCounter t d i).live = false
    let wiped := fun (t : State) => empty t ∧ ∀ g off, dieOf g = d → off < 2 ^ 20 → memByte t.mem (Place.scratch g off).key = 0
    let cleared := fun (t : State) => wiped t ∧ (getDie t d).freeFrames = [] ∧ ∀ pa, pa < 2 ^ 48 → memByte t.mem (Place.dram d pa).key = 0
    (∀ frame : Word, (frame.toNat % 65536 = 0 ∧ frame.toNat + 65536 ≤ dieBytes s d → givesFrame (.freeFramePush d frame) frame.toNat) ∧
      (¬ (frame.toNat % 65536 = 0 ∧ frame.toNat + 65536 ≤ dieBytes s d) → exec (.freeFramePush d frame) s = .next s)) ∧
    (∀ page : Word, page.toNat % 65536 = 0 → page.toNat < 2 ^ 48 →
      exec (.poolPagePush d page) s = .next (updDie s d fun k => { k with poolPages := k.poolPages ++ [page.toNat] })) ∧
    (∀ f rest, k.reclaim = f :: rest → (f < 2 ^ 60 → givesFrame (.frameReclaim d) f) ∧
      (2 ^ 60 ≤ f → exec (.frameReclaim d) s = .next (updDie s d fun k => { k with
        reclaim := rest, poolPages := k.poolPages ++ [f - 2 ^ 60] }))) ∧
    (∀ off root base e pa, k.online = true → k.moving = none → noLines → s.holders = [] →
      spaceOf s none none (dieReg s d 0x200) = .device d off → (Translator.die d 7).root s = .ok root →
      walk s d root off = .leaf base (2 ^ 16) e pa → leafMalformed (2 ^ 16) e = false → leafCommit e = true → leafMig e = 0 →
      let old := leafFrame e
      let begins := fun (i : Instr) (kind target : Nat) (frames pages : List Nat) => ∃ t, exec i s = .next t ∧
        (getDie t d).moving = some ⟨kind, base, pa, target⟩ ∧ (getDie t d).migStat = 1 ∧ (getDie t d).freeFrames = frames ∧
        (getDie t d).poolPages = pages ∧ memBytes t.mem (Place.dram d pa).key 8 = leBytes 8 (setBits e 11 2 1).toNat ∧
        SameOutside s t (Place.dram d pa).key 8
      (∀ f rest, leafLoc e = false → old + 65536 ≤ dieBytes s d → k.freeFrames = f :: rest →
        begins (.migratePage d) 1 f rest k.poolPages) ∧
      (∀ p rest, leafLoc e = false → old + 65536 ≤ dieBytes s d → k.poolPages = p :: rest → regionServes s (p / 2 ^ 30) = true →
        begins (.evictPage d) 2 p k.freeFrames rest) ∧
      (∀ f rest, leafLoc e = true → regionServes s (old / 2 ^ 30) = true → k.freeFrames = f :: rest →
        begins (.fetchInPage d) 3 f rest k.poolPages) ∧
      (leafLoc e = false → old + 65536 ≤ dieBytes s d → k.freeFrames = [] →
        exec (.migratePage d) s = .next (updDie s d fun k => { k with moving := none, migStat := 2 }))) ∧
    (∀ m, k.online = true → k.moving = some m → noLines → s.holders = [] → m.entryPa < 2 ^ 48 →
      let e := tableEntry s d m.entryPa
      let old := leafFrame e
      let apart := fun (f : Nat) => m.entryPa + 8 ≤ f ∨ f + 65536 ≤ m.entryPa
      let holds := fun (t : State) (w : Word) => memBytes t.mem (Place.dram d m.entryPa).key 8 = leBytes 8 w.toNat
      let ends := fun (i : Instr) (src dst : Place) (loc : Nat) (frames pages : List Nat) => ∃ t, exec i s = .next t ∧
        (getDie t d).moving = none ∧ (getDie t d).migStat = 0 ∧ (getDie t d).freeFrames = frames ∧ (getDie t d).poolPages = pages ∧
        holds t (setBits (setBits (setBits e 16 32 (m.target / 2 ^ 16)) 15 1 loc) 11 2 0) ∧
        ∀ i, i < 65536 → memByte t.mem (dst.key + i) = memByte s.mem (src.key + i)
      (m.kind = 1 → leafPin e = 0 → leafLoc e = false → apart m.target → apart old →
        (m.target + 65536 ≤ old ∨ old + 65536 ≤ m.target) →
        ends (.migratePage d) (.dram d old) (.dram d m.target) 0 (k.freeFrames ++ [old]) k.poolPages) ∧
      (m.kind = 2 → leafPin e = 0 → leafLoc e = false → regionServes s (m.target / 2 ^ 30) = true → apart old →
        ends (.evictPage d) (.dram d old) (.pool m.target) 1 (k.freeFrames ++ [old]) k.poolPages) ∧
      (m.kind = 3 → leafPin e = 0 → leafLoc e = true → regionServes s (old / 2 ^ 30) = true → m.target < 2 ^ 48 → apart m.target →
        ends (.fetchInPage d) (.pool old) (.dram d m.target) 0 k.freeFrames (k.poolPages ++ [old])) ∧
      (m.kind = 1 → leafPin e ≠ 0 → apart m.target → ∃ t, exec (.migratePage d) s = .next t ∧ (getDie t d).moving = none ∧
        (getDie t d).migStat = 4 ∧ (getDie t d).freeFrames = k.freeFrames ++ [m.target] ∧ holds t (setBits e 11 2 0))) ∧
    (∀ off root base e pa, k.online = true → k.moving = none → noLines → s.holders = [] →
      k.freeFrames.length < (dieReg s d 0xA0).toNat → k.freeFrames.length < (dieReg s d 0xA8).toNat →
      (evictable s d)[k.evSweep % (evictable s d).length]? = some off →
      (Translator.die d 7).root s = .ok root → walk s d root off = .leaf base (2 ^ 16) e pa → leafA e = true →
      ∃ t, exec (.evictionPolicy d) s = .next t ∧ (getDie t d).evSweep = (k.evSweep + 1) % (evictable s d).length ∧
        memBytes t.mem (Place.dram d pa).key 8 = leBytes 8 (setBits e 3 1 0).toNat) ∧
    (k.online = true → ∀ x ∈ [(Instr.dieWarmReset d, false), (.dieResetClear d, true)], ∃ t, exec x.1 s = .next t ∧
      (getDie t d).online = false ∧ (getDie t d).resetStep = 1 ∧ (getDie t d).clearPending = x.2 ∧ (getDie t d).held = [] ∧
      (getDie t d).moving = none ∧ (k.moving = none → t.mem = s.mem) ∧ t.task = s.task) ∧
    (k.online = false →
      (k.resetStep = 1 → draining s d = false → ∃ t, exec (.dieWarmReset d) s = .next t ∧ (getDie t d).resetStep = 2 ∧ t.mem = s.mem) ∧
      (k.resetStep = 2 → s.holders = [] → ∃ t, exec (.dieWarmReset d) s = .next t ∧ (getDie t d).resetStep = 3 ∧
        (getDie t d).online = false) ∧
      (k.resetStep = 3 →
        workEnded (endCopies d (endLaunches d (endTasks d (returnOwn d (openDie d s))))) d = true →
        ∃ t, exec (.dieWarmReset d) s = .next t ∧ (getDie t d).online = false ∧ (getDie t d).resetStep = 5 ∧ wiped t ∧
          (k.clearPending = true → cleared t)) ∧
      (k.resetStep = 5 → exec (.dieWarmReset d) s = .next (updDie s d fun k => { k with resetStep := 6 })) ∧
      (k.resetStep = 0 ∨ k.resetStep = 6 → exec (.dieWarmReset d) s = .next s) ∧
      (k.failed = true → k.resetStep = 0 → ∃ t, exec (.dieResetClear d) s = .next t ∧ (getDie t d).online = false ∧
        (getDie t d).resetStep = 5 ∧ (getDie t d).clearPending = true ∧ cleared t) ∧
      (k.failed = false ∨ k.resetStep ≠ 0 → exec (.dieResetClear d) s = .next s)) ∧
    (k.resetStep = 6 → (k.failed = false ∨ k.clearPending = true) → (k.rowDown && k.columnDown) = false →
      ∃ t, exec (.dieReadmission d) s = .next t ∧ (getDie t d).online = true ∧ (getDie t d).failed = false ∧
        (getDie t d).resetStep = 0 ∧ t.mem = s.mem ∧
        ∀ i, i < 4096 → (getCounter t d i).live = false ∧ (getCounter t d i).gen = (getCounter s d i).gen + 1) ∧
    (k.failed = false → ∃ t, exec (.dieFailure d) s = .next t ∧ (getDie t d).online = false ∧ (getDie t d).failed = true ∧ empty t) ∧
    (∃ t, exec (.dieLinkFailure d .row) s = .next t ∧ (getDie t d).rowDown = true ∧ (getDie t (Nat.xor d 1)).rowDown = true ∧
      (k.columnDown = true → (getDie t d).failed = true)) ∧
    (∃ t, exec (.dieLinkFailure d .column) s = .next t ∧ (getDie t d).columnDown = true ∧
      (getDie t (Nat.xor d 2)).columnDown = true ∧ (k.rowDown = true → (getDie t d).failed = true)) ∧
    (∃ t, exec (.dieLinkFailure d .io) s = .next t ∧ (getDie t d).ioDown = min 2 (k.ioDown + 1))

/-- R402, R405, R406, R407, R408: the pool. A write of the region table that names a port or a transition it may not is refused; another
takes effect, and EPOCH advances with STATE. A port that comes up is up. A port that is lost degrades the regions that still
have one, and loses those that have none; an extent released by force is lost. A snoop takes the line from every window,
where its dirty sectors can be written back, and is answered. Losses are stated where no access of the module is outstanding. That PRI
is not checked where PORTS is 0, and that a write which keeps STATE asks for no transition, is the model's reading (log 53). -/
def Obligations.PoolEvents : Prop :=
  ∀ (s : State),
    let quiet := ∀ e ∈ allFrames s, e.2.2.owed = []
    (∀ r (v : Word),
      let old := regionWord s r
      let ports := BitVec.ofNat 8 (bits v 8 8)
      let legal := bits v 0 2 = 0 ∨ bits v 0 2 = bits old 0 2 ∨ (bits old 0 2, bits v 0 2) ∈ [(0, 1), (2, 1), (3, 2)]
      let served := bits v 0 2 = 1 ∨ bits v 0 2 = 2
      let good := (ports = 0 ∨ ports.getLsbD (bits v 16 3) = true) ∧ legal ∧
        (served → ports ≠ 0 ∧ ∀ i, i < 8 → ports.getLsbD i = true → s.portsUp.getLsbD i = true)
      (¬ good → exec (.regionTableWrite r v) s = .next { s with poolRefused := true }) ∧
      (good → ∃ t, exec (.regionTableWrite r v) s = .next t ∧ t.poolRefused = false ∧ regionState t r = bits v 0 2 ∧
        regionPorts (regionWord t r) = ports ∧ regionPri (regionWord t r) = bits v 16 3 ∧
        bits (regionWord t r) 20 1 = bits v 20 1 ∧
        regionEpoch (regionWord t r) = (regionEpoch old + if bits v 0 2 = bits old 0 2 then 0 else 1) % 256 ∧
        ∀ q, q ≠ r → regionWord t q = regionWord s q)) ∧
    (∀ port, port < 8 → s.portsUp.getLsbD port = false → ∃ p : BitVec 8, exec (.poolPortLinkUp port) s = .next { s with portsUp := p } ∧
      ∀ i, i < 8 → p.getLsbD i = (s.portsUp.getLsbD i || decide (i = port))) ∧
    (∀ port, port < 8 → s.portsUp.getLsbD port = true → quiet → ∃ t, exec (.poolPortLoss port) s = .next t ∧
      (∀ i, i < 8 → t.portsUp.getLsbD i = (s.portsUp.getLsbD i && decide (i ≠ port))) ∧
      ∀ r, let left := regionPorts (regionWord s r) &&& t.portsUp
        (¬ (regionServes s r = true ∧ (regionPorts (regionWord s r)).getLsbD port = true) → regionWord t r = regionWord s r) ∧
        (regionServes s r = true → (regionPorts (regionWord s r)).getLsbD port = true →
          (left ≠ 0 → regionState t r = 2 ∧ regionPorts (regionWord t r) = left ∧ left.getLsbD (regionPri (regionWord t r)) = true) ∧
          (left = 0 → regionState t r = 3 ∧ regionEpoch (regionWord t r) = (regionEpoch (regionWord s r) + 1) % 256))) ∧
    (∀ r, regionServes s r = true → quiet → ∃ t, exec (.extentForcedRelease r) s = .next t ∧ regionState t r = 3 ∧
      regionEpoch (regionWord t r) = (regionEpoch (regionWord s r) + 1) % 256 ∧ ∀ q, q ≠ r → regionWord t q = regionWord s q) ∧
    (∀ (ppa : Word) (inv : Bool), (∃ t, exec (.backInvalidateSnoop ppa inv) s = .next t ∧ t.outbox.getLast? = some (.snoopReply ppa) ∧
        (inv = true → ∀ g, ∀ e ∈ (getCore t g).lines, e.2.home = lineKey (Place.pool ppa.toNat).key → e.2.attr = 0 → e.2.dirty ≠ 0)) ∧
      ((∀ g, (getCore s g).lines = []) →
        exec (.backInvalidateSnoop ppa inv) s = .next { s with outbox := s.outbox ++ [.snoopReply ppa] }))

/-! ## Events of the host and of the fabric -/

/-- R303, R352, R353, R354, R355, R356, R367, R368, R398: the host. A register write of BAR0 reaches its register, under the masks of DTROOT,
POOLROOT and the group words, BAR2BASE on the aperture's size, and an offset past the blocks is ignored; a malformed access reads all ones and writes nothing. A report takes the
next leaf until every leaf is used. Boot leaves its module id and channels, the modes of the clusters and the size of BAR2,
memory empty and tick 0; the clock moves by 25 MHz. A BAR2 access reads, writes or updates device memory in the aperture, and reaches
nothing else. A held stream resumes, is refused, or is refused with REMOTE_DEAD after 2^26 ticks, by its token; an unknown token has no
effect. The model's choices here: BAR2BASE is rounded down to the aperture (log 55), a host access that faults gets an empty reply (56),
the clock may rise again and has a floor (66), and memory is empty after a boot (2). -/
def Obligations.HostEvents : Prop :=
  ∀ (s : State) (v : Word),
    let writes := fun (o : Nat) (t : State) => exec (.registerWrite o v) s = .next t
    (writes 8 { s with bar2Base := word (v.toNat / s.bar2Size * s.bar2Size) } ∧ writes 0x100 { s with poolroot := v &&& 0x0000FFFFFFFF000D } ∧
      (∀ i, i < 512 → writes (0x1000 + 8 * i) { s with groups := smSet 0 s.groups i (v &&& groupMask (i % 8)) }) ∧
      (∀ d, d < 4 → writes (0x100000 + 0x40000 * d) (updDie s d fun k => { k with dtroot := v &&& 0x0000FFFFFFFF0001 }) ∧
        ∀ o ∈ [0x20, 0x28, 0x38, 0xA0, 0xA8, 0x100, 0x1F8, 0x200, 0x300, 0x308, 0x318],
          writes (0x100000 + 0x40000 * d + o) (checkHigh d (updDie s d fun k => { k with regs := smSet 0 k.regs o v }))) ∧
      ∀ o, 0x401000 ≤ o → writes o s) ∧
    (∀ o n, ¬ (o % 8 = 0 ∧ n = 8) → exec (.bar0MalformedAccess o n true) s = .next s ∧
      exec (.bar0MalformedAccess o n false) s = .next { s with hostReply := List.replicate n 0xFF }) ∧
    (∀ nonce, (s.lmsLeaf < 2 ^ 15 → ∃ t r, exec (.attestationReport nonce) s = .next t ∧ t.report = some r ∧ r.nonce = nonce ∧
        r.leaf = s.lmsLeaf ∧ r.measurements = Config.measurements ∧ t.lmsLeaf = s.lmsLeaf + 1 ∧ t.mem = s.mem) ∧
      (2 ^ 15 ≤ s.lmsLeaf → exec (.attestationReport nonce) s = .next { s with report := none })) ∧
    (∀ good m ch split n, ch.length = 4 → (∀ x ∈ ch, channelsOk x = true) → 30 ≤ n → n ≤ 38 →
      ∃ t, exec (.packageBoot good m ⟨ch, split, n⟩) s = .next t ∧ t.tick = 0 ∧ t.booted = good ∧ t.moduleId = m ∧ t.mem = [] ∧
        t.lmsLeaf = s.lmsLeaf ∧ t.bar2Size = 2 ^ n ∧ (∀ c, c < 16 → (getCluster t c).lockstep = !split.getLsbD c) ∧
        ∀ d, d < 4 → (getDie t d).channels = ch.getD d 0 ∧ (getDie t d).online = true) ∧
    (s.clockMHz + 25 ≤ 1050 → exec (.clockStep true) s = .next { s with clockMHz := s.clockMHz + 25 }) ∧
    (50 ≤ s.clockMHz → exec (.clockStep false) s = .next { s with clockMHz := s.clockMHz - 25 }) ∧
    (∀ o n (b : List Byte), let va := s.bar2Base + word o
      (s.bar2Size ≤ o ∨ inAperture s va n = false → exec (.hostAccess false o n b) s = .next { s with hostReply := [] }) ∧
      (s.bar2Size ≤ o ∨ inAperture s va b.length = false → exec (.hostAccess true o n b) s = .next { s with hostReply := [] }) ∧
      (∀ g s1, o < s.bar2Size →
        (inAperture s va n = true → va.toNat % 2 ^ 16 + n ≤ 2 ^ 16 → translate Agent.io .read va s = .ok g s1 →
          holdersOf s1 g.key n false = [] → (∀ c, (getCore s1 c).lines = []) → rangePoisoned s1 g.key n = false →
          exec (.hostAccess false o n b) s = .next { s1 with hostReply := memBytes s1.mem g.key n }) ∧
        (inAperture s va b.length = true → ioWrite va b s = .ok () s1 →
          exec (.hostAccess true o n b) s = .next { s1 with hostReply := [] }))) ∧
    (∀ va n, inAperture s va n = true ↔ (va - s.bar2Base).toNat + n ≤ s.bar2Size ∧ ∃ d p, spaceOf s none none va = .device d p) ∧
    (∀ va x y k, inAperture s va 8 = false ∨ va.toNat % 8 ≠ 0 → exec (.hostAtomic k false va x y) s = .next { s with hostReply := [] }) ∧
    (∀ va x y g s1, inAperture s va 8 = true → va.toNat % 8 = 0 → translate Agent.io .atomic va s = .ok g s1 →
      holdersOf s1 g.key 8 true = [] → (∀ c, (getCore s1 c).lines = []) → rangePoisoned s1 g.key 8 = false →
      let old := memBytes s1.mem g.key 8
      let puts := fun (w : Word) => (Host.Outcome.next { s1 with
        mem := memStore s1.mem g.key (leBytes 8 w.toNat), hostReply := old } : Result)
      exec (.hostAtomic .fetchAdd false va x y) s = puts (word (leNat old) + x) ∧
      exec (.hostAtomic .swap false va x y) s = puts x ∧
      exec (.hostAtomic .cas false va x y) s = if word (leNat old) = y then puts x else .next { s1 with hostReply := old }) ∧
    (∀ d (token : Word),
      (heldBy s d token = none → exec (.faultResume d token) s = .next s ∧ exec (.faultRefuse d token) s = .next s) ∧
      (∀ h, heldBy s d token = some h →
        let stream := (getDie s d).held.filter (sameStream h)
        let gone := updDie s d fun k => { k with held := k.held.filter fun x => !sameStream h x }
        let refused := fun (c : BitVec 8) => (Host.Outcome.next { gone with
          outbox := s.outbox ++ [.refused h.source h.core h.frame h.stream c] } : Result)
        exec (.faultRefuse d token) s = refused h.cause ∧
        (h.tick + 2 ^ 26 ≤ s.tick → exec (.streamFaultTimeout d token) s = refused causeDead) ∧
        (∀ r s1, stream = [h] → waitsBehind gone h.va h.kind = false → performRemote h.source h.va h.kind gone = .ok r s1 →
          exec (.faultResume d token) s = .next { s1 with outbox := s1.outbox ++ [.reply h.source h.core h.frame h.stream r] })))

/-- R358, R361, R363, R364, R366 to R369, R371, R374, R381 to R386: the fabric. A request of another module for a counter, or for memory that
translates, is performed and answered; one that faults is held and recorded, or answered negatively; a later one of a held stream waits
behind it, and one of a stream that has had a negative answer gets it too. A hold reply freezes its stream at the request that it names. A
link of a row or column that fails is down and one that recovers is up; a drained stream is pinned again. A module that dies is dead to
everything, one that is admitted is not. A back-invalidation gives the dirty sectors back, with those that have an error marked. The root
of a sequenced multicast writes its own copy, sends another member's, and acknowledges the write once every copy is. A posted operation
ends with its counters, and a rim write reaches its task's rim. The model's choices here: a posted operation is carried on by its event
(log 34), the root's copies are its engine's and it acknowledges them (35), the details of holds and negative answers and the restart's
first request (47), tokens are a counter (60), and a dead module's requests are forgotten (67). -/
def Obligations.FabricEvents : Prop :=
  ∀ (s : State),
    (∀ (m : BitVec 8) (core frame stream : Nat) (nack : Bool) (va : Word) (kind : RemoteKind) (d : Nat), ownerDie s va kind = some d →
      let h : HeldRequest := ⟨m, core, frame, stream, va, kind, nack, 0, false, 0, s.tick⟩
      let goes := fun (t : State) => exec (.remoteRequest m core frame stream nack va kind) s = .next t
      let answers := fun (t : State) (r : Reply) => goes { t with outbox := t.outbox ++ [.reply m core frame stream r] }
      (∀ e, holdingDie s h = some e → goes (updDie s e fun k => { k with held := k.held ++ [h] })) ∧
      (∀ e x, holdingDie s h = none → nackedAt s h = some (e, x) → ¬ (x.va = va ∧ x.kind = kind) → answers s (.nack x.cause)) ∧
      (holdingDie s h = none → nackedAt s h = none →
        (∀ e i, nameFate s va = .live e i → (kind = .counterRead → answers s (.data (leBytes 8 (getCounter s e i).value.toNat))) ∧
          ∀ n, kind = .counterAdd n → answers (raiseCounter s e i n.toNat) (.data [])) ∧
        (waitsBehind s va kind = false → ∀ n b s1, kind = .read n → ioRead va n s = .ok b s1 → answers s1 (.data b)) ∧
        (waitsBehind s va kind = false → ∀ b s1, kind = .write b → ioWrite va b s = .ok () s1 → answers s1 (.data [])) ∧
        (waitsBehind s va kind = false → ∀ f s1, performRemote m va kind s = .fault f s1 → holdable kind f = true → stream < 16 →
          (nack = true → ∃ t, goes t ∧ t.outbox = s1.outbox ++ [.reply m core frame stream (.nack f.cause)] ∧
            (getDie t d).nacked = (getDie s1 d).nacked ++ [⟨m, core, frame, stream, va, kind, f.cause⟩]) ∧
          (nack = false → s1.records = [] → (getDie s1 d).fqHead.toNat - (dieReg s1 d 0x38).toNat < (dieReg s1 d 0x28).toNat →
            ∃ t, goes t ∧
            t.outbox.getLast? = some (.hold m core frame stream) ∧ (getDie t d).held = (getDie s1 d).held ++
              [{ h with token := (getDie s1 d).nextToken, faulting := true, cause := f.cause, tick := s1.tick }])))) ∧
    (∀ core frame k t o a m, getFrame s core frame = some t → o ∈ t.owed → o.held = false → o.kind = .access a k m →
      m ≠ s.moduleId.toNat → ∃ u, exec (.holdReply core frame ⟨k, o.id⟩) s = .next u ∧ u.mem = s.mem ∧ u.task = s.task ∧
        u.streams.any (fun x => x.core == core && x.frame == frame && x.stream == k && x.frozen == some o.id) = true) ∧
    (∀ a b : BitVec 8, linked a b = true →
      (linkName a b ∉ s.linksDown → ∃ t, exec (.fabricLinkFailure a b) s = .next t ∧ t.linksDown = s.linksDown ++ [linkName a b] ∧
        t.mem = s.mem ∧ t.task = s.task) ∧
      (linkName a b ∈ s.linksDown → exec (.fabricLinkRecovery a b) s = .next { s with
        linksDown := s.linksDown.filter (· ≠ linkName a b) })) ∧
    (∀ a b : BitVec 8, linked a b = true ↔ a ≠ b ∧ (a.toNat / 16 = b.toNat / 16 ∨ a.toNat % 16 = b.toNat % 16)) ∧
    (∀ x t, s.streams = [x] → x.holding = true → x.frozen = none → getFrame s x.core x.frame = some t → t.owed = [] →
      ∃ u, exec (.streamRepin x.core x.frame x.stream) s = .next u ∧ u.mem = s.mem ∧
        u.streams = if s.linksDown = [] then [] else [{ x with holding := false, avoid := s.linksDown }]) ∧
    (∀ m : BitVec 8, (m ≠ s.moduleId → m.toNat ∈ s.modules → m.toNat ∉ s.dead → ∃ t, exec (.moduleDeath m) s = .next t ∧
        t.dead = s.dead ++ [m.toNat] ∧ (∀ h ∈ t.holders, h.module ≠ m) ∧ ∀ d, d < 4 → ∀ h ∈ (getDie t d).held, h.source ≠ m) ∧
      ∃ t, exec (.moduleAdmission m) s = .next t ∧ m.toNat ∈ t.modules ∧ t.dead = s.dead.filter (· ≠ m.toNat) ∧
        t.fabricOk = true ∧ t.mem = s.mem ∧ t.task = s.task) ∧
    (∀ va m d off, spaceOf s none none va = .remote m d off →
      (remoteLines s va = [] → ∀ b, exec (.remoteBackInvalidate va b) s = .next { s with
        outbox := s.outbox ++ [.backInvalidateReply va 0 0 []] }) ∧
      (∀ g n ln, remoteLines s va = [(g, n, ln)] → (getCore s g).sent = [] → ln.dirty ≠ 0 →
        ∃ t bad, exec (.remoteBackInvalidate va true) s = .next t ∧ smFind (getCore t g).lines n = none ∧ t.outbox = s.outbox ++
          [.backInvalidateReply va ln.dirty bad (memBytes s.mem (Place.scratch g (n * 128)).key 128)] ∧
          ∀ i, i < 4 → bad.getLsbD i = (ln.dirty.getLsbD i && sectorBad (getCore s g) (n * 128 + i * 32) 32))) ∧
    (∀ (source : BitVec 8) (core frame stream g : Nat) (off v : Word), bits (groupWord s g 0) 8 8 = s.moduleId.toNat → rootBusy s = false →
      let open' : List (Nat × Nat) → RootWrite := fun asked => ⟨source, core, frame, stream, asked, none⟩
      let roots := fun (narrow : Bool) (t : State) => exec (.mcstSeqRoot ⟨source, core, frame, stream, g⟩ off narrow v) s = .next t
      (s.rootWrites = [] → bits (groupWord s g 0) 0 1 = 0 → ∀ w, roots w { s with
        outbox := s.outbox ++ [.reply source core frame stream (.data [])] }) ∧
      (∀ t, bits (groupWord s g 0) 0 1 = 1 → off.toNat + 8 ≤ (groupWord s g 2).toNat →
        (∀ m, m < 256 → (isMember s g m = true ↔ m = s.moduleId.toNat)) →
        let va := memberVa s g s.moduleId.toNat off
        waitsBehind s va (.write (leBytes 8 v.toNat)) = false → agentWrite Agent.io va (leBytes 8 v.toNat) s = .ok () t →
        roots false (closeRoots { t with rootWrites := t.rootWrites ++ [open' []] })) ∧
      (∀ m, bits (groupWord s g 0) 0 1 = 1 → off.toNat + 8 ≤ (groupWord s g 2).toNat → s.rootWrites = [] →
        m < 256 → m ≠ s.moduleId.toNat → m ∈ s.modules → m ∉ s.dead → (∀ n, n < 256 → (isMember s g n = true ↔ n = m)) →
        roots false { s with
          nextOwed := s.nextOwed + 1
          outbox := s.outbox ++ [.engine (s.nextOwed + 1) (BitVec.ofNat 8 m) (memberVa s g m off) (.memberWrite (leBytes 8 v.toNat))]
          rootWrites := [open' [(s.nextOwed + 1, m)]] })) ∧
    (∀ d e, let p := getPosted s d e
      (getDie s d).online = true → p.used = true → 0 < p.firing → p.arriving = false →
      (∀ q i, postType p = 4 → nameFate s p.dst = .live q i →
        exec (.postedOpDone d e) s = .next (endFiring (raiseCounter s q i p.opnd.toNat) d e true)) ∧
      (∀ old s1, postType p = 2 → p.log = [] → p.awaiting = none → p.src = 0 → agentRmw (postAgent d p p.dst) p.dst (amoBytes (postNarrow p))
          (fun old => some (amoStore (postRop p) (postNarrow p) p.opnd old)) s = .ok old s1 →
        exec (.postedOpDone d e) s = .next (endFiring (setPosted s1 d e { getPosted s1 d e with log := [old] }) d e true)) ∧
      (∀ t, postType p = 6 → p.begun = false → runLaunch 24 s d e = .ends true t →
        exec (.launchOpRetry d e) s = .next (endFiring t d e true)) ∧
      (p.armed = false → p.firing = 1 → postAv p = false → postCv p = false →
        endFiring s d e true = setPosted s d e { Posted.initial with gen := p.gen + 1 })) ∧
    (∀ d e b, let p := getPosted s d e
      (getDie s d).online = true → p.used = true → 0 < p.firing → p.arriving = true → p.answer = some (.data b) → postType p ≠ 7 →
      exec (.postedOpDone d e) s = .next (completeFiring s d e) ∧
      (postCv p = false → p.armed = false → p.firing = 1 →
        completeFiring s d e = setPosted s d e { Posted.initial with gen := p.gen + 1 })) ∧
    (∀ (target launch : Word) (b : List Byte) pos t,
      let g := bits target 8 2 * 192 + bits target 10 2 * 48 + bits target 12 6
      let k := bits target 18 6
      bits target 0 8 = s.moduleId.toNat → bits target 12 6 < 48 → present s g = true → bits target 24 8 = 0 →
      (residents s g).find? (fun e => e.2.ident == (BitVec.ofNat 32 (bits launch 0 32), BitVec.ofNat 32 (bits target 32 32))) =
        some (pos, t) → k < rimQuota t → (smGet Rim.initial t.rims k).state = .ready →
      ∃ u v, exec (.rimwArrival target launch b) s = .next (setFrame s g pos u) ∧ u.rims = smSet Rim.initial t.rims k ⟨.ready, v⟩ ∧
        u.pc = t.pc ∧ u.sregs = t.sregs ∧ u.tiles = t.tiles ∧ ∀ e, e < 16 → smGet 0 v e = BitVec.ofNat 32 (leNat ((b.drop (4 * e)).take 4)))
end

