-- ==== Sys2Proof/Laws/Issue.lean ====
section
/-! SUPPORT. What the issue of a lone syllable can do: it performs, is guarded off, freezes or traps. One lemma each, so that no
proof about an instruction unfolds the issue of a bundle. -/

namespace Sys2Proof.Machine

/-- Fewer registers are named. -/
theorem Issues.mono {s : State} {g : BitVec 4} {l m : List Dest} (h : Issues s g l) (hm : ∀ d ∈ m, d ∈ l) : Issues s g m :=
  ⟨⟨h.1.1, h.1.2.1, h.1.2.2.1, fun d hd => h.1.2.2.2 d (hm d hd)⟩, h.2⟩

/-- The check of a lone syllable is made at its context. -/
theorem checkSlot_lone (slot : Nat) (x : SlotOp) (s : State) :
    checkSlot (nextPosition .full s.task.pc) s [(slot, x)] (slot, x) = x.check (loneCtx slot s) s := by
  simp [checkSlot, claimsBelow, loneCtx, nextBlock, nextPosition]

theorem live_lone {slot : Nat} {x : SlotOp} {s : State} (h : getP s x.guard = true) : live s [(slot, x)] = [(slot, x)] := by
  simp [live, h]

theorem live_lone_off {slot : Nat} {x : SlotOp} {s : State} (h : getP s x.guard = false) : live s [(slot, x)] = [] := by
  simp [live, h]

theorem tagClash_lone (s : State) (slot : Nat) (x : SlotOp) : tagClash s [(slot, x)] = none := by
  simp [tagClash]

/-- Nothing a lone syllable names is owed, and there is room for its access. -/
theorem stalled_lone {slot : Nat} {x : SlotOp} {s : State} (hw : copyWaits s = false) (h : ∀ d ∈ x.uses s, d ∉ owedDests s.task)
    (hm : x.memory s = true → owedAccesses s.task < Config.maxOutstanding) : stalled s [(slot, x)] = false := by
  cases hx : x.memory s
  · simp_all [stalled]
  · have := hm hx
    have : owedAccesses s.task + 1 ≤ Config.maxOutstanding := this
    simp_all [stalled, Nat.not_lt.mpr this]

/-- A lone syllable whose check passes meets no issue fault. -/
theorem issueFault_ok {slot : Nat} {x : SlotOp} {s : State} (hg : getP s x.guard = true)
    (hc : x.check (loneCtx slot s) s = .ok) : issueFault (nextPosition .full s.task.pc) s [(slot, x)] = none := by
  simp [issueFault, live_lone hg, firstTrap, checkSlot_lone, hc, tagClash_lone]

/-- A lone syllable whose check traps reports that trap. -/
theorem issueFault_trap {slot : Nat} {x : SlotOp} {s : State} {c : BitVec 8} {d : BitVec 16} {v : Word} {a : Bool}
    (hg : getP s x.guard = true) (hc : x.check (loneCtx slot s) s = .trap c d v a) :
    issueFault (nextPosition .full s.task.pc) s [(slot, x)] = some (.check slot c d v a) := by
  simp [issueFault, live_lone hg, firstTrap, checkSlot_lone, hc, tagClash_lone]

/-- A lone syllable whose check freezes meets no issue fault. -/
theorem issueFault_freeze {slot : Nat} {x : SlotOp} {s : State} {f : Freeze} (hg : getP s x.guard = true)
    (hc : x.check (loneCtx slot s) s = .freeze f) : issueFault (nextPosition .full s.task.pc) s [(slot, x)] = none := by
  simp [issueFault, live_lone hg, firstTrap, checkSlot_lone, hc, tagClash_lone]

/-- A lone syllable whose guard does not hold meets no issue fault. -/
theorem issueFault_off {slot : Nat} {x : SlotOp} {s : State} (hg : getP s x.guard = false) :
    issueFault (nextPosition .full s.task.pc) s [(slot, x)] = none := by
  simp [issueFault, live_lone_off hg, firstTrap, tagClash_lone]

/-- The effects of a lone syllable in a slot below S7 are its own. -/
theorem applySlots_lone {slot : Nat} (h : slot ≠ 7) (x : SlotOp) (link : Word) (r s : State) :
    applySlots link r [(slot, x)] s = x.eff ⟨slot, link, []⟩ r s := by
  simp [applySlots, higherSlotWins, slotOrder, claimsBelow, h]

theorem applySlots_none (link : Word) (r s : State) : applySlots link r [] s = s := by
  simp [applySlots, higherSlotWins, slotOrder]

/-- A lone syllable whose guard holds, with nothing owed and its checks passed, takes effect. -/
theorem issueLone_performs {slot : Nat} {x : SlotOp} {s : State} (hi : Issues s x.guard (x.uses s))
    (hd : decodeTrapOf s x = none) (hm : x.memory s = true → owedAccesses s.task < Config.maxOutstanding)
    (hc : x.check (loneCtx slot s) s = .ok) (h7 : slot ≠ 7) :
    issueLone slot x s = .next (after s (x.eff (loneCtx slot s) s s)) := by
  obtain ⟨⟨hr, ho, hw, hu⟩, hg⟩ := hi
  obtain ⟨p, hp⟩ := Option.isSome_iff_exists.mp hr
  simp [issueLone, hp, hd, issueBundle, arrive, ho, stalled_lone hw hu hm, live_lone hg, issueFault_ok hg hc, firstFreeze,
    checkSlot_lone, hc, performBundle, applySlots_lone h7, countIssue, after]
  rfl

/-- A lone syllable whose guard does not hold issues without any effect (R53). -/
theorem issueLone_off {slot : Nat} {x : SlotOp} {s : State} (hr : s.core.run.isSome = true) (ho : overrun s.task = false)
    (hw : copyWaits s = false) (hd : decodeTrapOf s x = none) (hg : getP s x.guard = false) : issueLone slot x s = .next (after s s) := by
  obtain ⟨p, hp⟩ := Option.isSome_iff_exists.mp hr
  simp [issueLone, hp, hd, issueBundle, arrive, ho, live_lone_off hg, stalled, hw, firstFreeze, issueFault_off hg,
    performBundle, applySlots_none, countIssue, after]

/-- A lone syllable whose decode traps in this mode or on this core takes that trap (R55, R63, R64). -/
theorem issueLone_decodeTrap {slot : Nat} {x : SlotOp} {s : State} {c : BitVec 8} (hr : s.core.run.isSome = true)
    (hd : decodeTrapOf s x = some c) : issueLone slot x s = .next (issueTrap c 0 slot 0 s) := by
  obtain ⟨p, hp⟩ := Option.isSome_iff_exists.mp hr
  simp [issueLone, hp, hd]

/-- A lone syllable whose check traps takes that trap, without effect (R107). -/
theorem issueLone_traps {slot : Nat} {x : SlotOp} {s : State} {c : BitVec 8} {d : BitVec 16} {v : Word} {a : Bool}
    (hi : Issues s x.guard (x.uses s)) (hd : decodeTrapOf s x = none)
    (hm : x.memory s = true → owedAccesses s.task < Config.maxOutstanding)
    (hc : x.check (loneCtx slot s) s = .trap c d v a) : issueLone slot x s = .next (trapAtIssue 0 .full slot c d v a s) := by
  obtain ⟨⟨hr, ho, hw, hu⟩, hg⟩ := hi
  obtain ⟨p, hp⟩ := Option.isSome_iff_exists.mp hr
  simp [issueLone, hp, hd, issueBundle, arrive, ho, stalled_lone hw hu hm, live_lone hg, issueFault_trap hg hc, firstUnread,
    checkSlot_lone, hc]
  rfl

/-- A lone syllable whose check freezes freezes for a tick (R98). -/
theorem issueLone_freezes {slot : Nat} {x : SlotOp} {s : State} {f : Freeze}
    (hi : Issues s x.guard (x.uses s)) (hd : decodeTrapOf s x = none)
    (hm : x.memory s = true → owedAccesses s.task < Config.maxOutstanding)
    (hc : x.check (loneCtx slot s) s = .freeze f) : issueLone slot x s = .next (freezeStep f s) := by
  obtain ⟨⟨hr, ho, hw, hu⟩, hg⟩ := hi
  obtain ⟨p, hp⟩ := Option.isSome_iff_exists.mp hr
  simp [issueLone, hp, hd, issueBundle, arrive, ho, stalled_lone hw hu hm, live_lone hg, issueFault_freeze hg hc, firstFreeze,
    checkSlot_lone, hc]

/-- A register that an interlocked operation owes freezes a syllable that names it (R96). -/
theorem issueLone_owed {slot : Nat} {x : SlotOp} {s : State} {d : Dest} (hr : s.core.run.isSome = true)
    (ho : overrun s.task = false) (hd : decodeTrapOf s x = none) (hg : getP s x.guard = true)
    (hn : d ∈ x.uses s) (hw : d ∈ owedDests s.task) :
    issueLone slot x s = .next (freezeStep .owed s) := by
  obtain ⟨p, hp⟩ := Option.isSome_iff_exists.mp hr
  have hs : stalled s [(slot, x)] = true := by
    have : (x.uses s).any (owedDests s.task).contains = true := List.any_eq_true.mpr ⟨d, hn, by simpa using hw⟩
    simp [stalled, this]
  simp [issueLone, hp, hd, issueBundle, arrive, ho, live_lone hg, hs]

end Sys2Proof.Machine
end

