-- ==== Sys2Proof/Laws/Exec.lean ====
section
/-! SUPPORT. Every syllable's meaning is the issue of its `SlotOp` alone, so that a proof about all syllables is one about
`issueLone`. -/

namespace Sys2Proof.Machine

/-- An immediate form is a scalar syllable with and without LIMM. -/
theorem slotFor_of_encSI {i : Instr} {base : Nat} {imm : BitVec 42} (h : encode i = some (encSI base imm)) : slotFor i = 1 := by
  have hc : (encSI base imm).cls = .scalar := by
    unfold encSI
    split <;> rfl
  simp [slotFor, slotClassOf, h, hc]

/-- The meaning of a syllable is its issue alone in the slot of its class. -/
theorem exec_of_opOf {i : Instr} {x : SlotOp} (s : State) (h : opOf i = some x) : exec i s = issueLone (slotFor i) x s := by
  cases i <;> first
    | (cases h; rfl)
    | (cases h; rw [slotFor_of_encSI (by rfl)]; rfl)
    | cases h

end Sys2Proof.Machine
end

