-- ==== Sys2Proof/Laws/Maps.lean ====
section
/-! SUPPORT. Sparse maps and memory: a read after a write, and the canonical form that every write keeps. -/

namespace Sys2Proof.Machine

variable {α : Type}

/-! ## Canonical form -/

/-- Every key of a map is above `b`. -/
def keysAbove (b : Nat) (m : SMap α) : Prop := ∀ e ∈ m, b < e.1

/-- The canonical form, by its first entry. -/
theorem smWf_cons [DecidableEq α] (d : α) (j : Nat) (v : α) (r : SMap α) :
    smWf d ((j, v) :: r) = true ↔ v ≠ d ∧ keysAbove j r ∧ smWf d r = true := by
  induction r generalizing j v with
  | nil => simp [smWf, keysAbove]
  | cons e r ih =>
    obtain ⟨k, w⟩ := e
    have h := ih k w
    simp only [smWf, Bool.and_eq_true, decide_eq_true_eq] at h ⊢
    constructor
    · rintro ⟨⟨hv, hjk⟩, hr⟩
      refine ⟨hv, ?_, hr⟩
      intro e he
      rcases List.mem_cons.mp he with rfl | he
      · exact hjk
      · exact Nat.lt_trans hjk ((h.mp hr).2.1 e he)
    · rintro ⟨hv, ha, hr⟩
      exact ⟨⟨hv, ha (k, w) (List.mem_cons_self ..)⟩, hr⟩

theorem smErase_mem {m : SMap α} {k : Nat} {e : Nat × α} (h : e ∈ smErase m k) : e ∈ m := by
  induction m with
  | nil => simp [smErase] at h
  | cons x r ih =>
    obtain ⟨j, v⟩ := x
    by_cases hj : j = k
    · simp only [smErase, hj, if_true] at h
      exact List.mem_cons_of_mem _ (ih h)
    · simp only [smErase, hj, if_false, List.mem_cons] at h
      rcases h with rfl | h
      · exact List.mem_cons_self ..
      · exact List.mem_cons_of_mem _ (ih h)

theorem smErase_wf [DecidableEq α] {d : α} {m : SMap α} (k : Nat) (h : smWf d m = true) : smWf d (smErase m k) = true := by
  induction m with
  | nil => rfl
  | cons x r ih =>
    obtain ⟨j, v⟩ := x
    obtain ⟨hv, ha, hr⟩ := (smWf_cons d j v r).mp h
    by_cases hj : j = k
    · simpa [smErase, hj] using ih hr
    · simp only [smErase, hj, if_false]
      exact (smWf_cons d j v _).mpr ⟨hv, fun e he => ha e (smErase_mem he), ih hr⟩

theorem smPut_mem {m : SMap α} {k : Nat} {v : α} {e : Nat × α} (h : e ∈ smPut m k v) : e = (k, v) ∨ e ∈ m := by
  induction m with
  | nil => simpa [smPut] using h
  | cons x r ih =>
    obtain ⟨j, w⟩ := x
    simp only [smPut] at h
    split at h
    · rcases List.mem_cons.mp h with h | h
      · exact .inl h
      · exact .inr h
    · split at h
      · rcases List.mem_cons.mp h with h | h
        · exact .inl h
        · exact .inr (List.mem_cons_of_mem _ h)
      · rcases List.mem_cons.mp h with h | h
        · exact .inr (h ▸ List.mem_cons_self ..)
        · exact (ih h).imp id (List.mem_cons_of_mem _)

theorem smPut_wf [DecidableEq α] {d : α} {m : SMap α} (k : Nat) {v : α} (hv : v ≠ d) (h : smWf d m = true) :
    smWf d (smPut m k v) = true := by
  induction m with
  | nil => simp [smPut, smWf, hv]
  | cons x r ih =>
    obtain ⟨j, w⟩ := x
    obtain ⟨hw, ha, hr⟩ := (smWf_cons d j w r).mp h
    simp only [smPut]
    split
    · rename_i hk
      refine (smWf_cons d k v _).mpr ⟨hv, ?_, h⟩
      intro e he
      rcases List.mem_cons.mp he with rfl | he
      · exact hk
      · exact Nat.lt_trans hk (ha e he)
    · split
      · rename_i hkj
        exact (smWf_cons d k v _).mpr ⟨hv, hkj ▸ ha, hr⟩
      · rename_i h1 h2
        refine (smWf_cons d j w _).mpr ⟨hw, ?_, ih hr⟩
        intro e he
        rcases smPut_mem he with rfl | he
        · simp only; omega
        · exact ha e he

/-- A write keeps the canonical form. -/
theorem smSet_wf [DecidableEq α] {d : α} {m : SMap α} (k : Nat) (v : α) (h : smWf d m = true) :
    smWf d (smSet d m k v) = true := by
  unfold smSet
  split
  · exact smErase_wf k h
  · exact smPut_wf k ‹_› h

/-- A filtered map keeps the canonical form. -/
theorem smFilter_wf [DecidableEq α] {d : α} {m : SMap α} (f : Nat × α → Bool) (h : smWf d m = true) :
    smWf d (m.filter f) = true := by
  induction m with
  | nil => rfl
  | cons x r ih =>
    obtain ⟨j, v⟩ := x
    obtain ⟨hv, ha, hr⟩ := (smWf_cons d j v r).mp h
    rw [List.filter_cons]
    split
    · exact (smWf_cons d j v _).mpr ⟨hv, fun e he => ha e (List.mem_filter.mp he).1, ih hr⟩
    · exact ih hr

/-! ## Reading after a write -/

theorem smGet_smPut {d : α} {m : SMap α} (k n : Nat) (v : α) :
    smGet d (smPut m k v) n = if n = k then v else smGet d m n := by
  induction m with
  | nil => simp [smPut, smGet, eq_comm]
  | cons x r ih =>
    obtain ⟨j, w⟩ := x
    simp only [smPut]
    split
    · simp only [smGet, eq_comm]
    · split
      · rename_i h1 h2
        subst h2
        by_cases hn : n = k
        · simp [smGet, hn]
        · simp [smGet, hn, Ne.symm hn]
      · rename_i h1 h2
        by_cases hj : j = n
        · subst hj
          simp [smGet, Ne.symm h2]
        · simp [smGet, hj, ih]

theorem smGet_smErase {d : α} (m : SMap α) (k n : Nat) : smGet d (smErase m k) n = if n = k then d else smGet d m n := by
  induction m with
  | nil => simp [smErase, smGet]
  | cons x r ih =>
    obtain ⟨j, v⟩ := x
    by_cases hj : j = k
    · subst hj
      simp only [smErase, if_true, ih]
      by_cases hn : n = j
      · simp [hn]
      · simp [smGet, hn, Ne.symm hn]
    · simp only [smErase, hj, if_false, smGet, ih]
      by_cases hn : j = n
      · subst hn
        simp [hj]
      · simp [hn]

/-- A read after a write. -/
theorem smGet_smSet [DecidableEq α] {d : α} (m : SMap α) (k n : Nat) (v : α) :
    smGet d (smSet d m k v) n = if n = k then v else smGet d m n := by
  unfold smSet
  split
  · rename_i hv
    rw [smGet_smErase, hv]
  · exact smGet_smPut k n v

/-- A write of another key leaves a read alone. -/
theorem smGet_smSet_ne [DecidableEq α] {d : α} {m : SMap α} {k n : Nat} (v : α) (hn : n ≠ k) :
    smGet d (smSet d m k v) n = smGet d m n := by
  rw [smGet_smSet, if_neg hn]

/-! ## Memory -/

/-- Storing bytes keeps the canonical form. -/
theorem memStore_wf {m : Memory} (b : List Byte) (key : Nat) (h : Memory.wf m = true) : Memory.wf (memStore m key b) = true := by
  induction b generalizing m key with
  | nil => exact h
  | cons x r ih => exact ih _ (smSet_wf key x h)

theorem memPutWord_wf {m : Memory} (key : Nat) (w : Word) (h : Memory.wf m = true) : Memory.wf (memPutWord m key w) = true :=
  memStore_wf _ _ h

theorem memZero_wf {m : Memory} (key n : Nat) (h : Memory.wf m = true) : Memory.wf (memZero m key n) = true :=
  smFilter_wf _ h

theorem memMove_wf {m : Memory} (src dst n : Nat) (h : Memory.wf m = true) : Memory.wf (memMove m src dst n) = true :=
  memStore_wf _ _ (memZero_wf _ _ h)

theorem storeMasked_wf {m : Memory} (home mask : Nat) (b : List Byte) (h : Memory.wf m = true) :
    Memory.wf (storeMasked m home mask b) = true := by
  have : ∀ (l : List Nat) (m : Memory), Memory.wf m = true →
      Memory.wf (l.foldl (fun m i => if mask.testBit i then memStore m (home + 32 * i) ((b.drop (32 * i)).take 32) else m) m) = true := by
    intro l
    induction l with
    | nil => exact fun _ h => h
    | cons i l ih =>
      intro m h
      refine ih _ ?_
      show Memory.wf (if _ then _ else _) = true
      split
      · exact memStore_wf _ _ h
      · exact h
  exact this _ m h

/-- A byte outside the stored bytes reads as before. -/
theorem memByte_memStore_out (b : List Byte) (m : Memory) (key a : Nat) (h : a < key ∨ key + b.length ≤ a) :
    memByte (memStore m key b) a = memByte m a := by
  induction b generalizing m key with
  | nil => rfl
  | cons x r ih =>
    simp only [List.length_cons] at h
    rw [memStore, ih _ (key + 1) (by omega)]
    exact smGet_smSet_ne x (by omega)

/-- A stored byte reads as stored. -/
theorem memByte_memStore_in (b : List Byte) (m : Memory) (key i : Nat) (h : i < b.length) :
    memByte (memStore m key b) (key + i) = b[i] := by
  induction b generalizing m key i with
  | nil => simp at h
  | cons x r ih =>
    cases i with
    | zero =>
      rw [memStore, memByte_memStore_out r _ (key + 1) (key + 0) (by omega)]
      simp [memByte, smGet_smSet]
    | succ i =>
      have := ih (smSet unwrittenByte m key x) (key + 1) i (by simpa using h)
      rw [memStore, show key + (i + 1) = key + 1 + i by omega, this]
      simp

end Sys2Proof.Machine
end

