-- ==== Sys2Proof/Laws/Scalar.lean ====
section
/-! SUPPORT. What the shared shapes of the scalar and control slots do when they issue. -/

namespace Sys2Proof.Machine

theorem simple_uses (g : BitVec 4) (reads dests : List Dest) (check : Ctx → State → Pre) (eff : Ctx → State → State → State)
    (s : State) : (SlotOp.simple g reads dests check eff).uses s = reads ++ dests ++ oddTiles s reads := by
  simp [SlotOp.uses, SlotOp.simple]

/-- A syllable without decode checks, tag-found destinations and memory access issues as its check and effect say. -/
theorem simple_performs {slot : Nat} {s : State} {g : BitVec 4} {reads dests uses : List Dest} {check : Ctx → State → Pre}
    {eff : Ctx → State → State → State} (h : Issues s g uses) (hu : ∀ d ∈ reads ++ dests ++ oddTiles s reads, d ∈ uses)
    (hc : check (loneCtx slot s) s = .ok) (h7 : slot ≠ 7) :
    issueLone slot (.simple g reads dests check eff) s = .next (after s (eff (loneCtx slot s) s s)) :=
  issueLone_performs (x := .simple g reads dests check eff) (h.mono (simple_uses .. ▸ hu)) rfl (fun hm => nomatch hm) hc h7

theorem aluOp_performs {s : State} {g : BitVec 4} {d a b : BitVec 6} {uses : List Dest} (f : Word → Word → Word)
    (h : Issues s g uses) (hu : ∀ x ∈ [Dest.sreg a.toNat, .sreg b.toNat, .sreg d.toNat], x ∈ uses) :
    issueLone 1 (aluOp g d a b f) s = .next (after s (setS s d (f (getS s a) (getS s b)))) :=
  simple_performs h hu rfl (by decide)

theorem unaryOp_performs {s : State} {g : BitVec 4} {d a : BitVec 6} {uses : List Dest} (f : Word → Word)
    (h : Issues s g uses) (hu : ∀ x ∈ [Dest.sreg a.toNat, .sreg d.toNat], x ∈ uses) :
    issueLone 1 (unaryOp g d a f) s = .next (after s (setS s d (f (getS s a)))) :=
  simple_performs h hu rfl (by decide)

theorem cmpOp_performs {s : State} {g pd : BitVec 4} {a b : BitVec 6} {uses : List Dest} (f : Word → Word → Bool)
    (h : Issues s g uses) (hu : ∀ x ∈ [Dest.sreg a.toNat, .sreg b.toNat, .pred pd.toNat], x ∈ uses) :
    issueLone 1 (cmpOp g pd a b f) s = .next (after s (setP s pd (f (getS s a) (getS s b)))) :=
  simple_performs h hu rfl (by decide)

theorem predOp_performs {s : State} {g pd pa pb : BitVec 4} {uses : List Dest} (f : Bool → Bool → Bool)
    (h : Issues s g uses) (hu : ∀ x ∈ [Dest.pred pa.toNat, .pred pb.toNat, .pred pd.toNat], x ∈ uses) :
    issueLone 1 (predOp g pd pa pb f) s = .next (after s (setP s pd (f (getP s pa) (getP s pb)))) :=
  simple_performs h hu rfl (by decide)

theorem enable_bits (f : Word) : BitVec.ofNat 5 (bits f 8 5) = (f >>> 8).setWidth 5 := by
  apply BitVec.eq_of_toNat_eq
  simp [bits, Nat.shiftRight_eq_div_pow]

/-- Completion under R23 of an operation that forces no resolve and meets no OVP. -/
theorem complete_outcome (slot : Nat) (x : Flags) (w : State → State) (s t : State) (h : t.task.fpcsr = s.task.fpcsr) :
    complete slot s.task.pc false false x w t = fpOutcome s slot x w t := by
  unfold complete fpOutcome
  by_cases hx : (s.task.fpcsr >>> 8).setWidth 5 &&& x = 0
  · have hv : verdict s.task.fpcsr false false x = none := by
      simp only [verdict, trapsOn, enable_bits, hx]; rfl
    simp only [h, hv, if_pos hx]; rfl
  · have hv : verdict s.task.fpcsr false false x = some (causeFp, x.setWidth 16) := by
      simp [verdict, trapsOn, enable_bits]; exact hx
    simp only [h, hv, if_neg hx]; rfl

theorem oddTiles_sregs (s : State) (reads : List (BitVec 6)) : oddTiles s (reads.map fun x => Dest.sreg x.toNat) = [] := by
  induction reads with
  | nil => rfl
  | cons a l ih => exact ih

theorem fpOp_performs {s : State} {g : BitVec 4} {d : BitVec 6} {reads : List (BitVec 6)} {uses : List Dest} (f : State → Rounded)
    (h : Issues s g uses) (hu : ∀ x ∈ reads.map (fun x => Dest.sreg x.toNat) ++ [.sreg d.toNat], x ∈ uses) :
    issueLone 1 (fpOp g d reads f) s = .next (after s (fpOutcome s 1 (f s).flags (fun t => setS t d (word (f s).bits)) s)) :=
  (simple_performs h (by rw [oddTiles_sregs]; simpa using hu) rfl (by decide)).trans
    (congrArg _ (congrArg _ (complete_outcome 1 _ _ s s rfl)))

end Sys2Proof.Machine
end

