-- ==== Sys2Proof/Laws/State.lean ====
section
/-! SUPPORT. What each named update of the state leaves alone, field by field, and what it writes. -/

namespace Sys2Proof.Machine

/-! ## `setS` -/

@[simp] theorem setS_tick (s : State) {w : Nat} (n : BitVec w) (v : Word) : (setS s n v).tick = s.tick := rfl
@[simp] theorem setS_active (s : State) {w : Nat} (n : BitVec w) (v : Word) : (setS s n v).active = s.active := rfl
@[simp] theorem setS_core (s : State) {w : Nat} (n : BitVec w) (v : Word) : (setS s n v).core = s.core := rfl
@[simp] theorem setS_mem (s : State) {w : Nat} (n : BitVec w) (v : Word) : (setS s n v).mem = s.mem := rfl
@[simp] theorem setS_cores (s : State) {w : Nat} (n : BitVec w) (v : Word) : (setS s n v).cores = s.cores := rfl
@[simp] theorem setS_clusters (s : State) {w : Nat} (n : BitVec w) (v : Word) : (setS s n v).clusters = s.clusters := rfl
@[simp] theorem setS_dies (s : State) {w : Nat} (n : BitVec w) (v : Word) : (setS s n v).dies = s.dies := rfl
@[simp] theorem setS_agenda (s : State) {w : Nat} (n : BitVec w) (v : Word) : (setS s n v).agenda = s.agenda := rfl
@[simp] theorem setS_breaks (s : State) {w : Nat} (n : BitVec w) (v : Word) : (setS s n v).breaks = s.breaks := rfl
@[simp] theorem setS_moduleId (s : State) {w : Nat} (n : BitVec w) (v : Word) : (setS s n v).moduleId = s.moduleId := rfl
@[simp] theorem setS_fabricOk (s : State) {w : Nat} (n : BitVec w) (v : Word) : (setS s n v).fabricOk = s.fabricOk := rfl
@[simp] theorem setS_modules (s : State) {w : Nat} (n : BitVec w) (v : Word) : (setS s n v).modules = s.modules := rfl
@[simp] theorem setS_dead (s : State) {w : Nat} (n : BitVec w) (v : Word) : (setS s n v).dead = s.dead := rfl
@[simp] theorem setS_absent (s : State) {w : Nat} (n : BitVec w) (v : Word) : (setS s n v).absent = s.absent := rfl
@[simp] theorem setS_clockMHz (s : State) {w : Nat} (n : BitVec w) (v : Word) : (setS s n v).clockMHz = s.clockMHz := rfl
@[simp] theorem setS_bar2Base (s : State) {w : Nat} (n : BitVec w) (v : Word) : (setS s n v).bar2Base = s.bar2Base := rfl
@[simp] theorem setS_bar2Size (s : State) {w : Nat} (n : BitVec w) (v : Word) : (setS s n v).bar2Size = s.bar2Size := rfl
@[simp] theorem setS_poolroot (s : State) {w : Nat} (n : BitVec w) (v : Word) : (setS s n v).poolroot = s.poolroot := rfl
@[simp] theorem setS_poolrootLive (s : State) {w : Nat} (n : BitVec w) (v : Word) : (setS s n v).poolrootLive = s.poolrootLive := rfl
@[simp] theorem setS_poolTlb (s : State) {w : Nat} (n : BitVec w) (v : Word) : (setS s n v).poolTlb = s.poolTlb := rfl
@[simp] theorem setS_poolPoison (s : State) {w : Nat} (n : BitVec w) (v : Word) : (setS s n v).poolPoison = s.poolPoison := rfl
@[simp] theorem setS_regions (s : State) {w : Nat} (n : BitVec w) (v : Word) : (setS s n v).regions = s.regions := rfl
@[simp] theorem setS_poolRefused (s : State) {w : Nat} (n : BitVec w) (v : Word) : (setS s n v).poolRefused = s.poolRefused := rfl
@[simp] theorem setS_portsUp (s : State) {w : Nat} (n : BitVec w) (v : Word) : (setS s n v).portsUp = s.portsUp := rfl
@[simp] theorem setS_llHead (s : State) {w : Nat} (n : BitVec w) (v : Word) : (setS s n v).llHead = s.llHead := rfl
@[simp] theorem setS_llDrop (s : State) {w : Nat} (n : BitVec w) (v : Word) : (setS s n v).llDrop = s.llDrop := rfl
@[simp] theorem setS_groups (s : State) {w : Nat} (n : BitVec w) (v : Word) : (setS s n v).groups = s.groups := rfl
@[simp] theorem setS_bar0 (s : State) {w : Nat} (n : BitVec w) (v : Word) : (setS s n v).bar0 = s.bar0 := rfl
@[simp] theorem setS_linksDown (s : State) {w : Nat} (n : BitVec w) (v : Word) : (setS s n v).linksDown = s.linksDown := rfl
@[simp] theorem setS_streams (s : State) {w : Nat} (n : BitVec w) (v : Word) : (setS s n v).streams = s.streams := rfl
@[simp] theorem setS_rootWrites (s : State) {w : Nat} (n : BitVec w) (v : Word) : (setS s n v).rootWrites = s.rootWrites := rfl
@[simp] theorem setS_records (s : State) {w : Nat} (n : BitVec w) (v : Word) : (setS s n v).records = s.records := rfl
@[simp] theorem setS_notices (s : State) {w : Nat} (n : BitVec w) (v : Word) : (setS s n v).notices = s.notices := rfl
@[simp] theorem setS_holders (s : State) {w : Nat} (n : BitVec w) (v : Word) : (setS s n v).holders = s.holders := rfl
@[simp] theorem setS_nextLaunch (s : State) {w : Nat} (n : BitVec w) (v : Word) : (setS s n v).nextLaunch = s.nextLaunch := rfl
@[simp] theorem setS_lastTake (s : State) {w : Nat} (n : BitVec w) (v : Word) : (setS s n v).lastTake = s.lastTake := rfl
@[simp] theorem setS_nextOwed (s : State) {w : Nat} (n : BitVec w) (v : Word) : (setS s n v).nextOwed = s.nextOwed := rfl
@[simp] theorem setS_outbox (s : State) {w : Nat} (n : BitVec w) (v : Word) : (setS s n v).outbox = s.outbox := rfl
@[simp] theorem setS_lmsLeaf (s : State) {w : Nat} (n : BitVec w) (v : Word) : (setS s n v).lmsLeaf = s.lmsLeaf := rfl
@[simp] theorem setS_report (s : State) {w : Nat} (n : BitVec w) (v : Word) : (setS s n v).report = s.report := rfl
@[simp] theorem setS_debugMode (s : State) {w : Nat} (n : BitVec w) (v : Word) : (setS s n v).debugMode = s.debugMode := rfl
@[simp] theorem setS_booted (s : State) {w : Nat} (n : BitVec w) (v : Word) : (setS s n v).booted = s.booted := rfl
@[simp] theorem setS_hostReply (s : State) {w : Nat} (n : BitVec w) (v : Word) : (setS s n v).hostReply = s.hostReply := rfl
@[simp] theorem setS_printed (s : State) {w : Nat} (n : BitVec w) (v : Word) : (setS s n v).printed = s.printed := rfl
@[simp] theorem setS_freeCtr (s : State) {w : Nat} (n : BitVec w) (v : Word) : (setS s n v).freeCtr = s.freeCtr := rfl
@[simp] theorem setS_task_pc (s : State) {w : Nat} (n : BitVec w) (v : Word) : (setS s n v).task.pc = s.task.pc := rfl
@[simp] theorem setS_task_repLeft (s : State) {w : Nat} (n : BitVec w) (v : Word) : (setS s n v).task.repLeft = s.task.repLeft := rfl
@[simp] theorem setS_task_skip (s : State) {w : Nat} (n : BitVec w) (v : Word) : (setS s n v).task.skip = s.task.skip := rfl
@[simp] theorem setS_task_preds (s : State) {w : Nat} (n : BitVec w) (v : Word) : (setS s n v).task.preds = s.task.preds := rfl
@[simp] theorem setS_task_tiles (s : State) {w : Nat} (n : BitVec w) (v : Word) : (setS s n v).task.tiles = s.task.tiles := rfl
@[simp] theorem setS_task_rims (s : State) {w : Nat} (n : BitVec w) (v : Word) : (setS s n v).task.rims = s.task.rims := rfl
@[simp] theorem setS_task_accs (s : State) {w : Nat} (n : BitVec w) (v : Word) : (setS s n v).task.accs = s.task.accs := rfl
@[simp] theorem setS_task_omap (s : State) {w : Nat} (n : BitVec w) (v : Word) : (setS s n v).task.omap = s.task.omap := rfl
@[simp] theorem setS_task_ofs (s : State) {w : Nat} (n : BitVec w) (v : Word) : (setS s n v).task.ofs = s.task.ofs := rfl
@[simp] theorem setS_task_ofstep (s : State) {w : Nat} (n : BitVec w) (v : Word) : (setS s n v).task.ofstep = s.task.ofstep := rfl
@[simp] theorem setS_task_fpcsr (s : State) {w : Nat} (n : BitVec w) (v : Word) : (setS s n v).task.fpcsr = s.task.fpcsr := rfl
@[simp] theorem setS_task_amax (s : State) {w : Nat} (n : BitVec w) (v : Word) : (setS s n v).task.amax = s.task.amax := rfl
@[simp] theorem setS_task_slatch (s : State) {w : Nat} (n : BitVec w) (v : Word) : (setS s n v).task.slatch = s.task.slatch := rfl
@[simp] theorem setS_task_frcnt (s : State) {w : Nat} (n : BitVec w) (v : Word) : (setS s n v).task.frcnt = s.task.frcnt := rfl
@[simp] theorem setS_task_mfmt (s : State) {w : Nat} (n : BitVec w) (v : Word) : (setS s n v).task.mfmt = s.task.mfmt := rfl
@[simp] theorem setS_task_discards (s : State) {w : Nat} (n : BitVec w) (v : Word) : (setS s n v).task.discards = s.task.discards := rfl
@[simp] theorem setS_task_bt (s : State) {w : Nat} (n : BitVec w) (v : Word) : (setS s n v).task.bt = s.task.bt := rfl
@[simp] theorem setS_task_weight (s : State) {w : Nat} (n : BitVec w) (v : Word) : (setS s n v).task.weight = s.task.weight := rfl
@[simp] theorem setS_task_taskId (s : State) {w : Nat} (n : BitVec w) (v : Word) : (setS s n v).task.taskId = s.task.taskId := rfl
@[simp] theorem setS_task_launchId (s : State) {w : Nat} (n : BitVec w) (v : Word) : (setS s n v).task.launchId = s.task.launchId := rfl
@[simp] theorem setS_task_tbase (s : State) {w : Nat} (n : BitVec w) (v : Word) : (setS s n v).task.tbase = s.task.tbase := rfl
@[simp] theorem setS_task_kbase (s : State) {w : Nat} (n : BitVec w) (v : Word) : (setS s n v).task.kbase = s.task.kbase := rfl
@[simp] theorem setS_task_abase (s : State) {w : Nat} (n : BitVec w) (v : Word) : (setS s n v).task.abase = s.task.abase := rfl
@[simp] theorem setS_task_quota (s : State) {w : Nat} (n : BitVec w) (v : Word) : (setS s n v).task.quota = s.task.quota := rfl
@[simp] theorem setS_task_prebound (s : State) {w : Nat} (n : BitVec w) (v : Word) : (setS s n v).task.prebound = s.task.prebound := rfl
@[simp] theorem setS_task_sinceSp (s : State) {w : Nat} (n : BitVec w) (v : Word) : (setS s n v).task.sinceSp = s.task.sinceSp := rfl
@[simp] theorem setS_task_taskctl (s : State) {w : Nat} (n : BitVec w) (v : Word) : (setS s n v).task.taskctl = s.task.taskctl := rfl
@[simp] theorem setS_task_streamsel (s : State) {w : Nat} (n : BitVec w) (v : Word) : (setS s n v).task.streamsel = s.task.streamsel := rfl
@[simp] theorem setS_task_phasectl (s : State) {w : Nat} (n : BitVec w) (v : Word) : (setS s n v).task.phasectl = s.task.phasectl := rfl
@[simp] theorem setS_task_checkpoint (s : State) {w : Nat} (n : BitVec w) (v : Word) : (setS s n v).task.checkpoint = s.task.checkpoint := rfl
@[simp] theorem setS_task_heldCopies (s : State) {w : Nat} (n : BitVec w) (v : Word) : (setS s n v).task.heldCopies = s.task.heldCopies := rfl
@[simp] theorem setS_task_sfcm (s : State) {w : Nat} (n : BitVec w) (v : Word) : (setS s n v).task.sfcm = s.task.sfcm := rfl
@[simp] theorem setS_task_trapcause (s : State) {w : Nat} (n : BitVec w) (v : Word) : (setS s n v).task.trapcause = s.task.trapcause := rfl
@[simp] theorem setS_task_trappc (s : State) {w : Nat} (n : BitVec w) (v : Word) : (setS s n v).task.trappc = s.task.trappc := rfl
@[simp] theorem setS_task_trapva (s : State) {w : Nat} (n : BitVec w) (v : Word) : (setS s n v).task.trapva = s.task.trapva := rfl
@[simp] theorem setS_task_trapinfo (s : State) {w : Nat} (n : BitVec w) (v : Word) : (setS s n v).task.trapinfo = s.task.trapinfo := rfl
@[simp] theorem setS_task_tvec (s : State) {w : Nat} (n : BitVec w) (v : Word) : (setS s n v).task.tvec = s.task.tvec := rfl
@[simp] theorem setS_task_snapExposed (s : State) {w : Nat} (n : BitVec w) (v : Word) : (setS s n v).task.snapExposed = s.task.snapExposed := rfl
@[simp] theorem setS_task_snapReplay (s : State) {w : Nat} (n : BitVec w) (v : Word) : (setS s n v).task.snapReplay = s.task.snapReplay := rfl
@[simp] theorem setS_task_snapPending (s : State) {w : Nat} (n : BitVec w) (v : Word) : (setS s n v).task.snapPending = s.task.snapPending := rfl
@[simp] theorem setS_task_snapSkip (s : State) {w : Nat} (n : BitVec w) (v : Word) : (setS s n v).task.snapSkip = s.task.snapSkip := rfl
@[simp] theorem setS_task_supervisor (s : State) {w : Nat} (n : BitVec w) (v : Word) : (setS s n v).task.supervisor = s.task.supervisor := rfl
@[simp] theorem setS_task_replays (s : State) {w : Nat} (n : BitVec w) (v : Word) : (setS s n v).task.replays = s.task.replays := rfl
@[simp] theorem setS_task_owed (s : State) {w : Nat} (n : BitVec w) (v : Word) : (setS s n v).task.owed = s.task.owed := rfl
@[simp] theorem setS_task_detected (s : State) {w : Nat} (n : BitVec w) (v : Word) : (setS s n v).task.detected = s.task.detected := rfl
@[simp] theorem setS_task_cancel (s : State) {w : Nat} (n : BitVec w) (v : Word) : (setS s n v).task.cancel = s.task.cancel := rfl
@[simp] theorem setS_task_waits (s : State) {w : Nat} (n : BitVec w) (v : Word) : (setS s n v).task.waits = s.task.waits := rfl
@[simp] theorem setS_task_rimWait (s : State) {w : Nat} (n : BitVec w) (v : Word) : (setS s n v).task.rimWait = s.task.rimWait := rfl
@[simp] theorem setS_task_latch (s : State) {w : Nat} (n : BitVec w) (v : Word) : (setS s n v).task.latch = s.task.latch := rfl
@[simp] theorem setS_task_hoops (s : State) {w : Nat} (n : BitVec w) (v : Word) : (setS s n v).task.hoops = s.task.hoops := rfl
@[simp] theorem setS_task_initRegs (s : State) {w : Nat} (n : BitVec w) (v : Word) : (setS s n v).task.initRegs = s.task.initRegs := rfl
@[simp] theorem setS_task_prio (s : State) {w : Nat} (n : BitVec w) (v : Word) : (setS s n v).task.prio = s.task.prio := rfl
@[simp] theorem setS_task_effClass (s : State) {w : Nat} (n : BitVec w) (v : Word) : (setS s n v).task.effClass = s.task.effClass := rfl
@[simp] theorem setS_task_place (s : State) {w : Nat} (n : BitVec w) (v : Word) : (setS s n v).task.place = s.task.place := rfl
@[simp] theorem setS_task_readySince (s : State) {w : Nat} (n : BitVec w) (v : Word) : (setS s n v).task.readySince = s.task.readySince := rfl
@[simp] theorem setS_task_aged (s : State) {w : Nat} (n : BitVec w) (v : Word) : (setS s n v).task.aged = s.task.aged := rfl
@[simp] theorem setS_task_placedAt (s : State) {w : Nat} (n : BitVec w) (v : Word) : (setS s n v).task.placedAt = s.task.placedAt := rfl
@[simp] theorem setS_task_spad (s : State) {w : Nat} (n : BitVec w) (v : Word) : (setS s n v).task.spad = s.task.spad := rfl
@[simp] theorem setS_task_regionOff (s : State) {w : Nat} (n : BitVec w) (v : Word) : (setS s n v).task.regionOff = s.task.regionOff := rfl
@[simp] theorem setS_task_btabVa (s : State) {w : Nat} (n : BitVec w) (v : Word) : (setS s n v).task.btabVa = s.task.btabVa := rfl
@[simp] theorem setS_task_quantum (s : State) {w : Nat} (n : BitVec w) (v : Word) : (setS s n v).task.quantum = s.task.quantum := rfl
@[simp] theorem setS_task_flow (s : State) {w : Nat} (n : BitVec w) (v : Word) : (setS s n v).task.flow = s.task.flow := rfl
@[simp] theorem setS_task_trapping (s : State) {w : Nat} (n : BitVec w) (v : Word) : (setS s n v).task.trapping = s.task.trapping := rfl
@[simp] theorem setS_task_stateWord (s : State) {w : Nat} (n : BitVec w) (v : Word) : (setS s n v).task.stateWord = s.task.stateWord := rfl
@[simp] theorem setS_task_atSafe (s : State) {w : Nat} (n : BitVec w) (v : Word) : (setS s n v).task.atSafe = s.task.atSafe := rfl
@[simp] theorem setS_task_preemptReq (s : State) {w : Nat} (n : BitVec w) (v : Word) : (setS s n v).task.preemptReq = s.task.preemptReq := rfl
@[simp] theorem setS_task_pendingExit (s : State) {w : Nat} (n : BitVec w) (v : Word) : (setS s n v).task.pendingExit = s.task.pendingExit := rfl
@[simp] theorem setS_task_versions (s : State) {w : Nat} (n : BitVec w) (v : Word) : (setS s n v).task.versions = s.task.versions := rfl
@[simp] theorem setS_task_replayQueue (s : State) {w : Nat} (n : BitVec w) (v : Word) : (setS s n v).task.replayQueue = s.task.replayQueue := rfl
@[simp] theorem setS_task_issuedReads (s : State) {w : Nat} (n : BitVec w) (v : Word) : (setS s n v).task.issuedReads = s.task.issuedReads := rfl
@[simp] theorem setS_task_parityBad (s : State) {w : Nat} (n : BitVec w) (v : Word) : (setS s n v).task.parityBad = s.task.parityBad := rfl
@[simp] theorem setS_task_snapBad (s : State) {w : Nat} (n : BitVec w) (v : Word) : (setS s n v).task.snapBad = s.task.snapBad := rfl

/-! ## `setP` -/

@[simp] theorem setP_tick (s : State) {w : Nat} (n : BitVec w) (v : Bool) : (setP s n v).tick = s.tick := rfl
@[simp] theorem setP_active (s : State) {w : Nat} (n : BitVec w) (v : Bool) : (setP s n v).active = s.active := rfl
@[simp] theorem setP_core (s : State) {w : Nat} (n : BitVec w) (v : Bool) : (setP s n v).core = s.core := rfl
@[simp] theorem setP_mem (s : State) {w : Nat} (n : BitVec w) (v : Bool) : (setP s n v).mem = s.mem := rfl
@[simp] theorem setP_cores (s : State) {w : Nat} (n : BitVec w) (v : Bool) : (setP s n v).cores = s.cores := rfl
@[simp] theorem setP_clusters (s : State) {w : Nat} (n : BitVec w) (v : Bool) : (setP s n v).clusters = s.clusters := rfl
@[simp] theorem setP_dies (s : State) {w : Nat} (n : BitVec w) (v : Bool) : (setP s n v).dies = s.dies := rfl
@[simp] theorem setP_agenda (s : State) {w : Nat} (n : BitVec w) (v : Bool) : (setP s n v).agenda = s.agenda := rfl
@[simp] theorem setP_breaks (s : State) {w : Nat} (n : BitVec w) (v : Bool) : (setP s n v).breaks = s.breaks := rfl
@[simp] theorem setP_moduleId (s : State) {w : Nat} (n : BitVec w) (v : Bool) : (setP s n v).moduleId = s.moduleId := rfl
@[simp] theorem setP_fabricOk (s : State) {w : Nat} (n : BitVec w) (v : Bool) : (setP s n v).fabricOk = s.fabricOk := rfl
@[simp] theorem setP_modules (s : State) {w : Nat} (n : BitVec w) (v : Bool) : (setP s n v).modules = s.modules := rfl
@[simp] theorem setP_dead (s : State) {w : Nat} (n : BitVec w) (v : Bool) : (setP s n v).dead = s.dead := rfl
@[simp] theorem setP_absent (s : State) {w : Nat} (n : BitVec w) (v : Bool) : (setP s n v).absent = s.absent := rfl
@[simp] theorem setP_clockMHz (s : State) {w : Nat} (n : BitVec w) (v : Bool) : (setP s n v).clockMHz = s.clockMHz := rfl
@[simp] theorem setP_bar2Base (s : State) {w : Nat} (n : BitVec w) (v : Bool) : (setP s n v).bar2Base = s.bar2Base := rfl
@[simp] theorem setP_bar2Size (s : State) {w : Nat} (n : BitVec w) (v : Bool) : (setP s n v).bar2Size = s.bar2Size := rfl
@[simp] theorem setP_poolroot (s : State) {w : Nat} (n : BitVec w) (v : Bool) : (setP s n v).poolroot = s.poolroot := rfl
@[simp] theorem setP_poolrootLive (s : State) {w : Nat} (n : BitVec w) (v : Bool) : (setP s n v).poolrootLive = s.poolrootLive := rfl
@[simp] theorem setP_poolTlb (s : State) {w : Nat} (n : BitVec w) (v : Bool) : (setP s n v).poolTlb = s.poolTlb := rfl
@[simp] theorem setP_poolPoison (s : State) {w : Nat} (n : BitVec w) (v : Bool) : (setP s n v).poolPoison = s.poolPoison := rfl
@[simp] theorem setP_regions (s : State) {w : Nat} (n : BitVec w) (v : Bool) : (setP s n v).regions = s.regions := rfl
@[simp] theorem setP_poolRefused (s : State) {w : Nat} (n : BitVec w) (v : Bool) : (setP s n v).poolRefused = s.poolRefused := rfl
@[simp] theorem setP_portsUp (s : State) {w : Nat} (n : BitVec w) (v : Bool) : (setP s n v).portsUp = s.portsUp := rfl
@[simp] theorem setP_llHead (s : State) {w : Nat} (n : BitVec w) (v : Bool) : (setP s n v).llHead = s.llHead := rfl
@[simp] theorem setP_llDrop (s : State) {w : Nat} (n : BitVec w) (v : Bool) : (setP s n v).llDrop = s.llDrop := rfl
@[simp] theorem setP_groups (s : State) {w : Nat} (n : BitVec w) (v : Bool) : (setP s n v).groups = s.groups := rfl
@[simp] theorem setP_bar0 (s : State) {w : Nat} (n : BitVec w) (v : Bool) : (setP s n v).bar0 = s.bar0 := rfl
@[simp] theorem setP_linksDown (s : State) {w : Nat} (n : BitVec w) (v : Bool) : (setP s n v).linksDown = s.linksDown := rfl
@[simp] theorem setP_streams (s : State) {w : Nat} (n : BitVec w) (v : Bool) : (setP s n v).streams = s.streams := rfl
@[simp] theorem setP_rootWrites (s : State) {w : Nat} (n : BitVec w) (v : Bool) : (setP s n v).rootWrites = s.rootWrites := rfl
@[simp] theorem setP_records (s : State) {w : Nat} (n : BitVec w) (v : Bool) : (setP s n v).records = s.records := rfl
@[simp] theorem setP_notices (s : State) {w : Nat} (n : BitVec w) (v : Bool) : (setP s n v).notices = s.notices := rfl
@[simp] theorem setP_holders (s : State) {w : Nat} (n : BitVec w) (v : Bool) : (setP s n v).holders = s.holders := rfl
@[simp] theorem setP_nextLaunch (s : State) {w : Nat} (n : BitVec w) (v : Bool) : (setP s n v).nextLaunch = s.nextLaunch := rfl
@[simp] theorem setP_lastTake (s : State) {w : Nat} (n : BitVec w) (v : Bool) : (setP s n v).lastTake = s.lastTake := rfl
@[simp] theorem setP_nextOwed (s : State) {w : Nat} (n : BitVec w) (v : Bool) : (setP s n v).nextOwed = s.nextOwed := rfl
@[simp] theorem setP_outbox (s : State) {w : Nat} (n : BitVec w) (v : Bool) : (setP s n v).outbox = s.outbox := rfl
@[simp] theorem setP_lmsLeaf (s : State) {w : Nat} (n : BitVec w) (v : Bool) : (setP s n v).lmsLeaf = s.lmsLeaf := rfl
@[simp] theorem setP_report (s : State) {w : Nat} (n : BitVec w) (v : Bool) : (setP s n v).report = s.report := rfl
@[simp] theorem setP_debugMode (s : State) {w : Nat} (n : BitVec w) (v : Bool) : (setP s n v).debugMode = s.debugMode := rfl
@[simp] theorem setP_booted (s : State) {w : Nat} (n : BitVec w) (v : Bool) : (setP s n v).booted = s.booted := rfl
@[simp] theorem setP_hostReply (s : State) {w : Nat} (n : BitVec w) (v : Bool) : (setP s n v).hostReply = s.hostReply := rfl
@[simp] theorem setP_printed (s : State) {w : Nat} (n : BitVec w) (v : Bool) : (setP s n v).printed = s.printed := rfl
@[simp] theorem setP_freeCtr (s : State) {w : Nat} (n : BitVec w) (v : Bool) : (setP s n v).freeCtr = s.freeCtr := rfl
@[simp] theorem setP_task_pc (s : State) {w : Nat} (n : BitVec w) (v : Bool) : (setP s n v).task.pc = s.task.pc := rfl
@[simp] theorem setP_task_repLeft (s : State) {w : Nat} (n : BitVec w) (v : Bool) : (setP s n v).task.repLeft = s.task.repLeft := rfl
@[simp] theorem setP_task_skip (s : State) {w : Nat} (n : BitVec w) (v : Bool) : (setP s n v).task.skip = s.task.skip := rfl
@[simp] theorem setP_task_sregs (s : State) {w : Nat} (n : BitVec w) (v : Bool) : (setP s n v).task.sregs = s.task.sregs := rfl
@[simp] theorem setP_task_tiles (s : State) {w : Nat} (n : BitVec w) (v : Bool) : (setP s n v).task.tiles = s.task.tiles := rfl
@[simp] theorem setP_task_rims (s : State) {w : Nat} (n : BitVec w) (v : Bool) : (setP s n v).task.rims = s.task.rims := rfl
@[simp] theorem setP_task_accs (s : State) {w : Nat} (n : BitVec w) (v : Bool) : (setP s n v).task.accs = s.task.accs := rfl
@[simp] theorem setP_task_omap (s : State) {w : Nat} (n : BitVec w) (v : Bool) : (setP s n v).task.omap = s.task.omap := rfl
@[simp] theorem setP_task_ofs (s : State) {w : Nat} (n : BitVec w) (v : Bool) : (setP s n v).task.ofs = s.task.ofs := rfl
@[simp] theorem setP_task_ofstep (s : State) {w : Nat} (n : BitVec w) (v : Bool) : (setP s n v).task.ofstep = s.task.ofstep := rfl
@[simp] theorem setP_task_fpcsr (s : State) {w : Nat} (n : BitVec w) (v : Bool) : (setP s n v).task.fpcsr = s.task.fpcsr := rfl
@[simp] theorem setP_task_amax (s : State) {w : Nat} (n : BitVec w) (v : Bool) : (setP s n v).task.amax = s.task.amax := rfl
@[simp] theorem setP_task_slatch (s : State) {w : Nat} (n : BitVec w) (v : Bool) : (setP s n v).task.slatch = s.task.slatch := rfl
@[simp] theorem setP_task_frcnt (s : State) {w : Nat} (n : BitVec w) (v : Bool) : (setP s n v).task.frcnt = s.task.frcnt := rfl
@[simp] theorem setP_task_mfmt (s : State) {w : Nat} (n : BitVec w) (v : Bool) : (setP s n v).task.mfmt = s.task.mfmt := rfl
@[simp] theorem setP_task_discards (s : State) {w : Nat} (n : BitVec w) (v : Bool) : (setP s n v).task.discards = s.task.discards := rfl
@[simp] theorem setP_task_bt (s : State) {w : Nat} (n : BitVec w) (v : Bool) : (setP s n v).task.bt = s.task.bt := rfl
@[simp] theorem setP_task_weight (s : State) {w : Nat} (n : BitVec w) (v : Bool) : (setP s n v).task.weight = s.task.weight := rfl
@[simp] theorem setP_task_taskId (s : State) {w : Nat} (n : BitVec w) (v : Bool) : (setP s n v).task.taskId = s.task.taskId := rfl
@[simp] theorem setP_task_launchId (s : State) {w : Nat} (n : BitVec w) (v : Bool) : (setP s n v).task.launchId = s.task.launchId := rfl
@[simp] theorem setP_task_tbase (s : State) {w : Nat} (n : BitVec w) (v : Bool) : (setP s n v).task.tbase = s.task.tbase := rfl
@[simp] theorem setP_task_kbase (s : State) {w : Nat} (n : BitVec w) (v : Bool) : (setP s n v).task.kbase = s.task.kbase := rfl
@[simp] theorem setP_task_abase (s : State) {w : Nat} (n : BitVec w) (v : Bool) : (setP s n v).task.abase = s.task.abase := rfl
@[simp] theorem setP_task_quota (s : State) {w : Nat} (n : BitVec w) (v : Bool) : (setP s n v).task.quota = s.task.quota := rfl
@[simp] theorem setP_task_prebound (s : State) {w : Nat} (n : BitVec w) (v : Bool) : (setP s n v).task.prebound = s.task.prebound := rfl
@[simp] theorem setP_task_sinceSp (s : State) {w : Nat} (n : BitVec w) (v : Bool) : (setP s n v).task.sinceSp = s.task.sinceSp := rfl
@[simp] theorem setP_task_taskctl (s : State) {w : Nat} (n : BitVec w) (v : Bool) : (setP s n v).task.taskctl = s.task.taskctl := rfl
@[simp] theorem setP_task_streamsel (s : State) {w : Nat} (n : BitVec w) (v : Bool) : (setP s n v).task.streamsel = s.task.streamsel := rfl
@[simp] theorem setP_task_phasectl (s : State) {w : Nat} (n : BitVec w) (v : Bool) : (setP s n v).task.phasectl = s.task.phasectl := rfl
@[simp] theorem setP_task_checkpoint (s : State) {w : Nat} (n : BitVec w) (v : Bool) : (setP s n v).task.checkpoint = s.task.checkpoint := rfl
@[simp] theorem setP_task_heldCopies (s : State) {w : Nat} (n : BitVec w) (v : Bool) : (setP s n v).task.heldCopies = s.task.heldCopies := rfl
@[simp] theorem setP_task_sfcm (s : State) {w : Nat} (n : BitVec w) (v : Bool) : (setP s n v).task.sfcm = s.task.sfcm := rfl
@[simp] theorem setP_task_trapcause (s : State) {w : Nat} (n : BitVec w) (v : Bool) : (setP s n v).task.trapcause = s.task.trapcause := rfl
@[simp] theorem setP_task_trappc (s : State) {w : Nat} (n : BitVec w) (v : Bool) : (setP s n v).task.trappc = s.task.trappc := rfl
@[simp] theorem setP_task_trapva (s : State) {w : Nat} (n : BitVec w) (v : Bool) : (setP s n v).task.trapva = s.task.trapva := rfl
@[simp] theorem setP_task_trapinfo (s : State) {w : Nat} (n : BitVec w) (v : Bool) : (setP s n v).task.trapinfo = s.task.trapinfo := rfl
@[simp] theorem setP_task_tvec (s : State) {w : Nat} (n : BitVec w) (v : Bool) : (setP s n v).task.tvec = s.task.tvec := rfl
@[simp] theorem setP_task_snapExposed (s : State) {w : Nat} (n : BitVec w) (v : Bool) : (setP s n v).task.snapExposed = s.task.snapExposed := rfl
@[simp] theorem setP_task_snapReplay (s : State) {w : Nat} (n : BitVec w) (v : Bool) : (setP s n v).task.snapReplay = s.task.snapReplay := rfl
@[simp] theorem setP_task_snapPending (s : State) {w : Nat} (n : BitVec w) (v : Bool) : (setP s n v).task.snapPending = s.task.snapPending := rfl
@[simp] theorem setP_task_snapSkip (s : State) {w : Nat} (n : BitVec w) (v : Bool) : (setP s n v).task.snapSkip = s.task.snapSkip := rfl
@[simp] theorem setP_task_supervisor (s : State) {w : Nat} (n : BitVec w) (v : Bool) : (setP s n v).task.supervisor = s.task.supervisor := rfl
@[simp] theorem setP_task_replays (s : State) {w : Nat} (n : BitVec w) (v : Bool) : (setP s n v).task.replays = s.task.replays := rfl
@[simp] theorem setP_task_inflight (s : State) {w : Nat} (n : BitVec w) (v : Bool) : (setP s n v).task.inflight = s.task.inflight := rfl
@[simp] theorem setP_task_owed (s : State) {w : Nat} (n : BitVec w) (v : Bool) : (setP s n v).task.owed = s.task.owed := rfl
@[simp] theorem setP_task_detected (s : State) {w : Nat} (n : BitVec w) (v : Bool) : (setP s n v).task.detected = s.task.detected := rfl
@[simp] theorem setP_task_cancel (s : State) {w : Nat} (n : BitVec w) (v : Bool) : (setP s n v).task.cancel = s.task.cancel := rfl
@[simp] theorem setP_task_waits (s : State) {w : Nat} (n : BitVec w) (v : Bool) : (setP s n v).task.waits = s.task.waits := rfl
@[simp] theorem setP_task_rimWait (s : State) {w : Nat} (n : BitVec w) (v : Bool) : (setP s n v).task.rimWait = s.task.rimWait := rfl
@[simp] theorem setP_task_latch (s : State) {w : Nat} (n : BitVec w) (v : Bool) : (setP s n v).task.latch = s.task.latch := rfl
@[simp] theorem setP_task_hoops (s : State) {w : Nat} (n : BitVec w) (v : Bool) : (setP s n v).task.hoops = s.task.hoops := rfl
@[simp] theorem setP_task_initRegs (s : State) {w : Nat} (n : BitVec w) (v : Bool) : (setP s n v).task.initRegs = s.task.initRegs := rfl
@[simp] theorem setP_task_prio (s : State) {w : Nat} (n : BitVec w) (v : Bool) : (setP s n v).task.prio = s.task.prio := rfl
@[simp] theorem setP_task_effClass (s : State) {w : Nat} (n : BitVec w) (v : Bool) : (setP s n v).task.effClass = s.task.effClass := rfl
@[simp] theorem setP_task_place (s : State) {w : Nat} (n : BitVec w) (v : Bool) : (setP s n v).task.place = s.task.place := rfl
@[simp] theorem setP_task_readySince (s : State) {w : Nat} (n : BitVec w) (v : Bool) : (setP s n v).task.readySince = s.task.readySince := rfl
@[simp] theorem setP_task_aged (s : State) {w : Nat} (n : BitVec w) (v : Bool) : (setP s n v).task.aged = s.task.aged := rfl
@[simp] theorem setP_task_placedAt (s : State) {w : Nat} (n : BitVec w) (v : Bool) : (setP s n v).task.placedAt = s.task.placedAt := rfl
@[simp] theorem setP_task_spad (s : State) {w : Nat} (n : BitVec w) (v : Bool) : (setP s n v).task.spad = s.task.spad := rfl
@[simp] theorem setP_task_regionOff (s : State) {w : Nat} (n : BitVec w) (v : Bool) : (setP s n v).task.regionOff = s.task.regionOff := rfl
@[simp] theorem setP_task_btabVa (s : State) {w : Nat} (n : BitVec w) (v : Bool) : (setP s n v).task.btabVa = s.task.btabVa := rfl
@[simp] theorem setP_task_quantum (s : State) {w : Nat} (n : BitVec w) (v : Bool) : (setP s n v).task.quantum = s.task.quantum := rfl
@[simp] theorem setP_task_flow (s : State) {w : Nat} (n : BitVec w) (v : Bool) : (setP s n v).task.flow = s.task.flow := rfl
@[simp] theorem setP_task_trapping (s : State) {w : Nat} (n : BitVec w) (v : Bool) : (setP s n v).task.trapping = s.task.trapping := rfl
@[simp] theorem setP_task_stateWord (s : State) {w : Nat} (n : BitVec w) (v : Bool) : (setP s n v).task.stateWord = s.task.stateWord := rfl
@[simp] theorem setP_task_atSafe (s : State) {w : Nat} (n : BitVec w) (v : Bool) : (setP s n v).task.atSafe = s.task.atSafe := rfl
@[simp] theorem setP_task_preemptReq (s : State) {w : Nat} (n : BitVec w) (v : Bool) : (setP s n v).task.preemptReq = s.task.preemptReq := rfl
@[simp] theorem setP_task_pendingExit (s : State) {w : Nat} (n : BitVec w) (v : Bool) : (setP s n v).task.pendingExit = s.task.pendingExit := rfl
@[simp] theorem setP_task_versions (s : State) {w : Nat} (n : BitVec w) (v : Bool) : (setP s n v).task.versions = s.task.versions := rfl
@[simp] theorem setP_task_replayQueue (s : State) {w : Nat} (n : BitVec w) (v : Bool) : (setP s n v).task.replayQueue = s.task.replayQueue := rfl
@[simp] theorem setP_task_issuedReads (s : State) {w : Nat} (n : BitVec w) (v : Bool) : (setP s n v).task.issuedReads = s.task.issuedReads := rfl
@[simp] theorem setP_task_parityBad (s : State) {w : Nat} (n : BitVec w) (v : Bool) : (setP s n v).task.parityBad = s.task.parityBad := rfl
@[simp] theorem setP_task_snapBad (s : State) {w : Nat} (n : BitVec w) (v : Bool) : (setP s n v).task.snapBad = s.task.snapBad := rfl

/-! ## `setTile` -/

@[simp] theorem setTile_tick (s : State) (n : Nat) (t : Tile) : (setTile s n t).tick = s.tick := rfl
@[simp] theorem setTile_active (s : State) (n : Nat) (t : Tile) : (setTile s n t).active = s.active := rfl
@[simp] theorem setTile_core (s : State) (n : Nat) (t : Tile) : (setTile s n t).core = s.core := rfl
@[simp] theorem setTile_mem (s : State) (n : Nat) (t : Tile) : (setTile s n t).mem = s.mem := rfl
@[simp] theorem setTile_cores (s : State) (n : Nat) (t : Tile) : (setTile s n t).cores = s.cores := rfl
@[simp] theorem setTile_clusters (s : State) (n : Nat) (t : Tile) : (setTile s n t).clusters = s.clusters := rfl
@[simp] theorem setTile_dies (s : State) (n : Nat) (t : Tile) : (setTile s n t).dies = s.dies := rfl
@[simp] theorem setTile_agenda (s : State) (n : Nat) (t : Tile) : (setTile s n t).agenda = s.agenda := rfl
@[simp] theorem setTile_breaks (s : State) (n : Nat) (t : Tile) : (setTile s n t).breaks = s.breaks := rfl
@[simp] theorem setTile_moduleId (s : State) (n : Nat) (t : Tile) : (setTile s n t).moduleId = s.moduleId := rfl
@[simp] theorem setTile_fabricOk (s : State) (n : Nat) (t : Tile) : (setTile s n t).fabricOk = s.fabricOk := rfl
@[simp] theorem setTile_modules (s : State) (n : Nat) (t : Tile) : (setTile s n t).modules = s.modules := rfl
@[simp] theorem setTile_dead (s : State) (n : Nat) (t : Tile) : (setTile s n t).dead = s.dead := rfl
@[simp] theorem setTile_absent (s : State) (n : Nat) (t : Tile) : (setTile s n t).absent = s.absent := rfl
@[simp] theorem setTile_clockMHz (s : State) (n : Nat) (t : Tile) : (setTile s n t).clockMHz = s.clockMHz := rfl
@[simp] theorem setTile_bar2Base (s : State) (n : Nat) (t : Tile) : (setTile s n t).bar2Base = s.bar2Base := rfl
@[simp] theorem setTile_bar2Size (s : State) (n : Nat) (t : Tile) : (setTile s n t).bar2Size = s.bar2Size := rfl
@[simp] theorem setTile_poolroot (s : State) (n : Nat) (t : Tile) : (setTile s n t).poolroot = s.poolroot := rfl
@[simp] theorem setTile_poolrootLive (s : State) (n : Nat) (t : Tile) : (setTile s n t).poolrootLive = s.poolrootLive := rfl
@[simp] theorem setTile_poolTlb (s : State) (n : Nat) (t : Tile) : (setTile s n t).poolTlb = s.poolTlb := rfl
@[simp] theorem setTile_poolPoison (s : State) (n : Nat) (t : Tile) : (setTile s n t).poolPoison = s.poolPoison := rfl
@[simp] theorem setTile_regions (s : State) (n : Nat) (t : Tile) : (setTile s n t).regions = s.regions := rfl
@[simp] theorem setTile_poolRefused (s : State) (n : Nat) (t : Tile) : (setTile s n t).poolRefused = s.poolRefused := rfl
@[simp] theorem setTile_portsUp (s : State) (n : Nat) (t : Tile) : (setTile s n t).portsUp = s.portsUp := rfl
@[simp] theorem setTile_llHead (s : State) (n : Nat) (t : Tile) : (setTile s n t).llHead = s.llHead := rfl
@[simp] theorem setTile_llDrop (s : State) (n : Nat) (t : Tile) : (setTile s n t).llDrop = s.llDrop := rfl
@[simp] theorem setTile_groups (s : State) (n : Nat) (t : Tile) : (setTile s n t).groups = s.groups := rfl
@[simp] theorem setTile_bar0 (s : State) (n : Nat) (t : Tile) : (setTile s n t).bar0 = s.bar0 := rfl
@[simp] theorem setTile_linksDown (s : State) (n : Nat) (t : Tile) : (setTile s n t).linksDown = s.linksDown := rfl
@[simp] theorem setTile_streams (s : State) (n : Nat) (t : Tile) : (setTile s n t).streams = s.streams := rfl
@[simp] theorem setTile_rootWrites (s : State) (n : Nat) (t : Tile) : (setTile s n t).rootWrites = s.rootWrites := rfl
@[simp] theorem setTile_records (s : State) (n : Nat) (t : Tile) : (setTile s n t).records = s.records := rfl
@[simp] theorem setTile_notices (s : State) (n : Nat) (t : Tile) : (setTile s n t).notices = s.notices := rfl
@[simp] theorem setTile_holders (s : State) (n : Nat) (t : Tile) : (setTile s n t).holders = s.holders := rfl
@[simp] theorem setTile_nextLaunch (s : State) (n : Nat) (t : Tile) : (setTile s n t).nextLaunch = s.nextLaunch := rfl
@[simp] theorem setTile_lastTake (s : State) (n : Nat) (t : Tile) : (setTile s n t).lastTake = s.lastTake := rfl
@[simp] theorem setTile_nextOwed (s : State) (n : Nat) (t : Tile) : (setTile s n t).nextOwed = s.nextOwed := rfl
@[simp] theorem setTile_outbox (s : State) (n : Nat) (t : Tile) : (setTile s n t).outbox = s.outbox := rfl
@[simp] theorem setTile_lmsLeaf (s : State) (n : Nat) (t : Tile) : (setTile s n t).lmsLeaf = s.lmsLeaf := rfl
@[simp] theorem setTile_report (s : State) (n : Nat) (t : Tile) : (setTile s n t).report = s.report := rfl
@[simp] theorem setTile_debugMode (s : State) (n : Nat) (t : Tile) : (setTile s n t).debugMode = s.debugMode := rfl
@[simp] theorem setTile_booted (s : State) (n : Nat) (t : Tile) : (setTile s n t).booted = s.booted := rfl
@[simp] theorem setTile_hostReply (s : State) (n : Nat) (t : Tile) : (setTile s n t).hostReply = s.hostReply := rfl
@[simp] theorem setTile_printed (s : State) (n : Nat) (t : Tile) : (setTile s n t).printed = s.printed := rfl
@[simp] theorem setTile_freeCtr (s : State) (n : Nat) (t : Tile) : (setTile s n t).freeCtr = s.freeCtr := rfl
@[simp] theorem setTile_task_pc (s : State) (n : Nat) (t : Tile) : (setTile s n t).task.pc = s.task.pc := rfl
@[simp] theorem setTile_task_repLeft (s : State) (n : Nat) (t : Tile) : (setTile s n t).task.repLeft = s.task.repLeft := rfl
@[simp] theorem setTile_task_skip (s : State) (n : Nat) (t : Tile) : (setTile s n t).task.skip = s.task.skip := rfl
@[simp] theorem setTile_task_sregs (s : State) (n : Nat) (t : Tile) : (setTile s n t).task.sregs = s.task.sregs := rfl
@[simp] theorem setTile_task_preds (s : State) (n : Nat) (t : Tile) : (setTile s n t).task.preds = s.task.preds := rfl
@[simp] theorem setTile_task_rims (s : State) (n : Nat) (t : Tile) : (setTile s n t).task.rims = s.task.rims := rfl
@[simp] theorem setTile_task_accs (s : State) (n : Nat) (t : Tile) : (setTile s n t).task.accs = s.task.accs := rfl
@[simp] theorem setTile_task_omap (s : State) (n : Nat) (t : Tile) : (setTile s n t).task.omap = s.task.omap := rfl
@[simp] theorem setTile_task_ofs (s : State) (n : Nat) (t : Tile) : (setTile s n t).task.ofs = s.task.ofs := rfl
@[simp] theorem setTile_task_ofstep (s : State) (n : Nat) (t : Tile) : (setTile s n t).task.ofstep = s.task.ofstep := rfl
@[simp] theorem setTile_task_fpcsr (s : State) (n : Nat) (t : Tile) : (setTile s n t).task.fpcsr = s.task.fpcsr := rfl
@[simp] theorem setTile_task_amax (s : State) (n : Nat) (t : Tile) : (setTile s n t).task.amax = s.task.amax := rfl
@[simp] theorem setTile_task_slatch (s : State) (n : Nat) (t : Tile) : (setTile s n t).task.slatch = s.task.slatch := rfl
@[simp] theorem setTile_task_frcnt (s : State) (n : Nat) (t : Tile) : (setTile s n t).task.frcnt = s.task.frcnt := rfl
@[simp] theorem setTile_task_mfmt (s : State) (n : Nat) (t : Tile) : (setTile s n t).task.mfmt = s.task.mfmt := rfl
@[simp] theorem setTile_task_discards (s : State) (n : Nat) (t : Tile) : (setTile s n t).task.discards = s.task.discards := rfl
@[simp] theorem setTile_task_bt (s : State) (n : Nat) (t : Tile) : (setTile s n t).task.bt = s.task.bt := rfl
@[simp] theorem setTile_task_weight (s : State) (n : Nat) (t : Tile) : (setTile s n t).task.weight = s.task.weight := rfl
@[simp] theorem setTile_task_taskId (s : State) (n : Nat) (t : Tile) : (setTile s n t).task.taskId = s.task.taskId := rfl
@[simp] theorem setTile_task_launchId (s : State) (n : Nat) (t : Tile) : (setTile s n t).task.launchId = s.task.launchId := rfl
@[simp] theorem setTile_task_tbase (s : State) (n : Nat) (t : Tile) : (setTile s n t).task.tbase = s.task.tbase := rfl
@[simp] theorem setTile_task_kbase (s : State) (n : Nat) (t : Tile) : (setTile s n t).task.kbase = s.task.kbase := rfl
@[simp] theorem setTile_task_abase (s : State) (n : Nat) (t : Tile) : (setTile s n t).task.abase = s.task.abase := rfl
@[simp] theorem setTile_task_quota (s : State) (n : Nat) (t : Tile) : (setTile s n t).task.quota = s.task.quota := rfl
@[simp] theorem setTile_task_prebound (s : State) (n : Nat) (t : Tile) : (setTile s n t).task.prebound = s.task.prebound := rfl
@[simp] theorem setTile_task_sinceSp (s : State) (n : Nat) (t : Tile) : (setTile s n t).task.sinceSp = s.task.sinceSp := rfl
@[simp] theorem setTile_task_taskctl (s : State) (n : Nat) (t : Tile) : (setTile s n t).task.taskctl = s.task.taskctl := rfl
@[simp] theorem setTile_task_streamsel (s : State) (n : Nat) (t : Tile) : (setTile s n t).task.streamsel = s.task.streamsel := rfl
@[simp] theorem setTile_task_phasectl (s : State) (n : Nat) (t : Tile) : (setTile s n t).task.phasectl = s.task.phasectl := rfl
@[simp] theorem setTile_task_checkpoint (s : State) (n : Nat) (t : Tile) : (setTile s n t).task.checkpoint = s.task.checkpoint := rfl
@[simp] theorem setTile_task_heldCopies (s : State) (n : Nat) (t : Tile) : (setTile s n t).task.heldCopies = s.task.heldCopies := rfl
@[simp] theorem setTile_task_sfcm (s : State) (n : Nat) (t : Tile) : (setTile s n t).task.sfcm = s.task.sfcm := rfl
@[simp] theorem setTile_task_trapcause (s : State) (n : Nat) (t : Tile) : (setTile s n t).task.trapcause = s.task.trapcause := rfl
@[simp] theorem setTile_task_trappc (s : State) (n : Nat) (t : Tile) : (setTile s n t).task.trappc = s.task.trappc := rfl
@[simp] theorem setTile_task_trapva (s : State) (n : Nat) (t : Tile) : (setTile s n t).task.trapva = s.task.trapva := rfl
@[simp] theorem setTile_task_trapinfo (s : State) (n : Nat) (t : Tile) : (setTile s n t).task.trapinfo = s.task.trapinfo := rfl
@[simp] theorem setTile_task_tvec (s : State) (n : Nat) (t : Tile) : (setTile s n t).task.tvec = s.task.tvec := rfl
@[simp] theorem setTile_task_snapExposed (s : State) (n : Nat) (t : Tile) : (setTile s n t).task.snapExposed = s.task.snapExposed := rfl
@[simp] theorem setTile_task_snapReplay (s : State) (n : Nat) (t : Tile) : (setTile s n t).task.snapReplay = s.task.snapReplay := rfl
@[simp] theorem setTile_task_snapPending (s : State) (n : Nat) (t : Tile) : (setTile s n t).task.snapPending = s.task.snapPending := rfl
@[simp] theorem setTile_task_snapSkip (s : State) (n : Nat) (t : Tile) : (setTile s n t).task.snapSkip = s.task.snapSkip := rfl
@[simp] theorem setTile_task_supervisor (s : State) (n : Nat) (t : Tile) : (setTile s n t).task.supervisor = s.task.supervisor := rfl
@[simp] theorem setTile_task_replays (s : State) (n : Nat) (t : Tile) : (setTile s n t).task.replays = s.task.replays := rfl
@[simp] theorem setTile_task_owed (s : State) (n : Nat) (t : Tile) : (setTile s n t).task.owed = s.task.owed := rfl
@[simp] theorem setTile_task_detected (s : State) (n : Nat) (t : Tile) : (setTile s n t).task.detected = s.task.detected := rfl
@[simp] theorem setTile_task_cancel (s : State) (n : Nat) (t : Tile) : (setTile s n t).task.cancel = s.task.cancel := rfl
@[simp] theorem setTile_task_waits (s : State) (n : Nat) (t : Tile) : (setTile s n t).task.waits = s.task.waits := rfl
@[simp] theorem setTile_task_rimWait (s : State) (n : Nat) (t : Tile) : (setTile s n t).task.rimWait = s.task.rimWait := rfl
@[simp] theorem setTile_task_latch (s : State) (n : Nat) (t : Tile) : (setTile s n t).task.latch = s.task.latch := rfl
@[simp] theorem setTile_task_hoops (s : State) (n : Nat) (t : Tile) : (setTile s n t).task.hoops = s.task.hoops := rfl
@[simp] theorem setTile_task_initRegs (s : State) (n : Nat) (t : Tile) : (setTile s n t).task.initRegs = s.task.initRegs := rfl
@[simp] theorem setTile_task_prio (s : State) (n : Nat) (t : Tile) : (setTile s n t).task.prio = s.task.prio := rfl
@[simp] theorem setTile_task_effClass (s : State) (n : Nat) (t : Tile) : (setTile s n t).task.effClass = s.task.effClass := rfl
@[simp] theorem setTile_task_place (s : State) (n : Nat) (t : Tile) : (setTile s n t).task.place = s.task.place := rfl
@[simp] theorem setTile_task_readySince (s : State) (n : Nat) (t : Tile) : (setTile s n t).task.readySince = s.task.readySince := rfl
@[simp] theorem setTile_task_aged (s : State) (n : Nat) (t : Tile) : (setTile s n t).task.aged = s.task.aged := rfl
@[simp] theorem setTile_task_placedAt (s : State) (n : Nat) (t : Tile) : (setTile s n t).task.placedAt = s.task.placedAt := rfl
@[simp] theorem setTile_task_spad (s : State) (n : Nat) (t : Tile) : (setTile s n t).task.spad = s.task.spad := rfl
@[simp] theorem setTile_task_regionOff (s : State) (n : Nat) (t : Tile) : (setTile s n t).task.regionOff = s.task.regionOff := rfl
@[simp] theorem setTile_task_btabVa (s : State) (n : Nat) (t : Tile) : (setTile s n t).task.btabVa = s.task.btabVa := rfl
@[simp] theorem setTile_task_quantum (s : State) (n : Nat) (t : Tile) : (setTile s n t).task.quantum = s.task.quantum := rfl
@[simp] theorem setTile_task_flow (s : State) (n : Nat) (t : Tile) : (setTile s n t).task.flow = s.task.flow := rfl
@[simp] theorem setTile_task_trapping (s : State) (n : Nat) (t : Tile) : (setTile s n t).task.trapping = s.task.trapping := rfl
@[simp] theorem setTile_task_stateWord (s : State) (n : Nat) (t : Tile) : (setTile s n t).task.stateWord = s.task.stateWord := rfl
@[simp] theorem setTile_task_atSafe (s : State) (n : Nat) (t : Tile) : (setTile s n t).task.atSafe = s.task.atSafe := rfl
@[simp] theorem setTile_task_preemptReq (s : State) (n : Nat) (t : Tile) : (setTile s n t).task.preemptReq = s.task.preemptReq := rfl
@[simp] theorem setTile_task_pendingExit (s : State) (n : Nat) (t : Tile) : (setTile s n t).task.pendingExit = s.task.pendingExit := rfl
@[simp] theorem setTile_task_versions (s : State) (n : Nat) (t : Tile) : (setTile s n t).task.versions = s.task.versions := rfl
@[simp] theorem setTile_task_replayQueue (s : State) (n : Nat) (t : Tile) : (setTile s n t).task.replayQueue = s.task.replayQueue := rfl
@[simp] theorem setTile_task_issuedReads (s : State) (n : Nat) (t : Tile) : (setTile s n t).task.issuedReads = s.task.issuedReads := rfl
@[simp] theorem setTile_task_parityBad (s : State) (n : Nat) (t : Tile) : (setTile s n t).task.parityBad = s.task.parityBad := rfl
@[simp] theorem setTile_task_snapBad (s : State) (n : Nat) (t : Tile) : (setTile s n t).task.snapBad = s.task.snapBad := rfl

/-! ## `setRim` -/

@[simp] theorem setRim_tick (s : State) (k : Nat) (r : Rim) : (setRim s k r).tick = s.tick := rfl
@[simp] theorem setRim_active (s : State) (k : Nat) (r : Rim) : (setRim s k r).active = s.active := rfl
@[simp] theorem setRim_core (s : State) (k : Nat) (r : Rim) : (setRim s k r).core = s.core := rfl
@[simp] theorem setRim_mem (s : State) (k : Nat) (r : Rim) : (setRim s k r).mem = s.mem := rfl
@[simp] theorem setRim_cores (s : State) (k : Nat) (r : Rim) : (setRim s k r).cores = s.cores := rfl
@[simp] theorem setRim_clusters (s : State) (k : Nat) (r : Rim) : (setRim s k r).clusters = s.clusters := rfl
@[simp] theorem setRim_dies (s : State) (k : Nat) (r : Rim) : (setRim s k r).dies = s.dies := rfl
@[simp] theorem setRim_agenda (s : State) (k : Nat) (r : Rim) : (setRim s k r).agenda = s.agenda := rfl
@[simp] theorem setRim_breaks (s : State) (k : Nat) (r : Rim) : (setRim s k r).breaks = s.breaks := rfl
@[simp] theorem setRim_moduleId (s : State) (k : Nat) (r : Rim) : (setRim s k r).moduleId = s.moduleId := rfl
@[simp] theorem setRim_fabricOk (s : State) (k : Nat) (r : Rim) : (setRim s k r).fabricOk = s.fabricOk := rfl
@[simp] theorem setRim_modules (s : State) (k : Nat) (r : Rim) : (setRim s k r).modules = s.modules := rfl
@[simp] theorem setRim_dead (s : State) (k : Nat) (r : Rim) : (setRim s k r).dead = s.dead := rfl
@[simp] theorem setRim_absent (s : State) (k : Nat) (r : Rim) : (setRim s k r).absent = s.absent := rfl
@[simp] theorem setRim_clockMHz (s : State) (k : Nat) (r : Rim) : (setRim s k r).clockMHz = s.clockMHz := rfl
@[simp] theorem setRim_bar2Base (s : State) (k : Nat) (r : Rim) : (setRim s k r).bar2Base = s.bar2Base := rfl
@[simp] theorem setRim_bar2Size (s : State) (k : Nat) (r : Rim) : (setRim s k r).bar2Size = s.bar2Size := rfl
@[simp] theorem setRim_poolroot (s : State) (k : Nat) (r : Rim) : (setRim s k r).poolroot = s.poolroot := rfl
@[simp] theorem setRim_poolrootLive (s : State) (k : Nat) (r : Rim) : (setRim s k r).poolrootLive = s.poolrootLive := rfl
@[simp] theorem setRim_poolTlb (s : State) (k : Nat) (r : Rim) : (setRim s k r).poolTlb = s.poolTlb := rfl
@[simp] theorem setRim_poolPoison (s : State) (k : Nat) (r : Rim) : (setRim s k r).poolPoison = s.poolPoison := rfl
@[simp] theorem setRim_regions (s : State) (k : Nat) (r : Rim) : (setRim s k r).regions = s.regions := rfl
@[simp] theorem setRim_poolRefused (s : State) (k : Nat) (r : Rim) : (setRim s k r).poolRefused = s.poolRefused := rfl
@[simp] theorem setRim_portsUp (s : State) (k : Nat) (r : Rim) : (setRim s k r).portsUp = s.portsUp := rfl
@[simp] theorem setRim_llHead (s : State) (k : Nat) (r : Rim) : (setRim s k r).llHead = s.llHead := rfl
@[simp] theorem setRim_llDrop (s : State) (k : Nat) (r : Rim) : (setRim s k r).llDrop = s.llDrop := rfl
@[simp] theorem setRim_groups (s : State) (k : Nat) (r : Rim) : (setRim s k r).groups = s.groups := rfl
@[simp] theorem setRim_bar0 (s : State) (k : Nat) (r : Rim) : (setRim s k r).bar0 = s.bar0 := rfl
@[simp] theorem setRim_linksDown (s : State) (k : Nat) (r : Rim) : (setRim s k r).linksDown = s.linksDown := rfl
@[simp] theorem setRim_streams (s : State) (k : Nat) (r : Rim) : (setRim s k r).streams = s.streams := rfl
@[simp] theorem setRim_rootWrites (s : State) (k : Nat) (r : Rim) : (setRim s k r).rootWrites = s.rootWrites := rfl
@[simp] theorem setRim_records (s : State) (k : Nat) (r : Rim) : (setRim s k r).records = s.records := rfl
@[simp] theorem setRim_notices (s : State) (k : Nat) (r : Rim) : (setRim s k r).notices = s.notices := rfl
@[simp] theorem setRim_holders (s : State) (k : Nat) (r : Rim) : (setRim s k r).holders = s.holders := rfl
@[simp] theorem setRim_nextLaunch (s : State) (k : Nat) (r : Rim) : (setRim s k r).nextLaunch = s.nextLaunch := rfl
@[simp] theorem setRim_lastTake (s : State) (k : Nat) (r : Rim) : (setRim s k r).lastTake = s.lastTake := rfl
@[simp] theorem setRim_nextOwed (s : State) (k : Nat) (r : Rim) : (setRim s k r).nextOwed = s.nextOwed := rfl
@[simp] theorem setRim_outbox (s : State) (k : Nat) (r : Rim) : (setRim s k r).outbox = s.outbox := rfl
@[simp] theorem setRim_lmsLeaf (s : State) (k : Nat) (r : Rim) : (setRim s k r).lmsLeaf = s.lmsLeaf := rfl
@[simp] theorem setRim_report (s : State) (k : Nat) (r : Rim) : (setRim s k r).report = s.report := rfl
@[simp] theorem setRim_debugMode (s : State) (k : Nat) (r : Rim) : (setRim s k r).debugMode = s.debugMode := rfl
@[simp] theorem setRim_booted (s : State) (k : Nat) (r : Rim) : (setRim s k r).booted = s.booted := rfl
@[simp] theorem setRim_hostReply (s : State) (k : Nat) (r : Rim) : (setRim s k r).hostReply = s.hostReply := rfl
@[simp] theorem setRim_printed (s : State) (k : Nat) (r : Rim) : (setRim s k r).printed = s.printed := rfl
@[simp] theorem setRim_freeCtr (s : State) (k : Nat) (r : Rim) : (setRim s k r).freeCtr = s.freeCtr := rfl
@[simp] theorem setRim_task_pc (s : State) (k : Nat) (r : Rim) : (setRim s k r).task.pc = s.task.pc := rfl
@[simp] theorem setRim_task_repLeft (s : State) (k : Nat) (r : Rim) : (setRim s k r).task.repLeft = s.task.repLeft := rfl
@[simp] theorem setRim_task_skip (s : State) (k : Nat) (r : Rim) : (setRim s k r).task.skip = s.task.skip := rfl
@[simp] theorem setRim_task_sregs (s : State) (k : Nat) (r : Rim) : (setRim s k r).task.sregs = s.task.sregs := rfl
@[simp] theorem setRim_task_preds (s : State) (k : Nat) (r : Rim) : (setRim s k r).task.preds = s.task.preds := rfl
@[simp] theorem setRim_task_tiles (s : State) (k : Nat) (r : Rim) : (setRim s k r).task.tiles = s.task.tiles := rfl
@[simp] theorem setRim_task_accs (s : State) (k : Nat) (r : Rim) : (setRim s k r).task.accs = s.task.accs := rfl
@[simp] theorem setRim_task_omap (s : State) (k : Nat) (r : Rim) : (setRim s k r).task.omap = s.task.omap := rfl
@[simp] theorem setRim_task_ofs (s : State) (k : Nat) (r : Rim) : (setRim s k r).task.ofs = s.task.ofs := rfl
@[simp] theorem setRim_task_ofstep (s : State) (k : Nat) (r : Rim) : (setRim s k r).task.ofstep = s.task.ofstep := rfl
@[simp] theorem setRim_task_fpcsr (s : State) (k : Nat) (r : Rim) : (setRim s k r).task.fpcsr = s.task.fpcsr := rfl
@[simp] theorem setRim_task_amax (s : State) (k : Nat) (r : Rim) : (setRim s k r).task.amax = s.task.amax := rfl
@[simp] theorem setRim_task_slatch (s : State) (k : Nat) (r : Rim) : (setRim s k r).task.slatch = s.task.slatch := rfl
@[simp] theorem setRim_task_frcnt (s : State) (k : Nat) (r : Rim) : (setRim s k r).task.frcnt = s.task.frcnt := rfl
@[simp] theorem setRim_task_mfmt (s : State) (k : Nat) (r : Rim) : (setRim s k r).task.mfmt = s.task.mfmt := rfl
@[simp] theorem setRim_task_discards (s : State) (k : Nat) (r : Rim) : (setRim s k r).task.discards = s.task.discards := rfl
@[simp] theorem setRim_task_bt (s : State) (k : Nat) (r : Rim) : (setRim s k r).task.bt = s.task.bt := rfl
@[simp] theorem setRim_task_weight (s : State) (k : Nat) (r : Rim) : (setRim s k r).task.weight = s.task.weight := rfl
@[simp] theorem setRim_task_taskId (s : State) (k : Nat) (r : Rim) : (setRim s k r).task.taskId = s.task.taskId := rfl
@[simp] theorem setRim_task_launchId (s : State) (k : Nat) (r : Rim) : (setRim s k r).task.launchId = s.task.launchId := rfl
@[simp] theorem setRim_task_tbase (s : State) (k : Nat) (r : Rim) : (setRim s k r).task.tbase = s.task.tbase := rfl
@[simp] theorem setRim_task_kbase (s : State) (k : Nat) (r : Rim) : (setRim s k r).task.kbase = s.task.kbase := rfl
@[simp] theorem setRim_task_abase (s : State) (k : Nat) (r : Rim) : (setRim s k r).task.abase = s.task.abase := rfl
@[simp] theorem setRim_task_quota (s : State) (k : Nat) (r : Rim) : (setRim s k r).task.quota = s.task.quota := rfl
@[simp] theorem setRim_task_prebound (s : State) (k : Nat) (r : Rim) : (setRim s k r).task.prebound = s.task.prebound := rfl
@[simp] theorem setRim_task_sinceSp (s : State) (k : Nat) (r : Rim) : (setRim s k r).task.sinceSp = s.task.sinceSp := rfl
@[simp] theorem setRim_task_taskctl (s : State) (k : Nat) (r : Rim) : (setRim s k r).task.taskctl = s.task.taskctl := rfl
@[simp] theorem setRim_task_streamsel (s : State) (k : Nat) (r : Rim) : (setRim s k r).task.streamsel = s.task.streamsel := rfl
@[simp] theorem setRim_task_phasectl (s : State) (k : Nat) (r : Rim) : (setRim s k r).task.phasectl = s.task.phasectl := rfl
@[simp] theorem setRim_task_checkpoint (s : State) (k : Nat) (r : Rim) : (setRim s k r).task.checkpoint = s.task.checkpoint := rfl
@[simp] theorem setRim_task_heldCopies (s : State) (k : Nat) (r : Rim) : (setRim s k r).task.heldCopies = s.task.heldCopies := rfl
@[simp] theorem setRim_task_sfcm (s : State) (k : Nat) (r : Rim) : (setRim s k r).task.sfcm = s.task.sfcm := rfl
@[simp] theorem setRim_task_trapcause (s : State) (k : Nat) (r : Rim) : (setRim s k r).task.trapcause = s.task.trapcause := rfl
@[simp] theorem setRim_task_trappc (s : State) (k : Nat) (r : Rim) : (setRim s k r).task.trappc = s.task.trappc := rfl
@[simp] theorem setRim_task_trapva (s : State) (k : Nat) (r : Rim) : (setRim s k r).task.trapva = s.task.trapva := rfl
@[simp] theorem setRim_task_trapinfo (s : State) (k : Nat) (r : Rim) : (setRim s k r).task.trapinfo = s.task.trapinfo := rfl
@[simp] theorem setRim_task_tvec (s : State) (k : Nat) (r : Rim) : (setRim s k r).task.tvec = s.task.tvec := rfl
@[simp] theorem setRim_task_snapExposed (s : State) (k : Nat) (r : Rim) : (setRim s k r).task.snapExposed = s.task.snapExposed := rfl
@[simp] theorem setRim_task_snapReplay (s : State) (k : Nat) (r : Rim) : (setRim s k r).task.snapReplay = s.task.snapReplay := rfl
@[simp] theorem setRim_task_snapPending (s : State) (k : Nat) (r : Rim) : (setRim s k r).task.snapPending = s.task.snapPending := rfl
@[simp] theorem setRim_task_snapSkip (s : State) (k : Nat) (r : Rim) : (setRim s k r).task.snapSkip = s.task.snapSkip := rfl
@[simp] theorem setRim_task_supervisor (s : State) (k : Nat) (r : Rim) : (setRim s k r).task.supervisor = s.task.supervisor := rfl
@[simp] theorem setRim_task_replays (s : State) (k : Nat) (r : Rim) : (setRim s k r).task.replays = s.task.replays := rfl
@[simp] theorem setRim_task_owed (s : State) (k : Nat) (r : Rim) : (setRim s k r).task.owed = s.task.owed := rfl
@[simp] theorem setRim_task_detected (s : State) (k : Nat) (r : Rim) : (setRim s k r).task.detected = s.task.detected := rfl
@[simp] theorem setRim_task_cancel (s : State) (k : Nat) (r : Rim) : (setRim s k r).task.cancel = s.task.cancel := rfl
@[simp] theorem setRim_task_waits (s : State) (k : Nat) (r : Rim) : (setRim s k r).task.waits = s.task.waits := rfl
@[simp] theorem setRim_task_rimWait (s : State) (k : Nat) (r : Rim) : (setRim s k r).task.rimWait = s.task.rimWait := rfl
@[simp] theorem setRim_task_latch (s : State) (k : Nat) (r : Rim) : (setRim s k r).task.latch = s.task.latch := rfl
@[simp] theorem setRim_task_hoops (s : State) (k : Nat) (r : Rim) : (setRim s k r).task.hoops = s.task.hoops := rfl
@[simp] theorem setRim_task_initRegs (s : State) (k : Nat) (r : Rim) : (setRim s k r).task.initRegs = s.task.initRegs := rfl
@[simp] theorem setRim_task_prio (s : State) (k : Nat) (r : Rim) : (setRim s k r).task.prio = s.task.prio := rfl
@[simp] theorem setRim_task_effClass (s : State) (k : Nat) (r : Rim) : (setRim s k r).task.effClass = s.task.effClass := rfl
@[simp] theorem setRim_task_place (s : State) (k : Nat) (r : Rim) : (setRim s k r).task.place = s.task.place := rfl
@[simp] theorem setRim_task_readySince (s : State) (k : Nat) (r : Rim) : (setRim s k r).task.readySince = s.task.readySince := rfl
@[simp] theorem setRim_task_aged (s : State) (k : Nat) (r : Rim) : (setRim s k r).task.aged = s.task.aged := rfl
@[simp] theorem setRim_task_placedAt (s : State) (k : Nat) (r : Rim) : (setRim s k r).task.placedAt = s.task.placedAt := rfl
@[simp] theorem setRim_task_spad (s : State) (k : Nat) (r : Rim) : (setRim s k r).task.spad = s.task.spad := rfl
@[simp] theorem setRim_task_regionOff (s : State) (k : Nat) (r : Rim) : (setRim s k r).task.regionOff = s.task.regionOff := rfl
@[simp] theorem setRim_task_btabVa (s : State) (k : Nat) (r : Rim) : (setRim s k r).task.btabVa = s.task.btabVa := rfl
@[simp] theorem setRim_task_quantum (s : State) (k : Nat) (r : Rim) : (setRim s k r).task.quantum = s.task.quantum := rfl
@[simp] theorem setRim_task_flow (s : State) (k : Nat) (r : Rim) : (setRim s k r).task.flow = s.task.flow := rfl
@[simp] theorem setRim_task_trapping (s : State) (k : Nat) (r : Rim) : (setRim s k r).task.trapping = s.task.trapping := rfl
@[simp] theorem setRim_task_stateWord (s : State) (k : Nat) (r : Rim) : (setRim s k r).task.stateWord = s.task.stateWord := rfl
@[simp] theorem setRim_task_atSafe (s : State) (k : Nat) (r : Rim) : (setRim s k r).task.atSafe = s.task.atSafe := rfl
@[simp] theorem setRim_task_preemptReq (s : State) (k : Nat) (r : Rim) : (setRim s k r).task.preemptReq = s.task.preemptReq := rfl
@[simp] theorem setRim_task_pendingExit (s : State) (k : Nat) (r : Rim) : (setRim s k r).task.pendingExit = s.task.pendingExit := rfl
@[simp] theorem setRim_task_versions (s : State) (k : Nat) (r : Rim) : (setRim s k r).task.versions = s.task.versions := rfl
@[simp] theorem setRim_task_replayQueue (s : State) (k : Nat) (r : Rim) : (setRim s k r).task.replayQueue = s.task.replayQueue := rfl
@[simp] theorem setRim_task_issuedReads (s : State) (k : Nat) (r : Rim) : (setRim s k r).task.issuedReads = s.task.issuedReads := rfl
@[simp] theorem setRim_task_parityBad (s : State) (k : Nat) (r : Rim) : (setRim s k r).task.parityBad = s.task.parityBad := rfl
@[simp] theorem setRim_task_snapBad (s : State) (k : Nat) (r : Rim) : (setRim s k r).task.snapBad = s.task.snapBad := rfl

/-! ## `setAcc` -/

@[simp] theorem setAcc_tick (s : State) (a : Nat) (x : Acc) : (setAcc s a x).tick = s.tick := rfl
@[simp] theorem setAcc_active (s : State) (a : Nat) (x : Acc) : (setAcc s a x).active = s.active := rfl
@[simp] theorem setAcc_core (s : State) (a : Nat) (x : Acc) : (setAcc s a x).core = s.core := rfl
@[simp] theorem setAcc_mem (s : State) (a : Nat) (x : Acc) : (setAcc s a x).mem = s.mem := rfl
@[simp] theorem setAcc_cores (s : State) (a : Nat) (x : Acc) : (setAcc s a x).cores = s.cores := rfl
@[simp] theorem setAcc_clusters (s : State) (a : Nat) (x : Acc) : (setAcc s a x).clusters = s.clusters := rfl
@[simp] theorem setAcc_dies (s : State) (a : Nat) (x : Acc) : (setAcc s a x).dies = s.dies := rfl
@[simp] theorem setAcc_agenda (s : State) (a : Nat) (x : Acc) : (setAcc s a x).agenda = s.agenda := rfl
@[simp] theorem setAcc_breaks (s : State) (a : Nat) (x : Acc) : (setAcc s a x).breaks = s.breaks := rfl
@[simp] theorem setAcc_moduleId (s : State) (a : Nat) (x : Acc) : (setAcc s a x).moduleId = s.moduleId := rfl
@[simp] theorem setAcc_fabricOk (s : State) (a : Nat) (x : Acc) : (setAcc s a x).fabricOk = s.fabricOk := rfl
@[simp] theorem setAcc_modules (s : State) (a : Nat) (x : Acc) : (setAcc s a x).modules = s.modules := rfl
@[simp] theorem setAcc_dead (s : State) (a : Nat) (x : Acc) : (setAcc s a x).dead = s.dead := rfl
@[simp] theorem setAcc_absent (s : State) (a : Nat) (x : Acc) : (setAcc s a x).absent = s.absent := rfl
@[simp] theorem setAcc_clockMHz (s : State) (a : Nat) (x : Acc) : (setAcc s a x).clockMHz = s.clockMHz := rfl
@[simp] theorem setAcc_bar2Base (s : State) (a : Nat) (x : Acc) : (setAcc s a x).bar2Base = s.bar2Base := rfl
@[simp] theorem setAcc_bar2Size (s : State) (a : Nat) (x : Acc) : (setAcc s a x).bar2Size = s.bar2Size := rfl
@[simp] theorem setAcc_poolroot (s : State) (a : Nat) (x : Acc) : (setAcc s a x).poolroot = s.poolroot := rfl
@[simp] theorem setAcc_poolrootLive (s : State) (a : Nat) (x : Acc) : (setAcc s a x).poolrootLive = s.poolrootLive := rfl
@[simp] theorem setAcc_poolTlb (s : State) (a : Nat) (x : Acc) : (setAcc s a x).poolTlb = s.poolTlb := rfl
@[simp] theorem setAcc_poolPoison (s : State) (a : Nat) (x : Acc) : (setAcc s a x).poolPoison = s.poolPoison := rfl
@[simp] theorem setAcc_regions (s : State) (a : Nat) (x : Acc) : (setAcc s a x).regions = s.regions := rfl
@[simp] theorem setAcc_poolRefused (s : State) (a : Nat) (x : Acc) : (setAcc s a x).poolRefused = s.poolRefused := rfl
@[simp] theorem setAcc_portsUp (s : State) (a : Nat) (x : Acc) : (setAcc s a x).portsUp = s.portsUp := rfl
@[simp] theorem setAcc_llHead (s : State) (a : Nat) (x : Acc) : (setAcc s a x).llHead = s.llHead := rfl
@[simp] theorem setAcc_llDrop (s : State) (a : Nat) (x : Acc) : (setAcc s a x).llDrop = s.llDrop := rfl
@[simp] theorem setAcc_groups (s : State) (a : Nat) (x : Acc) : (setAcc s a x).groups = s.groups := rfl
@[simp] theorem setAcc_bar0 (s : State) (a : Nat) (x : Acc) : (setAcc s a x).bar0 = s.bar0 := rfl
@[simp] theorem setAcc_linksDown (s : State) (a : Nat) (x : Acc) : (setAcc s a x).linksDown = s.linksDown := rfl
@[simp] theorem setAcc_streams (s : State) (a : Nat) (x : Acc) : (setAcc s a x).streams = s.streams := rfl
@[simp] theorem setAcc_rootWrites (s : State) (a : Nat) (x : Acc) : (setAcc s a x).rootWrites = s.rootWrites := rfl
@[simp] theorem setAcc_records (s : State) (a : Nat) (x : Acc) : (setAcc s a x).records = s.records := rfl
@[simp] theorem setAcc_notices (s : State) (a : Nat) (x : Acc) : (setAcc s a x).notices = s.notices := rfl
@[simp] theorem setAcc_holders (s : State) (a : Nat) (x : Acc) : (setAcc s a x).holders = s.holders := rfl
@[simp] theorem setAcc_nextLaunch (s : State) (a : Nat) (x : Acc) : (setAcc s a x).nextLaunch = s.nextLaunch := rfl
@[simp] theorem setAcc_lastTake (s : State) (a : Nat) (x : Acc) : (setAcc s a x).lastTake = s.lastTake := rfl
@[simp] theorem setAcc_nextOwed (s : State) (a : Nat) (x : Acc) : (setAcc s a x).nextOwed = s.nextOwed := rfl
@[simp] theorem setAcc_outbox (s : State) (a : Nat) (x : Acc) : (setAcc s a x).outbox = s.outbox := rfl
@[simp] theorem setAcc_lmsLeaf (s : State) (a : Nat) (x : Acc) : (setAcc s a x).lmsLeaf = s.lmsLeaf := rfl
@[simp] theorem setAcc_report (s : State) (a : Nat) (x : Acc) : (setAcc s a x).report = s.report := rfl
@[simp] theorem setAcc_debugMode (s : State) (a : Nat) (x : Acc) : (setAcc s a x).debugMode = s.debugMode := rfl
@[simp] theorem setAcc_booted (s : State) (a : Nat) (x : Acc) : (setAcc s a x).booted = s.booted := rfl
@[simp] theorem setAcc_hostReply (s : State) (a : Nat) (x : Acc) : (setAcc s a x).hostReply = s.hostReply := rfl
@[simp] theorem setAcc_printed (s : State) (a : Nat) (x : Acc) : (setAcc s a x).printed = s.printed := rfl
@[simp] theorem setAcc_freeCtr (s : State) (a : Nat) (x : Acc) : (setAcc s a x).freeCtr = s.freeCtr := rfl
@[simp] theorem setAcc_task_pc (s : State) (a : Nat) (x : Acc) : (setAcc s a x).task.pc = s.task.pc := rfl
@[simp] theorem setAcc_task_repLeft (s : State) (a : Nat) (x : Acc) : (setAcc s a x).task.repLeft = s.task.repLeft := rfl
@[simp] theorem setAcc_task_skip (s : State) (a : Nat) (x : Acc) : (setAcc s a x).task.skip = s.task.skip := rfl
@[simp] theorem setAcc_task_sregs (s : State) (a : Nat) (x : Acc) : (setAcc s a x).task.sregs = s.task.sregs := rfl
@[simp] theorem setAcc_task_preds (s : State) (a : Nat) (x : Acc) : (setAcc s a x).task.preds = s.task.preds := rfl
@[simp] theorem setAcc_task_tiles (s : State) (a : Nat) (x : Acc) : (setAcc s a x).task.tiles = s.task.tiles := rfl
@[simp] theorem setAcc_task_rims (s : State) (a : Nat) (x : Acc) : (setAcc s a x).task.rims = s.task.rims := rfl
@[simp] theorem setAcc_task_omap (s : State) (a : Nat) (x : Acc) : (setAcc s a x).task.omap = s.task.omap := rfl
@[simp] theorem setAcc_task_ofs (s : State) (a : Nat) (x : Acc) : (setAcc s a x).task.ofs = s.task.ofs := rfl
@[simp] theorem setAcc_task_ofstep (s : State) (a : Nat) (x : Acc) : (setAcc s a x).task.ofstep = s.task.ofstep := rfl
@[simp] theorem setAcc_task_fpcsr (s : State) (a : Nat) (x : Acc) : (setAcc s a x).task.fpcsr = s.task.fpcsr := rfl
@[simp] theorem setAcc_task_amax (s : State) (a : Nat) (x : Acc) : (setAcc s a x).task.amax = s.task.amax := rfl
@[simp] theorem setAcc_task_slatch (s : State) (a : Nat) (x : Acc) : (setAcc s a x).task.slatch = s.task.slatch := rfl
@[simp] theorem setAcc_task_frcnt (s : State) (a : Nat) (x : Acc) : (setAcc s a x).task.frcnt = s.task.frcnt := rfl
@[simp] theorem setAcc_task_mfmt (s : State) (a : Nat) (x : Acc) : (setAcc s a x).task.mfmt = s.task.mfmt := rfl
@[simp] theorem setAcc_task_discards (s : State) (a : Nat) (x : Acc) : (setAcc s a x).task.discards = s.task.discards := rfl
@[simp] theorem setAcc_task_bt (s : State) (a : Nat) (x : Acc) : (setAcc s a x).task.bt = s.task.bt := rfl
@[simp] theorem setAcc_task_weight (s : State) (a : Nat) (x : Acc) : (setAcc s a x).task.weight = s.task.weight := rfl
@[simp] theorem setAcc_task_taskId (s : State) (a : Nat) (x : Acc) : (setAcc s a x).task.taskId = s.task.taskId := rfl
@[simp] theorem setAcc_task_launchId (s : State) (a : Nat) (x : Acc) : (setAcc s a x).task.launchId = s.task.launchId := rfl
@[simp] theorem setAcc_task_tbase (s : State) (a : Nat) (x : Acc) : (setAcc s a x).task.tbase = s.task.tbase := rfl
@[simp] theorem setAcc_task_kbase (s : State) (a : Nat) (x : Acc) : (setAcc s a x).task.kbase = s.task.kbase := rfl
@[simp] theorem setAcc_task_abase (s : State) (a : Nat) (x : Acc) : (setAcc s a x).task.abase = s.task.abase := rfl
@[simp] theorem setAcc_task_quota (s : State) (a : Nat) (x : Acc) : (setAcc s a x).task.quota = s.task.quota := rfl
@[simp] theorem setAcc_task_prebound (s : State) (a : Nat) (x : Acc) : (setAcc s a x).task.prebound = s.task.prebound := rfl
@[simp] theorem setAcc_task_sinceSp (s : State) (a : Nat) (x : Acc) : (setAcc s a x).task.sinceSp = s.task.sinceSp := rfl
@[simp] theorem setAcc_task_taskctl (s : State) (a : Nat) (x : Acc) : (setAcc s a x).task.taskctl = s.task.taskctl := rfl
@[simp] theorem setAcc_task_streamsel (s : State) (a : Nat) (x : Acc) : (setAcc s a x).task.streamsel = s.task.streamsel := rfl
@[simp] theorem setAcc_task_phasectl (s : State) (a : Nat) (x : Acc) : (setAcc s a x).task.phasectl = s.task.phasectl := rfl
@[simp] theorem setAcc_task_checkpoint (s : State) (a : Nat) (x : Acc) : (setAcc s a x).task.checkpoint = s.task.checkpoint := rfl
@[simp] theorem setAcc_task_heldCopies (s : State) (a : Nat) (x : Acc) : (setAcc s a x).task.heldCopies = s.task.heldCopies := rfl
@[simp] theorem setAcc_task_sfcm (s : State) (a : Nat) (x : Acc) : (setAcc s a x).task.sfcm = s.task.sfcm := rfl
@[simp] theorem setAcc_task_trapcause (s : State) (a : Nat) (x : Acc) : (setAcc s a x).task.trapcause = s.task.trapcause := rfl
@[simp] theorem setAcc_task_trappc (s : State) (a : Nat) (x : Acc) : (setAcc s a x).task.trappc = s.task.trappc := rfl
@[simp] theorem setAcc_task_trapva (s : State) (a : Nat) (x : Acc) : (setAcc s a x).task.trapva = s.task.trapva := rfl
@[simp] theorem setAcc_task_trapinfo (s : State) (a : Nat) (x : Acc) : (setAcc s a x).task.trapinfo = s.task.trapinfo := rfl
@[simp] theorem setAcc_task_tvec (s : State) (a : Nat) (x : Acc) : (setAcc s a x).task.tvec = s.task.tvec := rfl
@[simp] theorem setAcc_task_snapExposed (s : State) (a : Nat) (x : Acc) : (setAcc s a x).task.snapExposed = s.task.snapExposed := rfl
@[simp] theorem setAcc_task_snapReplay (s : State) (a : Nat) (x : Acc) : (setAcc s a x).task.snapReplay = s.task.snapReplay := rfl
@[simp] theorem setAcc_task_snapPending (s : State) (a : Nat) (x : Acc) : (setAcc s a x).task.snapPending = s.task.snapPending := rfl
@[simp] theorem setAcc_task_snapSkip (s : State) (a : Nat) (x : Acc) : (setAcc s a x).task.snapSkip = s.task.snapSkip := rfl
@[simp] theorem setAcc_task_supervisor (s : State) (a : Nat) (x : Acc) : (setAcc s a x).task.supervisor = s.task.supervisor := rfl
@[simp] theorem setAcc_task_replays (s : State) (a : Nat) (x : Acc) : (setAcc s a x).task.replays = s.task.replays := rfl
@[simp] theorem setAcc_task_inflight (s : State) (a : Nat) (x : Acc) : (setAcc s a x).task.inflight = s.task.inflight := rfl
@[simp] theorem setAcc_task_owed (s : State) (a : Nat) (x : Acc) : (setAcc s a x).task.owed = s.task.owed := rfl
@[simp] theorem setAcc_task_detected (s : State) (a : Nat) (x : Acc) : (setAcc s a x).task.detected = s.task.detected := rfl
@[simp] theorem setAcc_task_cancel (s : State) (a : Nat) (x : Acc) : (setAcc s a x).task.cancel = s.task.cancel := rfl
@[simp] theorem setAcc_task_waits (s : State) (a : Nat) (x : Acc) : (setAcc s a x).task.waits = s.task.waits := rfl
@[simp] theorem setAcc_task_rimWait (s : State) (a : Nat) (x : Acc) : (setAcc s a x).task.rimWait = s.task.rimWait := rfl
@[simp] theorem setAcc_task_latch (s : State) (a : Nat) (x : Acc) : (setAcc s a x).task.latch = s.task.latch := rfl
@[simp] theorem setAcc_task_hoops (s : State) (a : Nat) (x : Acc) : (setAcc s a x).task.hoops = s.task.hoops := rfl
@[simp] theorem setAcc_task_initRegs (s : State) (a : Nat) (x : Acc) : (setAcc s a x).task.initRegs = s.task.initRegs := rfl
@[simp] theorem setAcc_task_prio (s : State) (a : Nat) (x : Acc) : (setAcc s a x).task.prio = s.task.prio := rfl
@[simp] theorem setAcc_task_effClass (s : State) (a : Nat) (x : Acc) : (setAcc s a x).task.effClass = s.task.effClass := rfl
@[simp] theorem setAcc_task_place (s : State) (a : Nat) (x : Acc) : (setAcc s a x).task.place = s.task.place := rfl
@[simp] theorem setAcc_task_readySince (s : State) (a : Nat) (x : Acc) : (setAcc s a x).task.readySince = s.task.readySince := rfl
@[simp] theorem setAcc_task_aged (s : State) (a : Nat) (x : Acc) : (setAcc s a x).task.aged = s.task.aged := rfl
@[simp] theorem setAcc_task_placedAt (s : State) (a : Nat) (x : Acc) : (setAcc s a x).task.placedAt = s.task.placedAt := rfl
@[simp] theorem setAcc_task_spad (s : State) (a : Nat) (x : Acc) : (setAcc s a x).task.spad = s.task.spad := rfl
@[simp] theorem setAcc_task_regionOff (s : State) (a : Nat) (x : Acc) : (setAcc s a x).task.regionOff = s.task.regionOff := rfl
@[simp] theorem setAcc_task_btabVa (s : State) (a : Nat) (x : Acc) : (setAcc s a x).task.btabVa = s.task.btabVa := rfl
@[simp] theorem setAcc_task_quantum (s : State) (a : Nat) (x : Acc) : (setAcc s a x).task.quantum = s.task.quantum := rfl
@[simp] theorem setAcc_task_flow (s : State) (a : Nat) (x : Acc) : (setAcc s a x).task.flow = s.task.flow := rfl
@[simp] theorem setAcc_task_trapping (s : State) (a : Nat) (x : Acc) : (setAcc s a x).task.trapping = s.task.trapping := rfl
@[simp] theorem setAcc_task_stateWord (s : State) (a : Nat) (x : Acc) : (setAcc s a x).task.stateWord = s.task.stateWord := rfl
@[simp] theorem setAcc_task_atSafe (s : State) (a : Nat) (x : Acc) : (setAcc s a x).task.atSafe = s.task.atSafe := rfl
@[simp] theorem setAcc_task_preemptReq (s : State) (a : Nat) (x : Acc) : (setAcc s a x).task.preemptReq = s.task.preemptReq := rfl
@[simp] theorem setAcc_task_pendingExit (s : State) (a : Nat) (x : Acc) : (setAcc s a x).task.pendingExit = s.task.pendingExit := rfl
@[simp] theorem setAcc_task_versions (s : State) (a : Nat) (x : Acc) : (setAcc s a x).task.versions = s.task.versions := rfl
@[simp] theorem setAcc_task_replayQueue (s : State) (a : Nat) (x : Acc) : (setAcc s a x).task.replayQueue = s.task.replayQueue := rfl
@[simp] theorem setAcc_task_issuedReads (s : State) (a : Nat) (x : Acc) : (setAcc s a x).task.issuedReads = s.task.issuedReads := rfl
@[simp] theorem setAcc_task_parityBad (s : State) (a : Nat) (x : Acc) : (setAcc s a x).task.parityBad = s.task.parityBad := rfl
@[simp] theorem setAcc_task_snapBad (s : State) (a : Nat) (x : Acc) : (setAcc s a x).task.snapBad = s.task.snapBad := rfl

/-! ## `setOSlot` -/

@[simp] theorem setOSlot_tick (s : State) (p : Nat) (o : OSlot) : (setOSlot s p o).tick = s.tick := rfl
@[simp] theorem setOSlot_active (s : State) (p : Nat) (o : OSlot) : (setOSlot s p o).active = s.active := rfl
@[simp] theorem setOSlot_task (s : State) (p : Nat) (o : OSlot) : (setOSlot s p o).task = s.task := rfl
@[simp] theorem setOSlot_mem (s : State) (p : Nat) (o : OSlot) : (setOSlot s p o).mem = s.mem := rfl
@[simp] theorem setOSlot_cores (s : State) (p : Nat) (o : OSlot) : (setOSlot s p o).cores = s.cores := rfl
@[simp] theorem setOSlot_clusters (s : State) (p : Nat) (o : OSlot) : (setOSlot s p o).clusters = s.clusters := rfl
@[simp] theorem setOSlot_dies (s : State) (p : Nat) (o : OSlot) : (setOSlot s p o).dies = s.dies := rfl
@[simp] theorem setOSlot_agenda (s : State) (p : Nat) (o : OSlot) : (setOSlot s p o).agenda = s.agenda := rfl
@[simp] theorem setOSlot_breaks (s : State) (p : Nat) (o : OSlot) : (setOSlot s p o).breaks = s.breaks := rfl
@[simp] theorem setOSlot_moduleId (s : State) (p : Nat) (o : OSlot) : (setOSlot s p o).moduleId = s.moduleId := rfl
@[simp] theorem setOSlot_fabricOk (s : State) (p : Nat) (o : OSlot) : (setOSlot s p o).fabricOk = s.fabricOk := rfl
@[simp] theorem setOSlot_modules (s : State) (p : Nat) (o : OSlot) : (setOSlot s p o).modules = s.modules := rfl
@[simp] theorem setOSlot_dead (s : State) (p : Nat) (o : OSlot) : (setOSlot s p o).dead = s.dead := rfl
@[simp] theorem setOSlot_absent (s : State) (p : Nat) (o : OSlot) : (setOSlot s p o).absent = s.absent := rfl
@[simp] theorem setOSlot_clockMHz (s : State) (p : Nat) (o : OSlot) : (setOSlot s p o).clockMHz = s.clockMHz := rfl
@[simp] theorem setOSlot_bar2Base (s : State) (p : Nat) (o : OSlot) : (setOSlot s p o).bar2Base = s.bar2Base := rfl
@[simp] theorem setOSlot_bar2Size (s : State) (p : Nat) (o : OSlot) : (setOSlot s p o).bar2Size = s.bar2Size := rfl
@[simp] theorem setOSlot_poolroot (s : State) (p : Nat) (o : OSlot) : (setOSlot s p o).poolroot = s.poolroot := rfl
@[simp] theorem setOSlot_poolrootLive (s : State) (p : Nat) (o : OSlot) : (setOSlot s p o).poolrootLive = s.poolrootLive := rfl
@[simp] theorem setOSlot_poolTlb (s : State) (p : Nat) (o : OSlot) : (setOSlot s p o).poolTlb = s.poolTlb := rfl
@[simp] theorem setOSlot_poolPoison (s : State) (p : Nat) (o : OSlot) : (setOSlot s p o).poolPoison = s.poolPoison := rfl
@[simp] theorem setOSlot_regions (s : State) (p : Nat) (o : OSlot) : (setOSlot s p o).regions = s.regions := rfl
@[simp] theorem setOSlot_poolRefused (s : State) (p : Nat) (o : OSlot) : (setOSlot s p o).poolRefused = s.poolRefused := rfl
@[simp] theorem setOSlot_portsUp (s : State) (p : Nat) (o : OSlot) : (setOSlot s p o).portsUp = s.portsUp := rfl
@[simp] theorem setOSlot_llHead (s : State) (p : Nat) (o : OSlot) : (setOSlot s p o).llHead = s.llHead := rfl
@[simp] theorem setOSlot_llDrop (s : State) (p : Nat) (o : OSlot) : (setOSlot s p o).llDrop = s.llDrop := rfl
@[simp] theorem setOSlot_groups (s : State) (p : Nat) (o : OSlot) : (setOSlot s p o).groups = s.groups := rfl
@[simp] theorem setOSlot_bar0 (s : State) (p : Nat) (o : OSlot) : (setOSlot s p o).bar0 = s.bar0 := rfl
@[simp] theorem setOSlot_linksDown (s : State) (p : Nat) (o : OSlot) : (setOSlot s p o).linksDown = s.linksDown := rfl
@[simp] theorem setOSlot_streams (s : State) (p : Nat) (o : OSlot) : (setOSlot s p o).streams = s.streams := rfl
@[simp] theorem setOSlot_rootWrites (s : State) (p : Nat) (o : OSlot) : (setOSlot s p o).rootWrites = s.rootWrites := rfl
@[simp] theorem setOSlot_records (s : State) (p : Nat) (o : OSlot) : (setOSlot s p o).records = s.records := rfl
@[simp] theorem setOSlot_notices (s : State) (p : Nat) (o : OSlot) : (setOSlot s p o).notices = s.notices := rfl
@[simp] theorem setOSlot_holders (s : State) (p : Nat) (o : OSlot) : (setOSlot s p o).holders = s.holders := rfl
@[simp] theorem setOSlot_nextLaunch (s : State) (p : Nat) (o : OSlot) : (setOSlot s p o).nextLaunch = s.nextLaunch := rfl
@[simp] theorem setOSlot_lastTake (s : State) (p : Nat) (o : OSlot) : (setOSlot s p o).lastTake = s.lastTake := rfl
@[simp] theorem setOSlot_nextOwed (s : State) (p : Nat) (o : OSlot) : (setOSlot s p o).nextOwed = s.nextOwed := rfl
@[simp] theorem setOSlot_outbox (s : State) (p : Nat) (o : OSlot) : (setOSlot s p o).outbox = s.outbox := rfl
@[simp] theorem setOSlot_lmsLeaf (s : State) (p : Nat) (o : OSlot) : (setOSlot s p o).lmsLeaf = s.lmsLeaf := rfl
@[simp] theorem setOSlot_report (s : State) (p : Nat) (o : OSlot) : (setOSlot s p o).report = s.report := rfl
@[simp] theorem setOSlot_debugMode (s : State) (p : Nat) (o : OSlot) : (setOSlot s p o).debugMode = s.debugMode := rfl
@[simp] theorem setOSlot_booted (s : State) (p : Nat) (o : OSlot) : (setOSlot s p o).booted = s.booted := rfl
@[simp] theorem setOSlot_hostReply (s : State) (p : Nat) (o : OSlot) : (setOSlot s p o).hostReply = s.hostReply := rfl
@[simp] theorem setOSlot_printed (s : State) (p : Nat) (o : OSlot) : (setOSlot s p o).printed = s.printed := rfl
@[simp] theorem setOSlot_freeCtr (s : State) (p : Nat) (o : OSlot) : (setOSlot s p o).freeCtr = s.freeCtr := rfl
@[simp] theorem setOSlot_core_frames (s : State) (p : Nat) (o : OSlot) : (setOSlot s p o).core.frames = s.core.frames := rfl
@[simp] theorem setOSlot_core_run (s : State) (p : Nat) (o : OSlot) : (setOSlot s p o).core.run = s.core.run := rfl
@[simp] theorem setOSlot_core_lastRun (s : State) (p : Nat) (o : OSlot) : (setOSlot s p o).core.lastRun = s.core.lastRun := rfl
@[simp] theorem setOSlot_core_stopped (s : State) (p : Nat) (o : OSlot) : (setOSlot s p o).core.stopped = s.core.stopped := rfl
@[simp] theorem setOSlot_core_stepsLeft (s : State) (p : Nat) (o : OSlot) : (setOSlot s p o).core.stepsLeft = s.core.stepsLeft := rfl
@[simp] theorem setOSlot_core_passBreak (s : State) (p : Nat) (o : OSlot) : (setOSlot s p o).core.passBreak = s.core.passBreak := rfl
@[simp] theorem setOSlot_core_btab (s : State) (p : Nat) (o : OSlot) : (setOSlot s p o).core.btab = s.core.btab := rfl
@[simp] theorem setOSlot_core_btabBad (s : State) (p : Nat) (o : OSlot) : (setOSlot s p o).core.btabBad = s.core.btabBad := rfl
@[simp] theorem setOSlot_core_btabVa (s : State) (p : Nat) (o : OSlot) : (setOSlot s p o).core.btabVa = s.core.btabVa := rfl
@[simp] theorem setOSlot_core_image (s : State) (p : Nat) (o : OSlot) : (setOSlot s p o).core.image = s.core.image := rfl
@[simp] theorem setOSlot_core_smap (s : State) (p : Nat) (o : OSlot) : (setOSlot s p o).core.smap = s.core.smap := rfl
@[simp] theorem setOSlot_core_winLaunch (s : State) (p : Nat) (o : OSlot) : (setOSlot s p o).core.winLaunch = s.core.winLaunch := rfl
@[simp] theorem setOSlot_core_lines (s : State) (p : Nat) (o : OSlot) : (setOSlot s p o).core.lines = s.core.lines := rfl
@[simp] theorem setOSlot_core_fills (s : State) (p : Nat) (o : OSlot) : (setOSlot s p o).core.fills = s.core.fills := rfl
@[simp] theorem setOSlot_core_sent (s : State) (p : Nat) (o : OSlot) : (setOSlot s p o).core.sent = s.core.sent := rfl
@[simp] theorem setOSlot_core_eccBad (s : State) (p : Nat) (o : OSlot) : (setOSlot s p o).core.eccBad = s.core.eccBad := rfl
@[simp] theorem setOSlot_core_eccOnce (s : State) (p : Nat) (o : OSlot) : (setOSlot s p o).core.eccOnce = s.core.eccOnce := rfl
@[simp] theorem setOSlot_core_pass (s : State) (p : Nat) (o : OSlot) : (setOSlot s p o).core.pass = s.core.pass := rfl
@[simp] theorem setOSlot_core_slotmap (s : State) (p : Nat) (o : OSlot) : (setOSlot s p o).core.slotmap = s.core.slotmap := rfl
@[simp] theorem setOSlot_core_channels (s : State) (p : Nat) (o : OSlot) : (setOSlot s p o).core.channels = s.core.channels := rfl
@[simp] theorem setOSlot_core_packetChannel (s : State) (p : Nat) (o : OSlot) : (setOSlot s p o).core.packetChannel = s.core.packetChannel := rfl

/-! ## `detect` -/

@[simp] theorem detect_tick (s : State) (d : Detected) : (detect s d).tick = s.tick := rfl
@[simp] theorem detect_active (s : State) (d : Detected) : (detect s d).active = s.active := rfl
@[simp] theorem detect_core (s : State) (d : Detected) : (detect s d).core = s.core := rfl
@[simp] theorem detect_mem (s : State) (d : Detected) : (detect s d).mem = s.mem := rfl
@[simp] theorem detect_cores (s : State) (d : Detected) : (detect s d).cores = s.cores := rfl
@[simp] theorem detect_clusters (s : State) (d : Detected) : (detect s d).clusters = s.clusters := rfl
@[simp] theorem detect_dies (s : State) (d : Detected) : (detect s d).dies = s.dies := rfl
@[simp] theorem detect_agenda (s : State) (d : Detected) : (detect s d).agenda = s.agenda := rfl
@[simp] theorem detect_breaks (s : State) (d : Detected) : (detect s d).breaks = s.breaks := rfl
@[simp] theorem detect_moduleId (s : State) (d : Detected) : (detect s d).moduleId = s.moduleId := rfl
@[simp] theorem detect_fabricOk (s : State) (d : Detected) : (detect s d).fabricOk = s.fabricOk := rfl
@[simp] theorem detect_modules (s : State) (d : Detected) : (detect s d).modules = s.modules := rfl
@[simp] theorem detect_dead (s : State) (d : Detected) : (detect s d).dead = s.dead := rfl
@[simp] theorem detect_absent (s : State) (d : Detected) : (detect s d).absent = s.absent := rfl
@[simp] theorem detect_clockMHz (s : State) (d : Detected) : (detect s d).clockMHz = s.clockMHz := rfl
@[simp] theorem detect_bar2Base (s : State) (d : Detected) : (detect s d).bar2Base = s.bar2Base := rfl
@[simp] theorem detect_bar2Size (s : State) (d : Detected) : (detect s d).bar2Size = s.bar2Size := rfl
@[simp] theorem detect_poolroot (s : State) (d : Detected) : (detect s d).poolroot = s.poolroot := rfl
@[simp] theorem detect_poolrootLive (s : State) (d : Detected) : (detect s d).poolrootLive = s.poolrootLive := rfl
@[simp] theorem detect_poolTlb (s : State) (d : Detected) : (detect s d).poolTlb = s.poolTlb := rfl
@[simp] theorem detect_poolPoison (s : State) (d : Detected) : (detect s d).poolPoison = s.poolPoison := rfl
@[simp] theorem detect_regions (s : State) (d : Detected) : (detect s d).regions = s.regions := rfl
@[simp] theorem detect_poolRefused (s : State) (d : Detected) : (detect s d).poolRefused = s.poolRefused := rfl
@[simp] theorem detect_portsUp (s : State) (d : Detected) : (detect s d).portsUp = s.portsUp := rfl
@[simp] theorem detect_llHead (s : State) (d : Detected) : (detect s d).llHead = s.llHead := rfl
@[simp] theorem detect_llDrop (s : State) (d : Detected) : (detect s d).llDrop = s.llDrop := rfl
@[simp] theorem detect_groups (s : State) (d : Detected) : (detect s d).groups = s.groups := rfl
@[simp] theorem detect_bar0 (s : State) (d : Detected) : (detect s d).bar0 = s.bar0 := rfl
@[simp] theorem detect_linksDown (s : State) (d : Detected) : (detect s d).linksDown = s.linksDown := rfl
@[simp] theorem detect_streams (s : State) (d : Detected) : (detect s d).streams = s.streams := rfl
@[simp] theorem detect_rootWrites (s : State) (d : Detected) : (detect s d).rootWrites = s.rootWrites := rfl
@[simp] theorem detect_records (s : State) (d : Detected) : (detect s d).records = s.records := rfl
@[simp] theorem detect_notices (s : State) (d : Detected) : (detect s d).notices = s.notices := rfl
@[simp] theorem detect_holders (s : State) (d : Detected) : (detect s d).holders = s.holders := rfl
@[simp] theorem detect_nextLaunch (s : State) (d : Detected) : (detect s d).nextLaunch = s.nextLaunch := rfl
@[simp] theorem detect_lastTake (s : State) (d : Detected) : (detect s d).lastTake = s.lastTake := rfl
@[simp] theorem detect_nextOwed (s : State) (d : Detected) : (detect s d).nextOwed = s.nextOwed := rfl
@[simp] theorem detect_outbox (s : State) (d : Detected) : (detect s d).outbox = s.outbox := rfl
@[simp] theorem detect_lmsLeaf (s : State) (d : Detected) : (detect s d).lmsLeaf = s.lmsLeaf := rfl
@[simp] theorem detect_report (s : State) (d : Detected) : (detect s d).report = s.report := rfl
@[simp] theorem detect_debugMode (s : State) (d : Detected) : (detect s d).debugMode = s.debugMode := rfl
@[simp] theorem detect_booted (s : State) (d : Detected) : (detect s d).booted = s.booted := rfl
@[simp] theorem detect_hostReply (s : State) (d : Detected) : (detect s d).hostReply = s.hostReply := rfl
@[simp] theorem detect_printed (s : State) (d : Detected) : (detect s d).printed = s.printed := rfl
@[simp] theorem detect_freeCtr (s : State) (d : Detected) : (detect s d).freeCtr = s.freeCtr := rfl
@[simp] theorem detect_task_pc (s : State) (d : Detected) : (detect s d).task.pc = s.task.pc := rfl
@[simp] theorem detect_task_repLeft (s : State) (d : Detected) : (detect s d).task.repLeft = s.task.repLeft := rfl
@[simp] theorem detect_task_skip (s : State) (d : Detected) : (detect s d).task.skip = s.task.skip := rfl
@[simp] theorem detect_task_sregs (s : State) (d : Detected) : (detect s d).task.sregs = s.task.sregs := rfl
@[simp] theorem detect_task_preds (s : State) (d : Detected) : (detect s d).task.preds = s.task.preds := rfl
@[simp] theorem detect_task_tiles (s : State) (d : Detected) : (detect s d).task.tiles = s.task.tiles := rfl
@[simp] theorem detect_task_rims (s : State) (d : Detected) : (detect s d).task.rims = s.task.rims := rfl
@[simp] theorem detect_task_accs (s : State) (d : Detected) : (detect s d).task.accs = s.task.accs := rfl
@[simp] theorem detect_task_omap (s : State) (d : Detected) : (detect s d).task.omap = s.task.omap := rfl
@[simp] theorem detect_task_ofs (s : State) (d : Detected) : (detect s d).task.ofs = s.task.ofs := rfl
@[simp] theorem detect_task_ofstep (s : State) (d : Detected) : (detect s d).task.ofstep = s.task.ofstep := rfl
@[simp] theorem detect_task_fpcsr (s : State) (d : Detected) : (detect s d).task.fpcsr = s.task.fpcsr := rfl
@[simp] theorem detect_task_amax (s : State) (d : Detected) : (detect s d).task.amax = s.task.amax := rfl
@[simp] theorem detect_task_slatch (s : State) (d : Detected) : (detect s d).task.slatch = s.task.slatch := rfl
@[simp] theorem detect_task_frcnt (s : State) (d : Detected) : (detect s d).task.frcnt = s.task.frcnt := rfl
@[simp] theorem detect_task_mfmt (s : State) (d : Detected) : (detect s d).task.mfmt = s.task.mfmt := rfl
@[simp] theorem detect_task_discards (s : State) (d : Detected) : (detect s d).task.discards = s.task.discards := rfl
@[simp] theorem detect_task_bt (s : State) (d : Detected) : (detect s d).task.bt = s.task.bt := rfl
@[simp] theorem detect_task_weight (s : State) (d : Detected) : (detect s d).task.weight = s.task.weight := rfl
@[simp] theorem detect_task_taskId (s : State) (d : Detected) : (detect s d).task.taskId = s.task.taskId := rfl
@[simp] theorem detect_task_launchId (s : State) (d : Detected) : (detect s d).task.launchId = s.task.launchId := rfl
@[simp] theorem detect_task_tbase (s : State) (d : Detected) : (detect s d).task.tbase = s.task.tbase := rfl
@[simp] theorem detect_task_kbase (s : State) (d : Detected) : (detect s d).task.kbase = s.task.kbase := rfl
@[simp] theorem detect_task_abase (s : State) (d : Detected) : (detect s d).task.abase = s.task.abase := rfl
@[simp] theorem detect_task_quota (s : State) (d : Detected) : (detect s d).task.quota = s.task.quota := rfl
@[simp] theorem detect_task_prebound (s : State) (d : Detected) : (detect s d).task.prebound = s.task.prebound := rfl
@[simp] theorem detect_task_sinceSp (s : State) (d : Detected) : (detect s d).task.sinceSp = s.task.sinceSp := rfl
@[simp] theorem detect_task_taskctl (s : State) (d : Detected) : (detect s d).task.taskctl = s.task.taskctl := rfl
@[simp] theorem detect_task_streamsel (s : State) (d : Detected) : (detect s d).task.streamsel = s.task.streamsel := rfl
@[simp] theorem detect_task_phasectl (s : State) (d : Detected) : (detect s d).task.phasectl = s.task.phasectl := rfl
@[simp] theorem detect_task_checkpoint (s : State) (d : Detected) : (detect s d).task.checkpoint = s.task.checkpoint := rfl
@[simp] theorem detect_task_heldCopies (s : State) (d : Detected) : (detect s d).task.heldCopies = s.task.heldCopies := rfl
@[simp] theorem detect_task_sfcm (s : State) (d : Detected) : (detect s d).task.sfcm = s.task.sfcm := rfl
@[simp] theorem detect_task_trapcause (s : State) (d : Detected) : (detect s d).task.trapcause = s.task.trapcause := rfl
@[simp] theorem detect_task_trappc (s : State) (d : Detected) : (detect s d).task.trappc = s.task.trappc := rfl
@[simp] theorem detect_task_trapva (s : State) (d : Detected) : (detect s d).task.trapva = s.task.trapva := rfl
@[simp] theorem detect_task_trapinfo (s : State) (d : Detected) : (detect s d).task.trapinfo = s.task.trapinfo := rfl
@[simp] theorem detect_task_tvec (s : State) (d : Detected) : (detect s d).task.tvec = s.task.tvec := rfl
@[simp] theorem detect_task_snapExposed (s : State) (d : Detected) : (detect s d).task.snapExposed = s.task.snapExposed := rfl
@[simp] theorem detect_task_snapReplay (s : State) (d : Detected) : (detect s d).task.snapReplay = s.task.snapReplay := rfl
@[simp] theorem detect_task_snapPending (s : State) (d : Detected) : (detect s d).task.snapPending = s.task.snapPending := rfl
@[simp] theorem detect_task_snapSkip (s : State) (d : Detected) : (detect s d).task.snapSkip = s.task.snapSkip := rfl
@[simp] theorem detect_task_supervisor (s : State) (d : Detected) : (detect s d).task.supervisor = s.task.supervisor := rfl
@[simp] theorem detect_task_replays (s : State) (d : Detected) : (detect s d).task.replays = s.task.replays := rfl
@[simp] theorem detect_task_inflight (s : State) (d : Detected) : (detect s d).task.inflight = s.task.inflight := rfl
@[simp] theorem detect_task_owed (s : State) (d : Detected) : (detect s d).task.owed = s.task.owed := rfl
@[simp] theorem detect_task_cancel (s : State) (d : Detected) : (detect s d).task.cancel = s.task.cancel := rfl
@[simp] theorem detect_task_waits (s : State) (d : Detected) : (detect s d).task.waits = s.task.waits := rfl
@[simp] theorem detect_task_rimWait (s : State) (d : Detected) : (detect s d).task.rimWait = s.task.rimWait := rfl
@[simp] theorem detect_task_latch (s : State) (d : Detected) : (detect s d).task.latch = s.task.latch := rfl
@[simp] theorem detect_task_hoops (s : State) (d : Detected) : (detect s d).task.hoops = s.task.hoops := rfl
@[simp] theorem detect_task_initRegs (s : State) (d : Detected) : (detect s d).task.initRegs = s.task.initRegs := rfl
@[simp] theorem detect_task_prio (s : State) (d : Detected) : (detect s d).task.prio = s.task.prio := rfl
@[simp] theorem detect_task_effClass (s : State) (d : Detected) : (detect s d).task.effClass = s.task.effClass := rfl
@[simp] theorem detect_task_place (s : State) (d : Detected) : (detect s d).task.place = s.task.place := rfl
@[simp] theorem detect_task_readySince (s : State) (d : Detected) : (detect s d).task.readySince = s.task.readySince := rfl
@[simp] theorem detect_task_aged (s : State) (d : Detected) : (detect s d).task.aged = s.task.aged := rfl
@[simp] theorem detect_task_placedAt (s : State) (d : Detected) : (detect s d).task.placedAt = s.task.placedAt := rfl
@[simp] theorem detect_task_spad (s : State) (d : Detected) : (detect s d).task.spad = s.task.spad := rfl
@[simp] theorem detect_task_regionOff (s : State) (d : Detected) : (detect s d).task.regionOff = s.task.regionOff := rfl
@[simp] theorem detect_task_btabVa (s : State) (d : Detected) : (detect s d).task.btabVa = s.task.btabVa := rfl
@[simp] theorem detect_task_quantum (s : State) (d : Detected) : (detect s d).task.quantum = s.task.quantum := rfl
@[simp] theorem detect_task_flow (s : State) (d : Detected) : (detect s d).task.flow = s.task.flow := rfl
@[simp] theorem detect_task_trapping (s : State) (d : Detected) : (detect s d).task.trapping = s.task.trapping := rfl
@[simp] theorem detect_task_stateWord (s : State) (d : Detected) : (detect s d).task.stateWord = s.task.stateWord := rfl
@[simp] theorem detect_task_atSafe (s : State) (d : Detected) : (detect s d).task.atSafe = s.task.atSafe := rfl
@[simp] theorem detect_task_preemptReq (s : State) (d : Detected) : (detect s d).task.preemptReq = s.task.preemptReq := rfl
@[simp] theorem detect_task_pendingExit (s : State) (d : Detected) : (detect s d).task.pendingExit = s.task.pendingExit := rfl
@[simp] theorem detect_task_versions (s : State) (d : Detected) : (detect s d).task.versions = s.task.versions := rfl
@[simp] theorem detect_task_replayQueue (s : State) (d : Detected) : (detect s d).task.replayQueue = s.task.replayQueue := rfl
@[simp] theorem detect_task_issuedReads (s : State) (d : Detected) : (detect s d).task.issuedReads = s.task.issuedReads := rfl
@[simp] theorem detect_task_parityBad (s : State) (d : Detected) : (detect s d).task.parityBad = s.task.parityBad := rfl
@[simp] theorem detect_task_snapBad (s : State) (d : Detected) : (detect s d).task.snapBad = s.task.snapBad := rfl

/-! ## `goTo` -/

@[simp] theorem goTo_tick (s : State) (p : Word) : (goTo s p).tick = s.tick := rfl
@[simp] theorem goTo_active (s : State) (p : Word) : (goTo s p).active = s.active := rfl
@[simp] theorem goTo_core (s : State) (p : Word) : (goTo s p).core = s.core := rfl
@[simp] theorem goTo_mem (s : State) (p : Word) : (goTo s p).mem = s.mem := rfl
@[simp] theorem goTo_cores (s : State) (p : Word) : (goTo s p).cores = s.cores := rfl
@[simp] theorem goTo_clusters (s : State) (p : Word) : (goTo s p).clusters = s.clusters := rfl
@[simp] theorem goTo_dies (s : State) (p : Word) : (goTo s p).dies = s.dies := rfl
@[simp] theorem goTo_agenda (s : State) (p : Word) : (goTo s p).agenda = s.agenda := rfl
@[simp] theorem goTo_breaks (s : State) (p : Word) : (goTo s p).breaks = s.breaks := rfl
@[simp] theorem goTo_moduleId (s : State) (p : Word) : (goTo s p).moduleId = s.moduleId := rfl
@[simp] theorem goTo_fabricOk (s : State) (p : Word) : (goTo s p).fabricOk = s.fabricOk := rfl
@[simp] theorem goTo_modules (s : State) (p : Word) : (goTo s p).modules = s.modules := rfl
@[simp] theorem goTo_dead (s : State) (p : Word) : (goTo s p).dead = s.dead := rfl
@[simp] theorem goTo_absent (s : State) (p : Word) : (goTo s p).absent = s.absent := rfl
@[simp] theorem goTo_clockMHz (s : State) (p : Word) : (goTo s p).clockMHz = s.clockMHz := rfl
@[simp] theorem goTo_bar2Base (s : State) (p : Word) : (goTo s p).bar2Base = s.bar2Base := rfl
@[simp] theorem goTo_bar2Size (s : State) (p : Word) : (goTo s p).bar2Size = s.bar2Size := rfl
@[simp] theorem goTo_poolroot (s : State) (p : Word) : (goTo s p).poolroot = s.poolroot := rfl
@[simp] theorem goTo_poolrootLive (s : State) (p : Word) : (goTo s p).poolrootLive = s.poolrootLive := rfl
@[simp] theorem goTo_poolTlb (s : State) (p : Word) : (goTo s p).poolTlb = s.poolTlb := rfl
@[simp] theorem goTo_poolPoison (s : State) (p : Word) : (goTo s p).poolPoison = s.poolPoison := rfl
@[simp] theorem goTo_regions (s : State) (p : Word) : (goTo s p).regions = s.regions := rfl
@[simp] theorem goTo_poolRefused (s : State) (p : Word) : (goTo s p).poolRefused = s.poolRefused := rfl
@[simp] theorem goTo_portsUp (s : State) (p : Word) : (goTo s p).portsUp = s.portsUp := rfl
@[simp] theorem goTo_llHead (s : State) (p : Word) : (goTo s p).llHead = s.llHead := rfl
@[simp] theorem goTo_llDrop (s : State) (p : Word) : (goTo s p).llDrop = s.llDrop := rfl
@[simp] theorem goTo_groups (s : State) (p : Word) : (goTo s p).groups = s.groups := rfl
@[simp] theorem goTo_bar0 (s : State) (p : Word) : (goTo s p).bar0 = s.bar0 := rfl
@[simp] theorem goTo_linksDown (s : State) (p : Word) : (goTo s p).linksDown = s.linksDown := rfl
@[simp] theorem goTo_streams (s : State) (p : Word) : (goTo s p).streams = s.streams := rfl
@[simp] theorem goTo_rootWrites (s : State) (p : Word) : (goTo s p).rootWrites = s.rootWrites := rfl
@[simp] theorem goTo_records (s : State) (p : Word) : (goTo s p).records = s.records := rfl
@[simp] theorem goTo_notices (s : State) (p : Word) : (goTo s p).notices = s.notices := rfl
@[simp] theorem goTo_holders (s : State) (p : Word) : (goTo s p).holders = s.holders := rfl
@[simp] theorem goTo_nextLaunch (s : State) (p : Word) : (goTo s p).nextLaunch = s.nextLaunch := rfl
@[simp] theorem goTo_lastTake (s : State) (p : Word) : (goTo s p).lastTake = s.lastTake := rfl
@[simp] theorem goTo_nextOwed (s : State) (p : Word) : (goTo s p).nextOwed = s.nextOwed := rfl
@[simp] theorem goTo_outbox (s : State) (p : Word) : (goTo s p).outbox = s.outbox := rfl
@[simp] theorem goTo_lmsLeaf (s : State) (p : Word) : (goTo s p).lmsLeaf = s.lmsLeaf := rfl
@[simp] theorem goTo_report (s : State) (p : Word) : (goTo s p).report = s.report := rfl
@[simp] theorem goTo_debugMode (s : State) (p : Word) : (goTo s p).debugMode = s.debugMode := rfl
@[simp] theorem goTo_booted (s : State) (p : Word) : (goTo s p).booted = s.booted := rfl
@[simp] theorem goTo_hostReply (s : State) (p : Word) : (goTo s p).hostReply = s.hostReply := rfl
@[simp] theorem goTo_printed (s : State) (p : Word) : (goTo s p).printed = s.printed := rfl
@[simp] theorem goTo_freeCtr (s : State) (p : Word) : (goTo s p).freeCtr = s.freeCtr := rfl
@[simp] theorem goTo_task_pc (s : State) (p : Word) : (goTo s p).task.pc = s.task.pc := rfl
@[simp] theorem goTo_task_repLeft (s : State) (p : Word) : (goTo s p).task.repLeft = s.task.repLeft := rfl
@[simp] theorem goTo_task_skip (s : State) (p : Word) : (goTo s p).task.skip = s.task.skip := rfl
@[simp] theorem goTo_task_sregs (s : State) (p : Word) : (goTo s p).task.sregs = s.task.sregs := rfl
@[simp] theorem goTo_task_preds (s : State) (p : Word) : (goTo s p).task.preds = s.task.preds := rfl
@[simp] theorem goTo_task_tiles (s : State) (p : Word) : (goTo s p).task.tiles = s.task.tiles := rfl
@[simp] theorem goTo_task_rims (s : State) (p : Word) : (goTo s p).task.rims = s.task.rims := rfl
@[simp] theorem goTo_task_accs (s : State) (p : Word) : (goTo s p).task.accs = s.task.accs := rfl
@[simp] theorem goTo_task_omap (s : State) (p : Word) : (goTo s p).task.omap = s.task.omap := rfl
@[simp] theorem goTo_task_ofs (s : State) (p : Word) : (goTo s p).task.ofs = s.task.ofs := rfl
@[simp] theorem goTo_task_ofstep (s : State) (p : Word) : (goTo s p).task.ofstep = s.task.ofstep := rfl
@[simp] theorem goTo_task_fpcsr (s : State) (p : Word) : (goTo s p).task.fpcsr = s.task.fpcsr := rfl
@[simp] theorem goTo_task_amax (s : State) (p : Word) : (goTo s p).task.amax = s.task.amax := rfl
@[simp] theorem goTo_task_slatch (s : State) (p : Word) : (goTo s p).task.slatch = s.task.slatch := rfl
@[simp] theorem goTo_task_frcnt (s : State) (p : Word) : (goTo s p).task.frcnt = s.task.frcnt := rfl
@[simp] theorem goTo_task_mfmt (s : State) (p : Word) : (goTo s p).task.mfmt = s.task.mfmt := rfl
@[simp] theorem goTo_task_discards (s : State) (p : Word) : (goTo s p).task.discards = s.task.discards := rfl
@[simp] theorem goTo_task_bt (s : State) (p : Word) : (goTo s p).task.bt = s.task.bt := rfl
@[simp] theorem goTo_task_weight (s : State) (p : Word) : (goTo s p).task.weight = s.task.weight := rfl
@[simp] theorem goTo_task_taskId (s : State) (p : Word) : (goTo s p).task.taskId = s.task.taskId := rfl
@[simp] theorem goTo_task_launchId (s : State) (p : Word) : (goTo s p).task.launchId = s.task.launchId := rfl
@[simp] theorem goTo_task_tbase (s : State) (p : Word) : (goTo s p).task.tbase = s.task.tbase := rfl
@[simp] theorem goTo_task_kbase (s : State) (p : Word) : (goTo s p).task.kbase = s.task.kbase := rfl
@[simp] theorem goTo_task_abase (s : State) (p : Word) : (goTo s p).task.abase = s.task.abase := rfl
@[simp] theorem goTo_task_quota (s : State) (p : Word) : (goTo s p).task.quota = s.task.quota := rfl
@[simp] theorem goTo_task_prebound (s : State) (p : Word) : (goTo s p).task.prebound = s.task.prebound := rfl
@[simp] theorem goTo_task_sinceSp (s : State) (p : Word) : (goTo s p).task.sinceSp = s.task.sinceSp := rfl
@[simp] theorem goTo_task_taskctl (s : State) (p : Word) : (goTo s p).task.taskctl = s.task.taskctl := rfl
@[simp] theorem goTo_task_streamsel (s : State) (p : Word) : (goTo s p).task.streamsel = s.task.streamsel := rfl
@[simp] theorem goTo_task_phasectl (s : State) (p : Word) : (goTo s p).task.phasectl = s.task.phasectl := rfl
@[simp] theorem goTo_task_checkpoint (s : State) (p : Word) : (goTo s p).task.checkpoint = s.task.checkpoint := rfl
@[simp] theorem goTo_task_heldCopies (s : State) (p : Word) : (goTo s p).task.heldCopies = s.task.heldCopies := rfl
@[simp] theorem goTo_task_sfcm (s : State) (p : Word) : (goTo s p).task.sfcm = s.task.sfcm := rfl
@[simp] theorem goTo_task_trapcause (s : State) (p : Word) : (goTo s p).task.trapcause = s.task.trapcause := rfl
@[simp] theorem goTo_task_trappc (s : State) (p : Word) : (goTo s p).task.trappc = s.task.trappc := rfl
@[simp] theorem goTo_task_trapva (s : State) (p : Word) : (goTo s p).task.trapva = s.task.trapva := rfl
@[simp] theorem goTo_task_trapinfo (s : State) (p : Word) : (goTo s p).task.trapinfo = s.task.trapinfo := rfl
@[simp] theorem goTo_task_tvec (s : State) (p : Word) : (goTo s p).task.tvec = s.task.tvec := rfl
@[simp] theorem goTo_task_snapExposed (s : State) (p : Word) : (goTo s p).task.snapExposed = s.task.snapExposed := rfl
@[simp] theorem goTo_task_snapReplay (s : State) (p : Word) : (goTo s p).task.snapReplay = s.task.snapReplay := rfl
@[simp] theorem goTo_task_snapPending (s : State) (p : Word) : (goTo s p).task.snapPending = s.task.snapPending := rfl
@[simp] theorem goTo_task_snapSkip (s : State) (p : Word) : (goTo s p).task.snapSkip = s.task.snapSkip := rfl
@[simp] theorem goTo_task_supervisor (s : State) (p : Word) : (goTo s p).task.supervisor = s.task.supervisor := rfl
@[simp] theorem goTo_task_replays (s : State) (p : Word) : (goTo s p).task.replays = s.task.replays := rfl
@[simp] theorem goTo_task_inflight (s : State) (p : Word) : (goTo s p).task.inflight = s.task.inflight := rfl
@[simp] theorem goTo_task_owed (s : State) (p : Word) : (goTo s p).task.owed = s.task.owed := rfl
@[simp] theorem goTo_task_detected (s : State) (p : Word) : (goTo s p).task.detected = s.task.detected := rfl
@[simp] theorem goTo_task_cancel (s : State) (p : Word) : (goTo s p).task.cancel = s.task.cancel := rfl
@[simp] theorem goTo_task_waits (s : State) (p : Word) : (goTo s p).task.waits = s.task.waits := rfl
@[simp] theorem goTo_task_rimWait (s : State) (p : Word) : (goTo s p).task.rimWait = s.task.rimWait := rfl
@[simp] theorem goTo_task_latch (s : State) (p : Word) : (goTo s p).task.latch = s.task.latch := rfl
@[simp] theorem goTo_task_hoops (s : State) (p : Word) : (goTo s p).task.hoops = s.task.hoops := rfl
@[simp] theorem goTo_task_initRegs (s : State) (p : Word) : (goTo s p).task.initRegs = s.task.initRegs := rfl
@[simp] theorem goTo_task_prio (s : State) (p : Word) : (goTo s p).task.prio = s.task.prio := rfl
@[simp] theorem goTo_task_effClass (s : State) (p : Word) : (goTo s p).task.effClass = s.task.effClass := rfl
@[simp] theorem goTo_task_place (s : State) (p : Word) : (goTo s p).task.place = s.task.place := rfl
@[simp] theorem goTo_task_readySince (s : State) (p : Word) : (goTo s p).task.readySince = s.task.readySince := rfl
@[simp] theorem goTo_task_aged (s : State) (p : Word) : (goTo s p).task.aged = s.task.aged := rfl
@[simp] theorem goTo_task_placedAt (s : State) (p : Word) : (goTo s p).task.placedAt = s.task.placedAt := rfl
@[simp] theorem goTo_task_spad (s : State) (p : Word) : (goTo s p).task.spad = s.task.spad := rfl
@[simp] theorem goTo_task_regionOff (s : State) (p : Word) : (goTo s p).task.regionOff = s.task.regionOff := rfl
@[simp] theorem goTo_task_btabVa (s : State) (p : Word) : (goTo s p).task.btabVa = s.task.btabVa := rfl
@[simp] theorem goTo_task_quantum (s : State) (p : Word) : (goTo s p).task.quantum = s.task.quantum := rfl
@[simp] theorem goTo_task_trapping (s : State) (p : Word) : (goTo s p).task.trapping = s.task.trapping := rfl
@[simp] theorem goTo_task_stateWord (s : State) (p : Word) : (goTo s p).task.stateWord = s.task.stateWord := rfl
@[simp] theorem goTo_task_atSafe (s : State) (p : Word) : (goTo s p).task.atSafe = s.task.atSafe := rfl
@[simp] theorem goTo_task_preemptReq (s : State) (p : Word) : (goTo s p).task.preemptReq = s.task.preemptReq := rfl
@[simp] theorem goTo_task_pendingExit (s : State) (p : Word) : (goTo s p).task.pendingExit = s.task.pendingExit := rfl
@[simp] theorem goTo_task_versions (s : State) (p : Word) : (goTo s p).task.versions = s.task.versions := rfl
@[simp] theorem goTo_task_replayQueue (s : State) (p : Word) : (goTo s p).task.replayQueue = s.task.replayQueue := rfl
@[simp] theorem goTo_task_issuedReads (s : State) (p : Word) : (goTo s p).task.issuedReads = s.task.issuedReads := rfl
@[simp] theorem goTo_task_parityBad (s : State) (p : Word) : (goTo s p).task.parityBad = s.task.parityBad := rfl
@[simp] theorem goTo_task_snapBad (s : State) (p : Word) : (goTo s p).task.snapBad = s.task.snapBad := rfl

/-! ## `expose` -/

@[simp] theorem expose_tick (s : State) (c : Ctx) (r : State) (lat : Nat) (f o : Bool) (x : Flags) (l : List Landing) : (expose c r lat f o x l s).tick = s.tick := rfl
@[simp] theorem expose_active (s : State) (c : Ctx) (r : State) (lat : Nat) (f o : Bool) (x : Flags) (l : List Landing) : (expose c r lat f o x l s).active = s.active := rfl
@[simp] theorem expose_core (s : State) (c : Ctx) (r : State) (lat : Nat) (f o : Bool) (x : Flags) (l : List Landing) : (expose c r lat f o x l s).core = s.core := rfl
@[simp] theorem expose_mem (s : State) (c : Ctx) (r : State) (lat : Nat) (f o : Bool) (x : Flags) (l : List Landing) : (expose c r lat f o x l s).mem = s.mem := rfl
@[simp] theorem expose_cores (s : State) (c : Ctx) (r : State) (lat : Nat) (f o : Bool) (x : Flags) (l : List Landing) : (expose c r lat f o x l s).cores = s.cores := rfl
@[simp] theorem expose_clusters (s : State) (c : Ctx) (r : State) (lat : Nat) (f o : Bool) (x : Flags) (l : List Landing) : (expose c r lat f o x l s).clusters = s.clusters := rfl
@[simp] theorem expose_dies (s : State) (c : Ctx) (r : State) (lat : Nat) (f o : Bool) (x : Flags) (l : List Landing) : (expose c r lat f o x l s).dies = s.dies := rfl
@[simp] theorem expose_agenda (s : State) (c : Ctx) (r : State) (lat : Nat) (f o : Bool) (x : Flags) (l : List Landing) : (expose c r lat f o x l s).agenda = s.agenda := rfl
@[simp] theorem expose_breaks (s : State) (c : Ctx) (r : State) (lat : Nat) (f o : Bool) (x : Flags) (l : List Landing) : (expose c r lat f o x l s).breaks = s.breaks := rfl
@[simp] theorem expose_moduleId (s : State) (c : Ctx) (r : State) (lat : Nat) (f o : Bool) (x : Flags) (l : List Landing) : (expose c r lat f o x l s).moduleId = s.moduleId := rfl
@[simp] theorem expose_fabricOk (s : State) (c : Ctx) (r : State) (lat : Nat) (f o : Bool) (x : Flags) (l : List Landing) : (expose c r lat f o x l s).fabricOk = s.fabricOk := rfl
@[simp] theorem expose_modules (s : State) (c : Ctx) (r : State) (lat : Nat) (f o : Bool) (x : Flags) (l : List Landing) : (expose c r lat f o x l s).modules = s.modules := rfl
@[simp] theorem expose_dead (s : State) (c : Ctx) (r : State) (lat : Nat) (f o : Bool) (x : Flags) (l : List Landing) : (expose c r lat f o x l s).dead = s.dead := rfl
@[simp] theorem expose_absent (s : State) (c : Ctx) (r : State) (lat : Nat) (f o : Bool) (x : Flags) (l : List Landing) : (expose c r lat f o x l s).absent = s.absent := rfl
@[simp] theorem expose_clockMHz (s : State) (c : Ctx) (r : State) (lat : Nat) (f o : Bool) (x : Flags) (l : List Landing) : (expose c r lat f o x l s).clockMHz = s.clockMHz := rfl
@[simp] theorem expose_bar2Base (s : State) (c : Ctx) (r : State) (lat : Nat) (f o : Bool) (x : Flags) (l : List Landing) : (expose c r lat f o x l s).bar2Base = s.bar2Base := rfl
@[simp] theorem expose_bar2Size (s : State) (c : Ctx) (r : State) (lat : Nat) (f o : Bool) (x : Flags) (l : List Landing) : (expose c r lat f o x l s).bar2Size = s.bar2Size := rfl
@[simp] theorem expose_poolroot (s : State) (c : Ctx) (r : State) (lat : Nat) (f o : Bool) (x : Flags) (l : List Landing) : (expose c r lat f o x l s).poolroot = s.poolroot := rfl
@[simp] theorem expose_poolrootLive (s : State) (c : Ctx) (r : State) (lat : Nat) (f o : Bool) (x : Flags) (l : List Landing) : (expose c r lat f o x l s).poolrootLive = s.poolrootLive := rfl
@[simp] theorem expose_poolTlb (s : State) (c : Ctx) (r : State) (lat : Nat) (f o : Bool) (x : Flags) (l : List Landing) : (expose c r lat f o x l s).poolTlb = s.poolTlb := rfl
@[simp] theorem expose_poolPoison (s : State) (c : Ctx) (r : State) (lat : Nat) (f o : Bool) (x : Flags) (l : List Landing) : (expose c r lat f o x l s).poolPoison = s.poolPoison := rfl
@[simp] theorem expose_regions (s : State) (c : Ctx) (r : State) (lat : Nat) (f o : Bool) (x : Flags) (l : List Landing) : (expose c r lat f o x l s).regions = s.regions := rfl
@[simp] theorem expose_poolRefused (s : State) (c : Ctx) (r : State) (lat : Nat) (f o : Bool) (x : Flags) (l : List Landing) : (expose c r lat f o x l s).poolRefused = s.poolRefused := rfl
@[simp] theorem expose_portsUp (s : State) (c : Ctx) (r : State) (lat : Nat) (f o : Bool) (x : Flags) (l : List Landing) : (expose c r lat f o x l s).portsUp = s.portsUp := rfl
@[simp] theorem expose_llHead (s : State) (c : Ctx) (r : State) (lat : Nat) (f o : Bool) (x : Flags) (l : List Landing) : (expose c r lat f o x l s).llHead = s.llHead := rfl
@[simp] theorem expose_llDrop (s : State) (c : Ctx) (r : State) (lat : Nat) (f o : Bool) (x : Flags) (l : List Landing) : (expose c r lat f o x l s).llDrop = s.llDrop := rfl
@[simp] theorem expose_groups (s : State) (c : Ctx) (r : State) (lat : Nat) (f o : Bool) (x : Flags) (l : List Landing) : (expose c r lat f o x l s).groups = s.groups := rfl
@[simp] theorem expose_bar0 (s : State) (c : Ctx) (r : State) (lat : Nat) (f o : Bool) (x : Flags) (l : List Landing) : (expose c r lat f o x l s).bar0 = s.bar0 := rfl
@[simp] theorem expose_linksDown (s : State) (c : Ctx) (r : State) (lat : Nat) (f o : Bool) (x : Flags) (l : List Landing) : (expose c r lat f o x l s).linksDown = s.linksDown := rfl
@[simp] theorem expose_streams (s : State) (c : Ctx) (r : State) (lat : Nat) (f o : Bool) (x : Flags) (l : List Landing) : (expose c r lat f o x l s).streams = s.streams := rfl
@[simp] theorem expose_rootWrites (s : State) (c : Ctx) (r : State) (lat : Nat) (f o : Bool) (x : Flags) (l : List Landing) : (expose c r lat f o x l s).rootWrites = s.rootWrites := rfl
@[simp] theorem expose_records (s : State) (c : Ctx) (r : State) (lat : Nat) (f o : Bool) (x : Flags) (l : List Landing) : (expose c r lat f o x l s).records = s.records := rfl
@[simp] theorem expose_notices (s : State) (c : Ctx) (r : State) (lat : Nat) (f o : Bool) (x : Flags) (l : List Landing) : (expose c r lat f o x l s).notices = s.notices := rfl
@[simp] theorem expose_holders (s : State) (c : Ctx) (r : State) (lat : Nat) (f o : Bool) (x : Flags) (l : List Landing) : (expose c r lat f o x l s).holders = s.holders := rfl
@[simp] theorem expose_nextLaunch (s : State) (c : Ctx) (r : State) (lat : Nat) (f o : Bool) (x : Flags) (l : List Landing) : (expose c r lat f o x l s).nextLaunch = s.nextLaunch := rfl
@[simp] theorem expose_lastTake (s : State) (c : Ctx) (r : State) (lat : Nat) (f o : Bool) (x : Flags) (l : List Landing) : (expose c r lat f o x l s).lastTake = s.lastTake := rfl
@[simp] theorem expose_nextOwed (s : State) (c : Ctx) (r : State) (lat : Nat) (f o : Bool) (x : Flags) (l : List Landing) : (expose c r lat f o x l s).nextOwed = s.nextOwed := rfl
@[simp] theorem expose_outbox (s : State) (c : Ctx) (r : State) (lat : Nat) (f o : Bool) (x : Flags) (l : List Landing) : (expose c r lat f o x l s).outbox = s.outbox := rfl
@[simp] theorem expose_lmsLeaf (s : State) (c : Ctx) (r : State) (lat : Nat) (f o : Bool) (x : Flags) (l : List Landing) : (expose c r lat f o x l s).lmsLeaf = s.lmsLeaf := rfl
@[simp] theorem expose_report (s : State) (c : Ctx) (r : State) (lat : Nat) (f o : Bool) (x : Flags) (l : List Landing) : (expose c r lat f o x l s).report = s.report := rfl
@[simp] theorem expose_debugMode (s : State) (c : Ctx) (r : State) (lat : Nat) (f o : Bool) (x : Flags) (l : List Landing) : (expose c r lat f o x l s).debugMode = s.debugMode := rfl
@[simp] theorem expose_booted (s : State) (c : Ctx) (r : State) (lat : Nat) (f o : Bool) (x : Flags) (l : List Landing) : (expose c r lat f o x l s).booted = s.booted := rfl
@[simp] theorem expose_hostReply (s : State) (c : Ctx) (r : State) (lat : Nat) (f o : Bool) (x : Flags) (l : List Landing) : (expose c r lat f o x l s).hostReply = s.hostReply := rfl
@[simp] theorem expose_printed (s : State) (c : Ctx) (r : State) (lat : Nat) (f o : Bool) (x : Flags) (l : List Landing) : (expose c r lat f o x l s).printed = s.printed := rfl
@[simp] theorem expose_freeCtr (s : State) (c : Ctx) (r : State) (lat : Nat) (f o : Bool) (x : Flags) (l : List Landing) : (expose c r lat f o x l s).freeCtr = s.freeCtr := rfl
@[simp] theorem expose_task_pc (s : State) (c : Ctx) (r : State) (lat : Nat) (f o : Bool) (x : Flags) (l : List Landing) : (expose c r lat f o x l s).task.pc = s.task.pc := rfl
@[simp] theorem expose_task_repLeft (s : State) (c : Ctx) (r : State) (lat : Nat) (f o : Bool) (x : Flags) (l : List Landing) : (expose c r lat f o x l s).task.repLeft = s.task.repLeft := rfl
@[simp] theorem expose_task_skip (s : State) (c : Ctx) (r : State) (lat : Nat) (f o : Bool) (x : Flags) (l : List Landing) : (expose c r lat f o x l s).task.skip = s.task.skip := rfl
@[simp] theorem expose_task_sregs (s : State) (c : Ctx) (r : State) (lat : Nat) (f o : Bool) (x : Flags) (l : List Landing) : (expose c r lat f o x l s).task.sregs = s.task.sregs := rfl
@[simp] theorem expose_task_preds (s : State) (c : Ctx) (r : State) (lat : Nat) (f o : Bool) (x : Flags) (l : List Landing) : (expose c r lat f o x l s).task.preds = s.task.preds := rfl
@[simp] theorem expose_task_tiles (s : State) (c : Ctx) (r : State) (lat : Nat) (f o : Bool) (x : Flags) (l : List Landing) : (expose c r lat f o x l s).task.tiles = s.task.tiles := rfl
@[simp] theorem expose_task_rims (s : State) (c : Ctx) (r : State) (lat : Nat) (f o : Bool) (x : Flags) (l : List Landing) : (expose c r lat f o x l s).task.rims = s.task.rims := rfl
@[simp] theorem expose_task_accs (s : State) (c : Ctx) (r : State) (lat : Nat) (f o : Bool) (x : Flags) (l : List Landing) : (expose c r lat f o x l s).task.accs = s.task.accs := rfl
@[simp] theorem expose_task_omap (s : State) (c : Ctx) (r : State) (lat : Nat) (f o : Bool) (x : Flags) (l : List Landing) : (expose c r lat f o x l s).task.omap = s.task.omap := rfl
@[simp] theorem expose_task_ofs (s : State) (c : Ctx) (r : State) (lat : Nat) (f o : Bool) (x : Flags) (l : List Landing) : (expose c r lat f o x l s).task.ofs = s.task.ofs := rfl
@[simp] theorem expose_task_ofstep (s : State) (c : Ctx) (r : State) (lat : Nat) (f o : Bool) (x : Flags) (l : List Landing) : (expose c r lat f o x l s).task.ofstep = s.task.ofstep := rfl
@[simp] theorem expose_task_fpcsr (s : State) (c : Ctx) (r : State) (lat : Nat) (f o : Bool) (x : Flags) (l : List Landing) : (expose c r lat f o x l s).task.fpcsr = s.task.fpcsr := rfl
@[simp] theorem expose_task_amax (s : State) (c : Ctx) (r : State) (lat : Nat) (f o : Bool) (x : Flags) (l : List Landing) : (expose c r lat f o x l s).task.amax = s.task.amax := rfl
@[simp] theorem expose_task_slatch (s : State) (c : Ctx) (r : State) (lat : Nat) (f o : Bool) (x : Flags) (l : List Landing) : (expose c r lat f o x l s).task.slatch = s.task.slatch := rfl
@[simp] theorem expose_task_frcnt (s : State) (c : Ctx) (r : State) (lat : Nat) (f o : Bool) (x : Flags) (l : List Landing) : (expose c r lat f o x l s).task.frcnt = s.task.frcnt := rfl
@[simp] theorem expose_task_mfmt (s : State) (c : Ctx) (r : State) (lat : Nat) (f o : Bool) (x : Flags) (l : List Landing) : (expose c r lat f o x l s).task.mfmt = s.task.mfmt := rfl
@[simp] theorem expose_task_discards (s : State) (c : Ctx) (r : State) (lat : Nat) (f o : Bool) (x : Flags) (l : List Landing) : (expose c r lat f o x l s).task.discards = s.task.discards := rfl
@[simp] theorem expose_task_bt (s : State) (c : Ctx) (r : State) (lat : Nat) (f o : Bool) (x : Flags) (l : List Landing) : (expose c r lat f o x l s).task.bt = s.task.bt := rfl
@[simp] theorem expose_task_weight (s : State) (c : Ctx) (r : State) (lat : Nat) (f o : Bool) (x : Flags) (l : List Landing) : (expose c r lat f o x l s).task.weight = s.task.weight := rfl
@[simp] theorem expose_task_taskId (s : State) (c : Ctx) (r : State) (lat : Nat) (f o : Bool) (x : Flags) (l : List Landing) : (expose c r lat f o x l s).task.taskId = s.task.taskId := rfl
@[simp] theorem expose_task_launchId (s : State) (c : Ctx) (r : State) (lat : Nat) (f o : Bool) (x : Flags) (l : List Landing) : (expose c r lat f o x l s).task.launchId = s.task.launchId := rfl
@[simp] theorem expose_task_tbase (s : State) (c : Ctx) (r : State) (lat : Nat) (f o : Bool) (x : Flags) (l : List Landing) : (expose c r lat f o x l s).task.tbase = s.task.tbase := rfl
@[simp] theorem expose_task_kbase (s : State) (c : Ctx) (r : State) (lat : Nat) (f o : Bool) (x : Flags) (l : List Landing) : (expose c r lat f o x l s).task.kbase = s.task.kbase := rfl
@[simp] theorem expose_task_abase (s : State) (c : Ctx) (r : State) (lat : Nat) (f o : Bool) (x : Flags) (l : List Landing) : (expose c r lat f o x l s).task.abase = s.task.abase := rfl
@[simp] theorem expose_task_quota (s : State) (c : Ctx) (r : State) (lat : Nat) (f o : Bool) (x : Flags) (l : List Landing) : (expose c r lat f o x l s).task.quota = s.task.quota := rfl
@[simp] theorem expose_task_prebound (s : State) (c : Ctx) (r : State) (lat : Nat) (f o : Bool) (x : Flags) (l : List Landing) : (expose c r lat f o x l s).task.prebound = s.task.prebound := rfl
@[simp] theorem expose_task_sinceSp (s : State) (c : Ctx) (r : State) (lat : Nat) (f o : Bool) (x : Flags) (l : List Landing) : (expose c r lat f o x l s).task.sinceSp = s.task.sinceSp := rfl
@[simp] theorem expose_task_taskctl (s : State) (c : Ctx) (r : State) (lat : Nat) (f o : Bool) (x : Flags) (l : List Landing) : (expose c r lat f o x l s).task.taskctl = s.task.taskctl := rfl
@[simp] theorem expose_task_streamsel (s : State) (c : Ctx) (r : State) (lat : Nat) (f o : Bool) (x : Flags) (l : List Landing) : (expose c r lat f o x l s).task.streamsel = s.task.streamsel := rfl
@[simp] theorem expose_task_phasectl (s : State) (c : Ctx) (r : State) (lat : Nat) (f o : Bool) (x : Flags) (l : List Landing) : (expose c r lat f o x l s).task.phasectl = s.task.phasectl := rfl
@[simp] theorem expose_task_checkpoint (s : State) (c : Ctx) (r : State) (lat : Nat) (f o : Bool) (x : Flags) (l : List Landing) : (expose c r lat f o x l s).task.checkpoint = s.task.checkpoint := rfl
@[simp] theorem expose_task_heldCopies (s : State) (c : Ctx) (r : State) (lat : Nat) (f o : Bool) (x : Flags) (l : List Landing) : (expose c r lat f o x l s).task.heldCopies = s.task.heldCopies := rfl
@[simp] theorem expose_task_sfcm (s : State) (c : Ctx) (r : State) (lat : Nat) (f o : Bool) (x : Flags) (l : List Landing) : (expose c r lat f o x l s).task.sfcm = s.task.sfcm := rfl
@[simp] theorem expose_task_trapcause (s : State) (c : Ctx) (r : State) (lat : Nat) (f o : Bool) (x : Flags) (l : List Landing) : (expose c r lat f o x l s).task.trapcause = s.task.trapcause := rfl
@[simp] theorem expose_task_trappc (s : State) (c : Ctx) (r : State) (lat : Nat) (f o : Bool) (x : Flags) (l : List Landing) : (expose c r lat f o x l s).task.trappc = s.task.trappc := rfl
@[simp] theorem expose_task_trapva (s : State) (c : Ctx) (r : State) (lat : Nat) (f o : Bool) (x : Flags) (l : List Landing) : (expose c r lat f o x l s).task.trapva = s.task.trapva := rfl
@[simp] theorem expose_task_trapinfo (s : State) (c : Ctx) (r : State) (lat : Nat) (f o : Bool) (x : Flags) (l : List Landing) : (expose c r lat f o x l s).task.trapinfo = s.task.trapinfo := rfl
@[simp] theorem expose_task_tvec (s : State) (c : Ctx) (r : State) (lat : Nat) (f o : Bool) (x : Flags) (l : List Landing) : (expose c r lat f o x l s).task.tvec = s.task.tvec := rfl
@[simp] theorem expose_task_snapExposed (s : State) (c : Ctx) (r : State) (lat : Nat) (f o : Bool) (x : Flags) (l : List Landing) : (expose c r lat f o x l s).task.snapExposed = s.task.snapExposed := rfl
@[simp] theorem expose_task_snapReplay (s : State) (c : Ctx) (r : State) (lat : Nat) (f o : Bool) (x : Flags) (l : List Landing) : (expose c r lat f o x l s).task.snapReplay = s.task.snapReplay := rfl
@[simp] theorem expose_task_snapPending (s : State) (c : Ctx) (r : State) (lat : Nat) (f o : Bool) (x : Flags) (l : List Landing) : (expose c r lat f o x l s).task.snapPending = s.task.snapPending := rfl
@[simp] theorem expose_task_snapSkip (s : State) (c : Ctx) (r : State) (lat : Nat) (f o : Bool) (x : Flags) (l : List Landing) : (expose c r lat f o x l s).task.snapSkip = s.task.snapSkip := rfl
@[simp] theorem expose_task_supervisor (s : State) (c : Ctx) (r : State) (lat : Nat) (f o : Bool) (x : Flags) (l : List Landing) : (expose c r lat f o x l s).task.supervisor = s.task.supervisor := rfl
@[simp] theorem expose_task_replays (s : State) (c : Ctx) (r : State) (lat : Nat) (f o : Bool) (x : Flags) (l : List Landing) : (expose c r lat f o x l s).task.replays = s.task.replays := rfl
@[simp] theorem expose_task_owed (s : State) (c : Ctx) (r : State) (lat : Nat) (f o : Bool) (x : Flags) (l : List Landing) : (expose c r lat f o x l s).task.owed = s.task.owed := rfl
@[simp] theorem expose_task_detected (s : State) (c : Ctx) (r : State) (lat : Nat) (f o : Bool) (x : Flags) (l : List Landing) : (expose c r lat f o x l s).task.detected = s.task.detected := rfl
@[simp] theorem expose_task_cancel (s : State) (c : Ctx) (r : State) (lat : Nat) (f o : Bool) (x : Flags) (l : List Landing) : (expose c r lat f o x l s).task.cancel = s.task.cancel := rfl
@[simp] theorem expose_task_waits (s : State) (c : Ctx) (r : State) (lat : Nat) (f o : Bool) (x : Flags) (l : List Landing) : (expose c r lat f o x l s).task.waits = s.task.waits := rfl
@[simp] theorem expose_task_rimWait (s : State) (c : Ctx) (r : State) (lat : Nat) (f o : Bool) (x : Flags) (l : List Landing) : (expose c r lat f o x l s).task.rimWait = s.task.rimWait := rfl
@[simp] theorem expose_task_latch (s : State) (c : Ctx) (r : State) (lat : Nat) (f o : Bool) (x : Flags) (l : List Landing) : (expose c r lat f o x l s).task.latch = s.task.latch := rfl
@[simp] theorem expose_task_hoops (s : State) (c : Ctx) (r : State) (lat : Nat) (f o : Bool) (x : Flags) (l : List Landing) : (expose c r lat f o x l s).task.hoops = s.task.hoops := rfl
@[simp] theorem expose_task_initRegs (s : State) (c : Ctx) (r : State) (lat : Nat) (f o : Bool) (x : Flags) (l : List Landing) : (expose c r lat f o x l s).task.initRegs = s.task.initRegs := rfl
@[simp] theorem expose_task_prio (s : State) (c : Ctx) (r : State) (lat : Nat) (f o : Bool) (x : Flags) (l : List Landing) : (expose c r lat f o x l s).task.prio = s.task.prio := rfl
@[simp] theorem expose_task_effClass (s : State) (c : Ctx) (r : State) (lat : Nat) (f o : Bool) (x : Flags) (l : List Landing) : (expose c r lat f o x l s).task.effClass = s.task.effClass := rfl
@[simp] theorem expose_task_place (s : State) (c : Ctx) (r : State) (lat : Nat) (f o : Bool) (x : Flags) (l : List Landing) : (expose c r lat f o x l s).task.place = s.task.place := rfl
@[simp] theorem expose_task_readySince (s : State) (c : Ctx) (r : State) (lat : Nat) (f o : Bool) (x : Flags) (l : List Landing) : (expose c r lat f o x l s).task.readySince = s.task.readySince := rfl
@[simp] theorem expose_task_aged (s : State) (c : Ctx) (r : State) (lat : Nat) (f o : Bool) (x : Flags) (l : List Landing) : (expose c r lat f o x l s).task.aged = s.task.aged := rfl
@[simp] theorem expose_task_placedAt (s : State) (c : Ctx) (r : State) (lat : Nat) (f o : Bool) (x : Flags) (l : List Landing) : (expose c r lat f o x l s).task.placedAt = s.task.placedAt := rfl
@[simp] theorem expose_task_spad (s : State) (c : Ctx) (r : State) (lat : Nat) (f o : Bool) (x : Flags) (l : List Landing) : (expose c r lat f o x l s).task.spad = s.task.spad := rfl
@[simp] theorem expose_task_regionOff (s : State) (c : Ctx) (r : State) (lat : Nat) (f o : Bool) (x : Flags) (l : List Landing) : (expose c r lat f o x l s).task.regionOff = s.task.regionOff := rfl
@[simp] theorem expose_task_btabVa (s : State) (c : Ctx) (r : State) (lat : Nat) (f o : Bool) (x : Flags) (l : List Landing) : (expose c r lat f o x l s).task.btabVa = s.task.btabVa := rfl
@[simp] theorem expose_task_quantum (s : State) (c : Ctx) (r : State) (lat : Nat) (f o : Bool) (x : Flags) (l : List Landing) : (expose c r lat f o x l s).task.quantum = s.task.quantum := rfl
@[simp] theorem expose_task_flow (s : State) (c : Ctx) (r : State) (lat : Nat) (f o : Bool) (x : Flags) (l : List Landing) : (expose c r lat f o x l s).task.flow = s.task.flow := rfl
@[simp] theorem expose_task_trapping (s : State) (c : Ctx) (r : State) (lat : Nat) (f o : Bool) (x : Flags) (l : List Landing) : (expose c r lat f o x l s).task.trapping = s.task.trapping := rfl
@[simp] theorem expose_task_stateWord (s : State) (c : Ctx) (r : State) (lat : Nat) (f o : Bool) (x : Flags) (l : List Landing) : (expose c r lat f o x l s).task.stateWord = s.task.stateWord := rfl
@[simp] theorem expose_task_atSafe (s : State) (c : Ctx) (r : State) (lat : Nat) (f o : Bool) (x : Flags) (l : List Landing) : (expose c r lat f o x l s).task.atSafe = s.task.atSafe := rfl
@[simp] theorem expose_task_preemptReq (s : State) (c : Ctx) (r : State) (lat : Nat) (f o : Bool) (x : Flags) (l : List Landing) : (expose c r lat f o x l s).task.preemptReq = s.task.preemptReq := rfl
@[simp] theorem expose_task_pendingExit (s : State) (c : Ctx) (r : State) (lat : Nat) (f o : Bool) (x : Flags) (l : List Landing) : (expose c r lat f o x l s).task.pendingExit = s.task.pendingExit := rfl
@[simp] theorem expose_task_versions (s : State) (c : Ctx) (r : State) (lat : Nat) (f o : Bool) (x : Flags) (l : List Landing) : (expose c r lat f o x l s).task.versions = s.task.versions := rfl
@[simp] theorem expose_task_replayQueue (s : State) (c : Ctx) (r : State) (lat : Nat) (f o : Bool) (x : Flags) (l : List Landing) : (expose c r lat f o x l s).task.replayQueue = s.task.replayQueue := rfl
@[simp] theorem expose_task_issuedReads (s : State) (c : Ctx) (r : State) (lat : Nat) (f o : Bool) (x : Flags) (l : List Landing) : (expose c r lat f o x l s).task.issuedReads = s.task.issuedReads := rfl
@[simp] theorem expose_task_parityBad (s : State) (c : Ctx) (r : State) (lat : Nat) (f o : Bool) (x : Flags) (l : List Landing) : (expose c r lat f o x l s).task.parityBad = s.task.parityBad := rfl
@[simp] theorem expose_task_snapBad (s : State) (c : Ctx) (r : State) (lat : Nat) (f o : Bool) (x : Flags) (l : List Landing) : (expose c r lat f o x l s).task.snapBad = s.task.snapBad := rfl

/-! ## What they write -/

@[simp] theorem setS_task_sregs (s : State) {w : Nat} (n : BitVec w) (v : Word) :
    (setS s n v).task.sregs = putS s.task.sregs n.toNat v := rfl
@[simp] theorem setP_task_preds (s : State) {w : Nat} (n : BitVec w) (v : Bool) :
    (setP s n v).task.preds = putP s.task.preds n.toNat v := rfl
@[simp] theorem setTile_task_tiles (s : State) (n : Nat) (t : Tile) :
    (setTile s n t).task.tiles = smSet Tile.initial s.task.tiles n t := rfl
@[simp] theorem setRim_task_rims (s : State) (k : Nat) (r : Rim) :
    (setRim s k r).task.rims = smSet Rim.initial s.task.rims k r := rfl
@[simp] theorem setAcc_task_accs (s : State) (a : Nat) (x : Acc) :
    (setAcc s a x).task.accs = smSet Acc.initial s.task.accs a x := rfl
@[simp] theorem setOSlot_core_oslots (s : State) (p : Nat) (o : OSlot) :
    (setOSlot s p o).core.oslots = smSet OSlot.initial s.core.oslots p o := rfl
@[simp] theorem detect_task_detected (s : State) (d : Detected) :
    (detect s d).task.detected = s.task.detected ++ [d] := rfl
@[simp] theorem goTo_task_flow (s : State) (p : Word) : (goTo s p).task.flow = .branch p := rfl
@[simp] theorem expose_task_inflight (s : State) (c : Ctx) (r : State) (lat : Nat) (f o : Bool) (x : Flags) (l : List Landing) :
    (expose c r lat f o x l s).task.inflight =
      s.task.inflight ++ [⟨r.task.bt.toNat + lat, r.task.pc, c.slot, f, o, x, false, l⟩] := rfl

end Sys2Proof.Machine
end

