-- ==== Sys2Proof/Tests/Slice0.lean ====
section
/-! SUPPORT. Tests: an ill-formed term for each check, words written out from the encodings, a few worked examples, and for
every statement with hypotheses concrete states that meet them. -/

namespace Sys2Proof.Tests

open Sys2Proof Sys2Proof.Machine

set_option maxRecDepth 100000
set_option Elab.async false

/-! ## Small states -/

/-- The machine after reset with a task running in frame 0 of core 0. -/
def running (t : Task) : State := { State.reset with core := { Core.reset with run := some 0 }, task := t }

/-- A fresh task runs. -/
def base : State := running Task.fresh

/-- The same with scalar registers. -/
def regs (l : SMap Word) : State := running { Task.fresh with sregs := l }

/-- Nothing is owed and nothing pends: the task issues whatever it names. -/
theorem issues_of (s : State) (g : BitVec 4) (l : List Dest) (h1 : s.core.run.isSome = true) (h2 : s.task.owed = [])
    (h3 : overrun s.task = false) (h4 : getP s g = true) : Issues s g l :=
  ⟨⟨h1, h3, by simp [copyWaits, h2], fun d _ => by simp [owedDests, h2]⟩, h4⟩

theorem accesses_of (s : State) (g : BitVec 4) (l : List Dest) (h1 : s.core.run.isSome = true) (h2 : s.task.owed = [])
    (h3 : overrun s.task = false) (h4 : getP s g = true) : Accesses s g l :=
  ⟨issues_of s g l h1 h2 h3 h4, by simp [owedAccesses, h2, Config.maxOutstanding]⟩

/-- Nothing is owed: no access to the own module is outstanding. -/
theorem done_of (s : State) (h : s.task.owed = []) : AccessesDone s := by simp [AccessesDone, h]

/-- Nothing is in flight: no store is. -/
theorem landed_of (s : State) (h : s.task.inflight = []) : StoresLanded s := by simp [StoresLanded, h]

/-- An access that ends with a value. -/
theorem ok_of (g : Got (List Byte)) (x : List Byte) (h : (match g with
    | .ok b _ => b == x
    | _ => false) = true) : ∃ s, g = .ok x s := by
  cases g <;> simp_all

/-- A translation that ends where it should. -/
theorem found_of (g : Got Target) (p : Target → State → Bool) (h : (match g with
    | .ok t u => p t u
    | _ => false) = true) : ∃ t u, g = .ok t u ∧ p t u = true := by
  cases g with
  | ok t u => exact ⟨t, u, rfl, h⟩
  | _ => simp at h

/-- An access that ends in a fault. -/
theorem faulted_of (g : Got Unit) (h : (match g with
    | .fault _ _ => true
    | _ => false) = true) : ∃ x u, g = .fault x u := by
  cases g <;> simp_all

/-- An access that ends in no fault. -/
theorem calm_of (g : Got Unit) (h : (match g with
    | .fault _ _ => false
    | _ => true) = true) : ∀ x u, g ≠ .fault x u := by
  cases g <;> simp_all

/-! ## Ill-formed terms (R56 to R61, R129, R175, R198, R209, R225) -/

theorem test_wf_scalar : wellFormed (.bfxN 0 8 9 11) = false ∧ wellFormed (.bfi 0 8 9 11) = false ∧ wellFormed (.fshl 0 8 9 10) = false ∧
    wellFormed (.cmp 0 1 9 10 8) = false ∧ wellFormed (.cmpi 0 1 8 9 0) = false ∧ wellFormed (.mfs 0 8 6) = false ∧
    wellFormed (.mts 0 8 0x17) = false := by decide

theorem test_wf_control : wellFormed (.loop 0 0 1 0) = false ∧ wellFormed (.loopSt 0 9 1 0) = false ∧
    wellFormed (.wait 0 8 9 10 5) = false ∧ wellFormed (.wait 0 8 9 10 4) = false := by decide

theorem test_wf_vector : wellFormed (.vcvt 0 1 2 8) = false ∧ wellFormed (.vbas 0 1 2 5) = false ∧ wellFormed (.klse 0 1 2 4) = false ∧
    wellFormed (.kbind 0 1 2 4) = false ∧ wellFormed (.kunbind 0 1 4) = false ∧ wellFormed (.vtag 0 1 2 13) = false := by decide

theorem test_wf_matrix : wellFormed (.mrd 0 1 2 8) = false ∧ wellFormed (.mwr 0 1 2 0) = false ∧ wellFormed (.mfmt 0 1 2) = false ∧
    wellFormed (.mofs 0 8 8) = false := by decide

theorem test_wf_copy : wellFormed (.ldAcq32 0 8 9 0) = false ∧ wellFormed (.stRel64 0 8 9 6) = false ∧ wellFormed (.tld 0 1 8 9 13) = false ∧
    wellFormed (.st128 0 9 8 0) = false ∧ wellFormed (.oload 0 8 9 10 5) = false ∧ wellFormed (.amoAdd 0 8 9 10 0 6) = false ∧
    wellFormed (.amoFaddF32 0 8 9 10 6) = false ∧ wellFormed (.cas 0 8 9 10 0 6) = false ∧ wellFormed (.cas128 0 9 8 10 0) = false ∧
    wellFormed (.smap 0 3 8 9) = false := by decide

theorem test_wf_events : wellFormed (.waitTimeout 768 0) = false ∧ wellFormed (.stashFill 768 (.data [])) = false ∧
    wellFormed (.packetTake 16) = false ∧ wellFormed (.hoopPhaseComplete 0 64) = false ∧
    wellFormed (.copyStart (.channel 768 0)) = false ∧ wellFormed (.copyComplete (.trigger 4)) = false ∧
    wellFormed (.frameReclaim 4) = false ∧ wellFormed (.postedOpDone 0 16384) = false ∧ wellFormed (.regionTableWrite 262144 0) = false ∧
    wellFormed (.poolPortLoss 8) = false ∧ wellFormed (.fabricLinkFailure 0x11 0x22) = false ∧ wellFormed (.mcstSeqRoot ⟨1, 0, 0, 0, 64⟩ 0 false 0) = false ∧
    wellFormed (.packageBoot true 0 ⟨[0xFFFF], 0, 30⟩) = false ∧ wellFormed (.debuggerResume 768 none) = false ∧
    wellFormed (.injectEcc 0 (2 ^ 20)) = false ∧ wellFormed (.remoteRequest 1 0 0 17 false 0 .counterRead) = false ∧
    wellFormed (.holdReply 0 0 ⟨16, 0⟩) = false ∧ wellFormed (.registerWrite 4 0) = false := by decide

/-! ## Words written out from the encodings (R52, R56 to R61, and the worked examples of the rules named) -/

/-- R118: `li s8, 0x167_89AB_CDEF` and `lih s8, s8, 0x48D1`. -/
theorem test_decode_li : decodeSyllable .scalar 0x240801EF (some 0x59E26AF3) = .ok (.li 0 8 0x16789ABCDEF) := by rfl
theorem test_decode_lih : decodeSyllable .scalar 0x280820D1 (some 0x12) = .ok (.lih 0 8 8 0x48D1) := by rfl
/-- OP 1 << 26 | D 8 << 16 | A 9 << 10 | B 10 << 4 | FN 0. -/
theorem test_decode_add : decodeTableWord 32 0x040824A0 = some (.add 0 8 9 10) := by decide
/-- OP 5 << 26 | A 20 << 16, a register pair of `loop.st`. -/
theorem test_decode_loopSt : decodeSyllable .control 0x14140000 none = .ok (.loopSt 0 20 0 0) := by rfl
/-- `klse`: OP 9 << 26 | D 8 ..., in the vector slot. -/
theorem test_decode_klse : decodeSyllable .vector 0x24082847 none = .ok (.klse 0 8 10 4) := by rfl
/-- `mma`: OP 1 << 26 | D 2 << 19 | A 5 << 13 | B 6 << 7. -/
theorem test_decode_mma : decodeSyllable .matrix 0x0410A300 none = .ok (.mma 0 2 5 6) := by rfl
theorem test_decode_amoAdd : decodeSyllable .copy 0x680910A3 none = .ok (.amoAdd 0 9 4 10 0 3) := by rfl
theorem test_decode_cas : decodeSyllable .copy 0x900910A3 none = .ok (.cas 0 9 4 10 0 3) := by rfl
theorem test_decode_cp : decodeSyllable .copy 0x98002001 none = .ok (.cp 0 8 1) := by rfl
theorem test_decode_cpq : decodeSyllable .copy 0x9C002090 none = .ok (.cpq 0 8 9) := by rfl
theorem test_decode_drainCp : decodeSyllable .copy 0xA0000020 none = .ok (.drainCp 0 2) := by rfl
theorem test_decode_sunmap : decodeSyllable .copy 0xAC030000 none = .ok (.sunmap 0 3) := by rfl
theorem test_decode_smap : decodeSyllable .copy 0xA80320A0 none = .ok (.smap 0 3 8 10) := by rfl
theorem test_decode_mcst : decodeSyllable .copy 0xE40910A4 none = .ok (.mcst 0 9 4 10 0) ∧
    decodeSyllable .copy 0xE40910AC none = .ok (.mcst 0 9 4 10 1) := ⟨rfl, rfl⟩
theorem test_decode_stTc : decodeSyllable .copy 0xCC0910A0 none = .ok (.stTc 0 9 4 10 0) := by rfl
theorem test_decode_tcadd : decodeSyllable .copy 0xD0002090 none = .ok (.tcadd 0 8 9) := by rfl
theorem test_decode_tcset : decodeSyllable .copy 0xD80A0000 none = .ok (.tcset 0 10 0) := by rfl
theorem test_decode_tpost : decodeSyllable .copy 0xD40C2000 none = .ok (.tpost 0 12 8) := by rfl
theorem test_decode_tcancel : decodeSyllable .copy 0xE0003000 none = .ok (.tcancel 0 12) := by rfl
theorem test_decode_tcwait : decodeSyllable .control 0x400A2DD0 none = .ok (.tcwait 0 10 11 29) := by rfl
/-- R56: OP 0 is unassigned, and a reserved field that is not zero is an encoding error. -/
theorem test_decode_refused : decodeSyllable .scalar 0x00000001 none = .error .instruction ∧
    decodeSyllable .copy 0xD0002091 none = .error .encoding := ⟨rfl, rfl⟩
/-- R119: FN 7 and FN 8 of OP 0x0B. -/
theorem test_decode_mul : decodeSyllable .scalar 0x2C0824A7 none = .ok (.remN 0 8 9 10) ∧
    decodeSyllable .scalar 0x2C0824A8 none = .error .instruction := ⟨rfl, rfl⟩
theorem test_decode_sel : decodeSyllable .scalar 0x440824AF none = .ok (.sel 0 8 9 10 15) := by rfl

/-! ## Worked examples -/

/-- R118: the constant 0x0123_4567_89AB_CDEF from its two parts. -/
theorem test_lih_value : (match exec (.lih 0 8 8 0x48D1) (regs [(8, 0x16789ABCDEF)]) with
    | .next t => getS t (8 : BitVec 6)
    | _ => 0) = 0x0123456789ABCDEF := by decide

/-- R119: -7 / 2 truncates toward zero, and the remainder has the sign of the dividend. -/
theorem test_div_truncates : (match exec (.divI 0 8 9 10) (regs [(9, -7), (10, 2)]) with
    | .next t => getS t (8 : BitVec 6)
    | _ => 0) = -3 := by decide
theorem test_rem_sign : (match exec (.remI 0 8 9 10) (regs [(9, -7), (10, 2)]) with
    | .next t => getS t (8 : BitVec 6)
    | _ => 0) = -1 := by decide

/-- R119: the signed overflow case, and a zero divisor. -/
theorem test_div_overflow : (match exec (.divI 0 8 9 10) (regs [(9, 0x8000000000000000), (10, -1)]) with
    | .next t => getS t (8 : BitVec 6)
    | _ => 0) = 0x8000000000000000 := by decide
theorem test_div_zero : (match exec (.divN 0 8 9 10) (regs [(9, 5)]) with
    | .next t => getS t (8 : BitVec 6)
    | _ => 0) = 0xFFFFFFFFFFFFFFFF := by decide

/-- R121: a `bfx.i` past bit 63 reads copies of the sign. -/
theorem test_bfx_sign : (match exec (.bfxI 0 8 9 10) (regs [(9, 0x8000000000000000), (10, 60), (11, 8)]) with
    | .next t => getS t (8 : BitVec 6)
    | _ => 0) = 0xFFFFFFFFFFFFFFF8 := by decide

/-- R115: a write to s0 is discarded. -/
theorem test_s0_discards : (match exec (.addi 0 0 9 1) (regs [(9, 5)]) with
    | .next t => getS t (0 : BitVec 6)
    | _ => 1) = 0 := by decide

/-- R127: under RDN, -0.5 converts to -1, and by the unsigned form saturates to 0 with NV (FPCSR bit 2). -/
theorem test_fcvt_rdn : (match exec (.fcvtI64F64 0 8 9) (running { Task.fresh with fpcsr := 2, sregs := [(9, 0xBFE0000000000000)] }) with
    | .next t => getS t (8 : BitVec 6)
    | _ => 0) = -1 := by decide

/-- R112: a task without a handler that traps ends, and its core is idle. -/
theorem test_trap_without_handler : (match exec (.sys 0 7) base with
    | .next t => t.core.run
    | _ => some 9) = none := by decide

/-! ## Witnesses: the scalar slot -/

theorem witness_ScalarArithmetic : Issues base 0 [.sreg 9, .sreg 10, .sreg 8] ∧ Issues base 0 [.sreg 0, .sreg 0] :=
  ⟨issues_of _ _ _ rfl rfl rfl rfl, issues_of _ _ _ rfl rfl rfl rfl⟩

theorem witness_MultiplyDivideBits :
    let s := regs [(9, 0x8000000000000000), (10, 0xFFFFFFFFFFFFFFFF), (12, 63), (13, 127)]
    Issues s 0 [.sreg 9, .sreg 10, .sreg 8] ∧ Issues s 0 [.sreg 9, .sreg 8] ∧
    Issues s 0 [.sreg 8, .sreg 10, .sreg 11, .sreg 12, .sreg 13] ∧ getS s (10 : BitVec 6) = BitVec.allOnes 64 ∧
    getS s (11 : BitVec 6) = 0 ∧ (getS s (13 : BitVec 6)).toNat % 128 = 127 :=
  ⟨issues_of _ _ _ rfl rfl rfl rfl, issues_of _ _ _ rfl rfl rfl rfl, issues_of _ _ _ rfl rfl rfl rfl, by decide, by decide, by decide⟩

theorem witness_ComparesAndPredicates : (7 : BitVec 4).toNat < 8 ∧ Issues base 0 [.sreg 9, .sreg 10, .pred 1] ∧
    Issues base 0 [.pred 0, .pred 15, .pred 1] ∧ Issues base 0 [.sreg 9, .sreg 10, .pred 0, .sreg 8] :=
  ⟨by decide, issues_of _ _ _ rfl rfl rfl rfl, issues_of _ _ _ rfl rfl rfl rfl, issues_of _ _ _ rfl rfl rfl rfl⟩

theorem witness_ScalarFloat : Issues base 0 [.sreg 9, .sreg 10, .sreg 8] := issues_of _ _ _ rfl rfl rfl rfl

theorem witness_NanAndRounding : (Fp.nan true).isNan = true ∧ (Fp.nan false).isNan = true ∧
    (fpRound f32 2 (.fin false 1 0)).flags &&& flagNX = 0 ∧ bf16 ∈ [f128, f64, f32, f16, bf16] := by decide

theorem witness_ScalarConvertCompare : Issues base 0 [.sreg 9, .sreg 8] ∧ Issues base 0 [.sreg 9, .sreg 10, .pred 1] :=
  ⟨issues_of _ _ _ rfl rfl rfl rfl, issues_of _ _ _ rfl rfl rfl rfl⟩

/-- A task at S. -/
def atS : State := running { Task.fresh with supervisor := true, tvec := 0x1000 }

theorem witness_SystemReads : Issues base 0 [.sreg 8] ∧ Issues atS 0 [.sreg 8] ∧ atS.task.supervisor = true ∧
    ¬ ((0x008 : BitVec 10) = 0x010 ∨ (0x020 ≤ (0x008 : BitVec 10).toNat ∧ (0x008 : BitVec 10).toNat ≤ 0x025) ∨
      (0x008 : BitVec 10) = 0x060) :=
  ⟨issues_of _ _ _ rfl rfl rfl rfl, issues_of _ _ _ rfl rfl rfl rfl, rfl, by decide⟩

theorem witness_SystemWrites : atS.task.supervisor = true ∧ bits atS.task.phasectl 25 1 = 0 ∧
    Issues atS 0 [.sreg 9, sysDest 0x050] ∧ Issues atS 0 [.sreg 9, sysDest 0x008] ∧
    base.task.supervisor = false ∧ (0x008 : BitVec 10) ∉ ([0x010, 0x020, 0x021, 0x022, 0x024] : List (BitVec 10)) ∧
    Issues base 0 [.sreg 9, sysDest 0x008] ∧
    (let s := running { Task.fresh with phasectl := 0x2000000 }
     bits s.task.phasectl 25 1 = 1 ∧ Issues s 0 [.sreg 9, sysDest 0x050]) :=
  ⟨rfl, by decide, issues_of _ _ _ rfl rfl rfl rfl, issues_of _ _ _ rfl rfl rfl rfl, rfl, by decide, issues_of _ _ _ rfl rfl rfl rfl,
    by decide, issues_of _ _ _ rfl rfl rfl rfl⟩

theorem witness_Privilege : base.core.run.isSome = true ∧ base.task.supervisor = false ∧ isGate base.active = false ∧
    (0x020 ≤ (0x025 : BitVec 10).toNat ∧ (0x025 : BitVec 10).toNat ≤ 0x025) ∧ atS.task.supervisor = true := by decide

/-! ## Witnesses: control -/

theorem witness_IssueBookkeeping : phaseOpen base.task = false ∧ base.task.flow = .next ∧
    (goTo base 0x40).task.flow = .branch 0x40 := ⟨by decide, rfl, rfl⟩

/-- A load into s8 is owed by another module. -/
def owedLoad : Owed := ⟨1, 0, 6, false, false, .fixed 0, false, .access (.load 0 8 false 8) 0 1⟩
def owing : State := running { Task.fresh with owed := [owedLoad] }

theorem witness_GuardAndStall :
    (∃ x, opOf (.add 1 8 9 10) = some x ∧ decodeTrapOf base x = none ∧ getP base x.guard = false) ∧ overrun base.task = false ∧
    ∃ x, opOf (.add 0 8 9 10) = some x ∧ decodeTrapOf owing x = none ∧ getP owing x.guard = true ∧
      Dest.sreg 8 ∈ x.uses owing ∧ Dest.sreg 8 ∈ owedDests owing.task :=
  ⟨⟨_, rfl, rfl, rfl⟩, rfl, _, rfl, rfl, rfl, by decide, by decide⟩

theorem witness_BranchesAndLoops :
    let s := regs [(8, 1), (20, 2), (21, 0)]
    Issues s 0 [.sreg 9, .sreg 63] ∧
    Issues s 0 ([.sreg 20, .sreg 21] ++ (List.range 8).map fun q => .pred (8 + q)) ∧ getS s (8 : BitVec 6) = 1 ∧
    getS s (20 : BitVec 6) ≠ 1 ∧ ¬ 0 < (getS s (21 : BitVec 6)).toInt :=
  ⟨issues_of _ _ _ rfl rfl rfl rfl, issues_of _ _ _ rfl rfl rfl rfl, by decide, by decide, by decide⟩

/-- A launch with id 0 in cluster 0, of which a task runs on core 0; a sibling may stand on the same core. -/
def launch0 : Launch := launchOfPacket 0 [] [] 0x2000 [] []
def launched : State := { running { Task.fresh with weight := 8 } with
  clusters := smSet Cluster.reset [] 0 { Cluster.reset with launches := [launch0] } }

theorem witness_Spawning : Issues launched 0 [.sreg 8, .sreg 9, .sreg 10] ∧ phaseOpen launched.task = false ∧ AccessesDone launched ∧
    launchOf (getCluster launched (clusterOf launched.active)) launched.task.launchId = some launch0 ∧
    ¬ (launched.task.weight = 1 ∧ (0 : Nat) = 0) ∧
    siblingFault (regs [(10, 48)]) 48 (siblingOf (regs [(10, 48)])) = some 1 ∧
    siblingFault launched (getS launched (10 : BitVec 6)).toNat (siblingOf launched) = none ∧
    (∃ t u, makeChild launched (getS launched (8 : BitVec 6)) (getS launched (9 : BitVec 6)) 1 launched = some (t, u) ∧
      (∃ p, spotFor u 0 t false = some p) ∧ (tasksOn u 0).isEmpty = false) :=
  ⟨issues_of _ _ _ rfl rfl rfl rfl, by decide, done_of _ rfl, by decide, by decide, by decide, by decide,
    ⟨_, _, rfl, ⟨_, rfl⟩, by decide⟩⟩

theorem witness_ExitAndYield : Issues base 0 [] ∧ phaseOpen base.task = false ∧ base.task.flow = .next ∧ base.task.owed = [] ∧
    base.task.detected = [] ∧ base.task.cancel = none ∧ base.task.waits = [] ∧ base.task.inflight = [] ∧ base.task.omap = [] ∧ base.task.hoops = [] ∧ base.task.replays = [] ∧
    base.task.snapReplay = [] ∧ base.core.frames = [] :=
  ⟨issues_of _ _ _ rfl rfl rfl rfl, by decide, rfl, rfl, rfl, rfl, rfl, rfl, rfl, rfl, rfl, rfl, rfl⟩

/-- An address of the own scratchpad through the local aperture: core 63. -/
def own (off : Nat) : Word := word (2 ^ 63 + 63 * 2 ^ 26 + off)

/-- Counter 0 of die 0 is live. -/
def counting (l : SMap Word) : State := setCounter (regs l) 0 0 { Counter.initial with live := true, value := 5 }

theorem witness_Waits :
    let s := counting [(8, own 0), (9, 0x1000000)]
    Issues s 0 [.sreg 8, .sreg 0, .sreg 0, .pred 1] ∧ s.task.waits = [] ∧ OwnPlain s (getS s (8 : BitVec 6)) 8 0 ∧
    (getS s (8 : BitVec 6)).toNat % 8 = 0 ∧ (4 : BitVec 4).toNat < 5 ∧ nameFate s (getS s (9 : BitVec 6)) = .live 0 0 :=
  ⟨issues_of _ _ _ rfl rfl rfl rfl, rfl, by decide, by decide, by decide, by decide⟩

/-- Hoop 0 of cluster 0 is allocated, and the running task is a member. -/
def hooped (h : Hoop) (l : SMap Word) : State := { regs l with
  clusters := smSet Cluster.reset [] 0 { Cluster.reset with hoops := smSet Hoop.initial [] 0 h } }
def member : Hoop := { Hoop.initial with allocated := true, members := [Task.fresh.ident] }
def open0 : Hoop := { Hoop.initial with allocated := true }

theorem witness_Hoops_claim : Issues (hooped open0 []) 0 [.sreg 8, .sreg 9] ∧ phaseOpen (hooped open0 []).task = false ∧
    (smGet Hoop.initial (getCluster (hooped open0 []) 0).hoops 1).allocated = false ∧
    (∀ j, j < 1 → (smGet Hoop.initial (getCluster (hooped open0 []) 0).hoops j).allocated = true) ∧
    (allFrames (hooped open0 [])).all (fun e => !e.2.2.atHoop 0 none) = true ∧ (getCluster (hooped open0 []) 0).saved = [] ∧
    (hooped open0 []).task.ident ∉ open0.members ∧ 0 ∉ (hooped open0 []).task.hoops :=
  ⟨issues_of _ _ _ rfl rfl rfl rfl, by decide, by decide, by decide, by decide, by decide, by decide, by decide⟩

/-- Every hoop is allocated. -/
def allHoops : State := { base with
  clusters := smSet Cluster.reset [] 0 { Cluster.reset with hoops := smOfFn Hoop.initial 64 fun _ => open0 } }
theorem witness_Hoops_full : (List.range 64).all (fun h => (smGet Hoop.initial (getCluster allHoops 0).hoops h).allocated) = true := by
  decide

theorem witness_Hoops_barrier :
    Issues (hooped member []) 0 [.sreg 8] ∧ phaseOpen (hooped member []).task = false ∧ AccessesDone (hooped member []) ∧
    member.broken = false ∧ (hooped member []).task.ident ∈ (smGet Hoop.initial (getCluster (hooped member []) 0).hoops 0).members ∧
    (smGet Hoop.initial (getCluster (hooped { member with broken := true } []) 0).hoops 0).broken = true ∧
    (smGet Hoop.initial (getCluster base 0).hoops 63).allocated = false ∧
    64 ≤ (getS (regs [(8, 64)]) (8 : BitVec 6)).toNat ∧ (hooped open0 []).task.ident ∉ open0.members :=
  ⟨issues_of _ _ _ rfl rfl rfl rfl, by decide, done_of _ rfl, by decide, by decide, by decide, by decide, by decide, by decide⟩

theorem witness_Phases :
    let s := running { Task.fresh with phasectl := 0x2000000 }
    Issues s 0 [] ∧ s.task.flow = .next ∧ s.task.waits = [] ∧ bits s.task.phasectl 25 1 = 1 ∧ s.task.heldCopies = [] ∧
    Issues base 0 [] ∧ base.task.flow = .next ∧ base.task.waits = [] ∧ ¬ bits base.task.phasectl 25 1 = 1 :=
  ⟨issues_of _ _ _ rfl rfl rfl rfl, rfl, rfl, by decide, rfl, issues_of _ _ _ rfl rfl rfl rfl, rfl, rfl, by decide⟩

/-- A task with a handler. -/
def handled : State := running { Task.fresh with tvec := 0x1000 }

theorem witness_SoftwareTraps : Issues handled 0 [] ∧ handled.task.flow = .next ∧ handled.task.owed = [] ∧ handled.task.detected = [] ∧
    handled.task.tvec ≠ 0 ∧ (atS.task.supervisor = true ∧ snapCount atS.task = 0 ∧ atS.task.tvec ≠ 0) ∧ Issues atS 0 [] :=
  ⟨issues_of _ _ _ rfl rfl rfl rfl, rfl, rfl, rfl, by decide, by decide, issues_of _ _ _ rfl rfl rfl rfl⟩

theorem witness_TrapEntry : (7 : Nat) < 8 ∧ handled.task.owed = [] ∧ handled.task.detected = [] ∧ handled.task.tvec ≠ 0 ∧
    base.task.tvec = 0 ∧ base.task.owed = [] ∧ base.task.omap = [] ∧ base.task.hoops = [] ∧ base.task.inflight = [] ∧
    base.task.replays = [] ∧ base.task.snapReplay = [] ∧ base.task.detected = [] ∧ base.core.frames = [] ∧
    (let t := { atS.task with snapExposed := [⟨0, 0, 3, false, false, 0, false, []⟩] }
     t.supervisor = true ∧ snapCount t ≠ 0 ∧ t.owed = [] ∧ t.omap = [] ∧ t.hoops = [] ∧ t.inflight = [] ∧ t.replays = [] ∧
     t.snapReplay = [] ∧ t.detected = []) := by decide

theorem witness_TrapReturn : Issues atS 0 [] ∧ atS.task.supervisor = true ∧ atS.task.owed = [] ∧ atS.task.detected = [] ∧
    atS.task.cancel = none ∧ atS.task.waits = [] ∧ atS.task.snapBad = false ∧ atS.task.inflight = [] ∧
    bits atS.task.trapcause 10 1 = 0 :=
  ⟨issues_of _ _ _ rfl rfl rfl rfl, rfl, rfl, rfl, rfl, rfl, rfl, rfl, by decide⟩

theorem witness_Maintenance :
    let s := running { Task.fresh with supervisor := true, sregs := [(8, 0x10000), (9, 0x20000), (10, 3), (11, 1)] }
    s.task.supervisor = true ∧ s.task.owed = [] ∧ Issues s 0 [.sreg 8, .sreg 9, .sreg 10] ∧
    (getS s (8 : BitVec 6)).toNat % 2 ^ 16 = 0 ∧ (getS s (9 : BitVec 6)).toNat % 2 ^ 16 = 0 ∧ 3 ≤ (getS s (10 : BitVec 6)).toNat ∧
    splitsLeaf (Agent.ofCore s.active) (getS s (8 : BitVec 6)) (getS s (9 : BitVec 6)).toNat s = false ∧
    ¬ (getS s (11 : BitVec 6)).toNat % 2 ^ 16 = 0 :=
  ⟨rfl, rfl, issues_of _ _ _ rfl rfl rfl rfl, by decide, by decide, by decide, by decide, by decide⟩

/-! ## Witnesses: tiles and rims -/

/-- Tiles of one tag. -/
def tiles (t : Nat) : State := running { Task.fresh with
  tiles := (List.range 8).map fun n => (n, ⟨BitVec.ofNat 4 t, Slots.identity, false, []⟩) }

theorem witness_TileFloatArithmetic : PlainTiles (tiles 4) 4 [2, 4] ∧ GoodTile (tiles 4) 4 6 ∧
    Issues (tiles 4) 0 (tileUses 4 [2, 4, 6]) ∧ PlainTiles (tiles 1) 1 [7, 0] ∧ GoodTile (tiles 1) 1 7 ∧
    (getTile (tiles 4) 6).slots = Slots.identity ∧ tagOf (tiles 4) 6 = 4 :=
  ⟨by decide, by decide, issues_of _ _ _ rfl rfl rfl rfl, by decide, by decide, by decide, by decide⟩

theorem witness_TileIntegerArithmetic : PlainTiles (tiles 0xC) 0xC [2, 4] ∧ GoodTile (tiles 0xC) 0xC 7 ∧
    Issues (tiles 0xC) 0 (tileUses 0xC [2, 4, 7]) ∧ PlainTiles (tiles 5) 5 [2, 4] :=
  ⟨by decide, by decide, issues_of _ _ _ rfl rfl rfl rfl, by decide⟩

theorem witness_TileLogicCompareSelect : isNumTag 7 = true ∧ PlainTiles (tiles 7) 7 [2, 4] ∧ GoodTile (tiles 7) 7 7 ∧
    (7 : BitVec 5).toNat < tileQuota (tiles 7).task ∧ Issues (tiles 7) 0 (tileUses 7 [2, 4] ++ [.tile 7]) ∧
    isNumTag 6 = true ∧ PlainTiles (tiles 6) 6 [2, 4] ∧ tagOf (tiles 6) 7 = 6 :=
  ⟨by decide, by decide, by decide, by decide, issues_of _ _ _ rfl rfl rfl rfl, by decide, by decide, by decide⟩

/-- `vmov` of an f64 pair, of a tile of a block format and of a factored tile. -/
theorem witness_TileLogicCompareSelect_vmov :
    (2 : BitVec 5).toNat < tileQuota (tiles 4).task ∧ (6 : BitVec 5).toNat < tileQuota (tiles 4).task ∧ tagOf (tiles 4) 2 = 4 ∧
    (2 : BitVec 5).toNat % 2 = 0 ∧ (6 : BitVec 5).toNat % 2 = 0 ∧ Issues (tiles 4) 0 (tileUses 4 [2, 6]) ∧ tagOf (tiles 8) 3 = 8 ∧
    Issues (tiles 8) 0 (tileUses 8 [3, 5]) :=
  ⟨by decide, by decide, by decide, by decide, by decide, issues_of _ _ _ rfl rfl rfl rfl, by decide, issues_of _ _ _ rfl rfl rfl rfl⟩

theorem witness_TileConversions : PlainTiles (tiles 1) 1 [2] ∧ isNumTag 0xC = true ∧ GoodTile (tiles 1) 0xC 7 ∧
    Issues (tiles 1) 0 (tileUses 1 [2] ++ tileUses 0xC [7]) ∧ PlainTiles (tiles 8) 8 [2] ∧ PlainTiles (tiles 0xA) 0xA [2] ∧
    Issues (tiles 8) 0 [.tile 2, .tile 7] :=
  ⟨by decide, by decide, by decide, issues_of _ _ _ rfl rfl rfl rfl, by decide, by decide, issues_of _ _ _ rfl rfl rfl rfl⟩

theorem witness_Quantisation : PlainTiles (tiles 3) 3 [2] ∧ (7 : BitVec 5).toNat < tileQuota (tiles 3).task ∧
    Issues (tiles 3) 0 [.tile 2, .tile 7, .latch] := ⟨by decide, by decide, issues_of _ _ _ rfl rfl rfl rfl⟩

theorem witness_SpecialFunctions : PlainTiles (tiles 2) 2 [2, 4] ∧ Issues (tiles 2) 0 [.tile 2, .tile 4, .tile 7] :=
  ⟨by decide, issues_of _ _ _ rfl rfl rfl rfl⟩

theorem witness_BiasActivationScale :
    let s : State := { tiles 1 with active := 44 }
    isGate s.active = true ∧ PlainTiles s 1 [2] ∧ (7 : BitVec 5).toNat < tileQuota s.task ∧ ReadyRims s [14, 15] ∧
    Issues s 0 [.tile 2, .tile 7, .rim 14, .rim 15] :=
  ⟨by decide, by decide, by decide, by decide, issues_of _ _ _ rfl rfl rfl rfl⟩

theorem witness_MovementAndBroadcast :
    let s := tiles 5
    isNumTag 5 = true ∧ PlainTiles s 5 [2] ∧ GoodTile s 5 7 ∧ Issues s 0 (tileUses 5 [2, 7] ++ [.tile 4]) ∧
    (4 : BitVec 5).toNat < tileQuota s.task ∧ tagOf s 4 = 5 ∧ isFloatTag 2 = true ∧ PlainTiles (tiles 2) 2 [2] ∧
    ReadyRims (tiles 2) [15] ∧ Issues (tiles 2) 0 (tileUses 2 [2] ++ [.rim 15]) ∧ (getTile s 2).ovp = false :=
  ⟨by decide, by decide, by decide, issues_of _ _ _ rfl rfl rfl rfl, by decide, by decide, by decide, by decide, by decide,
    issues_of _ _ _ rfl rfl rfl rfl, by decide⟩

/-- Tile 2 carries a row scale from rim 5, tiles 4 and 7 none. -/
def scaledTiles : State := running { Task.fresh with
  tiles := [(2, ⟨1, ⟨0x7F, 5, 0x7F, 0x7F⟩, false, []⟩), (4, ⟨1, Slots.identity, false, []⟩), (7, ⟨1, Slots.identity, false, []⟩)] }

theorem witness_Factors : (7 : BitVec 5).toNat < tileQuota (tiles 1).task ∧ Issues (tiles 1) 0 [.tile 7, .tile 8] ∧
    tagOf (tiles 1) 7 = 1 ∧ (15 : BitVec 6).toNat < rimQuota (tiles 1).task ∧ (getTile (tiles 1) 7).slots = Slots.identity ∧
    PlainTiles scaledTiles 1 [4, 7] ∧ tagOf scaledTiles 2 = 1 ∧ (getTile scaledTiles 2).slots ≠ Slots.identity ∧
    (getTile scaledTiles 2).slots.rsh = 0x7F ∧ (getTile scaledTiles 2).slots.csh = 0x7F ∧
    Issues scaledTiles 0 (tileUses 1 [2, 4, 7]) ∧ (getRim scaledTiles 5).state = .ready ∧
    (∃ (r : Exposed) (u : State), r.forced = true ∧ bits u.task.fpcsr 14 1 = 1) :=
  ⟨by decide, issues_of _ _ _ rfl rfl rfl rfl, by decide, by decide, by decide, by decide, by decide, by decide, by decide, by decide,
    issues_of _ _ _ rfl rfl rfl rfl, by decide,
    ⟨⟨0, 0, 3, true, false, 0, false, []⟩, running { Task.fresh with fpcsr := 0x4000 }, rfl, by decide⟩⟩

/-- `vmov` and `tres` of a factored tile. -/
theorem witness_Factors_resolve : tagOf scaledTiles 2 = 1 ∧ (getTile scaledTiles 2).slots ≠ Slots.identity ∧
    Issues scaledTiles 0 (tileUses 1 [2, 4]) ∧ GoodTile scaledTiles 1 2 ∧ (getTile scaledTiles 2).ovp = false ∧
    FactorsReady scaledTiles 2 ∧ Issues scaledTiles 0 (tileUses 1 [2]) :=
  ⟨by decide, by decide, issues_of _ _ _ rfl rfl rfl rfl, by decide, by decide, by decide, issues_of _ _ _ rfl rfl rfl rfl⟩

theorem witness_Reductions : isNumTag 4 = true ∧ PlainTiles (tiles 4) 4 [2] ∧ ReadyRims (tiles 4) [15] ∧
    Issues (tiles 4) 0 (tileUses 4 [2] ++ [.rim 15]) := ⟨by decide, by decide, by decide, issues_of _ _ _ rfl rfl rfl rfl⟩

theorem witness_RimArithmetic : ReadyRims base [14, 12, 10] ∧ Issues base 0 [.rim 14, .rim 12, .rim 10] ∧
    ReadyRims base [15, 13, 11] ∧ Issues base 0 [.rim 14, .rim 15, .rim 12, .rim 13, .rim 10, .rim 11] ∧
    PlainTiles (tiles 0xC) 0xC [2] ∧ Issues (tiles 0xC) 0 (tileUses 0xC [2] ++ [.rim 14]) :=
  ⟨by decide, issues_of _ _ _ rfl rfl rfl rfl, by decide, issues_of _ _ _ rfl rfl rfl rfl, by decide, issues_of _ _ _ rfl rfl rfl rfl⟩

/-! ## Witnesses: the matrix engine -/

/-- Operands 0 and 1 are mapped; MFMT names FP32 for both, with DR set. -/
def matrixReady : State := { running { Task.fresh with omap := [(0, 0), (1, 1)] } with
  core := { Core.reset with run := some 0, oslots := [(0, ⟨true, 1, Slots.identity, [], []⟩), (1, ⟨true, 1, Slots.identity, [], []⟩)] } }

theorem witness_MatrixProducts :
    let s := matrixReady
    Issues s 0 (.acc 1 :: (List.range 8).map .ofs) ∧ s.task.owed = [] ∧ (1 : BitVec 3).toNat < accQuota s.task ∧ slotMapped s 1 = true ∧
    (∀ o ∈ aSlots s.task true 0, slotMapped s o = true ∧ (operand s o).fmt.toNat = bits s.task.mfmt 4 4) ∧
    (operand s 1).fmt.toNat = bits s.task.mfmt 0 4 ∧ isQbTag (bits s.task.mfmt 0 4) = false ∧
    (operand s 0).codes = Slots.identity ∧ (operand s 1).codes = Slots.identity ∧ (getAcc s 1).rsc = 0x7F ∧ (getAcc s 1).csc = 0x7F ∧
    (aBad s true 0 || bBad s false 1 || !(getAcc s 1).bad.isEmpty) = false :=
  ⟨issues_of _ _ _ rfl rfl rfl rfl, rfl, by decide, by decide, by decide, by decide, by decide, by decide, by decide, by decide, by decide,
    by decide⟩

/-- The same with an uncorrectable error in sector 0 of operand 1. -/
theorem witness_MatrixProducts_bad :
    let s : State := { matrixReady with core := { matrixReady.core with
      oslots := [(0, ⟨true, 1, Slots.identity, [], []⟩), (1, ⟨true, 1, Slots.identity, [], [0]⟩)] } }
    Issues s 0 [.acc 1] ∧ s.task.owed = [] ∧ (1 : BitVec 3).toNat < accQuota s.task ∧ slotMapped s 1 = true ∧
    (∀ o ∈ aSlots s.task false 0, slotMapped s o = true ∧ (operand s o).fmt.toNat = bits s.task.mfmt 4 4) ∧
    (operand s 1).fmt.toNat = bits s.task.mfmt 0 4 ∧ (operand s 0).codes = Slots.identity ∧ (operand s 1).codes = Slots.identity ∧
    (getAcc s 1).rsc = 0x7F ∧ (getAcc s 1).csc = 0x7F ∧ (aBad s false 0 || bBad s false 1 || !(getAcc s 1).bad.isEmpty) = true :=
  ⟨issues_of _ _ _ rfl rfl rfl rfl, rfl, by decide, by decide, by decide, by decide, by decide, by decide, by decide, by decide, by decide⟩

theorem witness_Accumulators :
    let s := running { (tiles 8).task with accs := [(1, { Acc.initial with clr := false })] }
    (1 : BitVec 3).toNat < accQuota s.task ∧ Issues s 0 [.acc 1, .rim 15] ∧
    ReadyRims s [15] ∧ (getAcc s 1).clr = false ∧ (getAcc s 1).rsc = (getAcc s 0).rsc ∧ (getAcc s 1).csc = (getAcc s 0).csc ∧
    (getAcc s 1).bad = [] ∧ (getAcc s 0).bad = [] ∧ (getAcc s 1).rsc = 0x7F ∧ (getAcc s 1).csc = 0x7F ∧
    isQbTag 8 = true ∧ PlainTiles (tiles 8) 8 [7] ∧ Issues (tiles 8) 0 (tileUses 8 [7] ++ [.acc 1]) ∧ isNumTag 4 = true ∧
    GoodTile (tiles 4) 4 6 ∧ (getAcc (tiles 4) 1).bad = [] ∧ (getAcc (tiles 4) 1).rsc = 0x7F ∧ (getAcc (tiles 4) 1).csc = 0x7F :=
  ⟨by decide, issues_of _ _ _ rfl rfl rfl rfl, by decide, by decide, by decide, by decide, by decide, by decide, by decide, by decide,
    by decide, by decide, issues_of _ _ _ rfl rfl rfl rfl, by decide, by decide, by decide, by decide, by decide⟩

theorem witness_MatrixControl : matrixReady.task.owed = [] ∧ Issues matrixReady 0 [.sreg 8, .ofs 0] ∧
    matrixReady.task.mfmt.getLsbD 8 = true ∧ mapped matrixReady 2 = none ∧
    (∀ m, m < 2 → (mapped matrixReady m).isSome = true) ∧ (getOSlot matrixReady 2).claimed = false ∧
    (∀ q, q < 2 → (getOSlot matrixReady q).claimed = true) ∧ mapped matrixReady 1 = some 1 ∧
    (running { Task.fresh with mfmt := 0x11 }).task.mfmt.getLsbD 8 = false :=
  ⟨rfl, issues_of _ _ _ rfl rfl rfl rfl, by decide, by decide, by decide, by decide, by decide, by decide, by decide⟩

theorem witness_MatrixControl_full :
    let s : State := { base with core := { base.core with oslots := smOfFn OSlot.initial 64 fun _ => ⟨true, 0, Slots.identity, [], []⟩ } }
    (List.range 64).all (fun p => (getOSlot s p).claimed) = true := by decide

/-! ## Witnesses: memory -/

theorem witness_OwnLoads :
    let s := regs [(8, own 0xFFFC0)]
    Accesses s 0 [.sreg 8, .sreg 9, .rim 9] ∧ OwnPlain s (own 0xFFFC0) 64 0xFFFC0 ∧ (own 0xFFFC0).toNat % 64 = 0 ∧ ReadyRims s [9] ∧
    OwnPlain s (own 0xFFFFF) 1 0xFFFFF ∧ OwnPlain s (own 0xFFFF8) 8 0xFFFF8 :=
  ⟨accesses_of _ _ _ rfl rfl rfl rfl, by decide, by decide, by decide, by decide, by decide⟩

theorem witness_OwnStores :
    let s := regs [(8, own 0xFFFC0)]
    Accesses s 0 [.sreg 8, .sreg 10, .sreg 11, .rim 10] ∧ OwnFree s (own 0xFFFC0) 64 0xFFFC0 ∧ (own 0xFFFC0).toNat % 64 = 0 ∧
    phaseStore s (own 0xFFFC0) = .ok ∧ ReadyRims s [10] ∧ OwnFree s (own 0xFFFF0) 16 0xFFFF0 :=
  ⟨accesses_of _ _ _ rfl rfl rfl rfl, by decide, by decide, by decide, by decide, by decide⟩

theorem witness_StoreLands :
    let e : Exposed := ⟨0, 0, 6, false, false, 0, false, [.store (own 0x20) [1, 2]]⟩
    let s := running { Task.fresh with inflight := [e] }
    s.core.run.isSome = true ∧ dueResult s.task = some e ∧ OwnFree s (own 0x20) 2 0x20 := by decide

theorem witness_Misaligned :
    let s := regs [(8, 0x40001), (9, 0x48000)]
    Accesses s 0 [.sreg 8, .sreg 10, .sreg 12, .sreg 13, .sreg 11] ∧ (getS s (8 : BitVec 6)).toNat % 2 ≠ 0 ∧
    (getS s (9 : BitVec 6)).toNat % 65536 ≠ 0 := ⟨accesses_of _ _ _ rfl rfl rfl rfl, by decide, by decide⟩

/-- Row 0 of a tile, and row 1 of another, is the first that is misaligned; and a rim. -/
theorem witness_Misaligned_rows :
    let s := running { (tiles 4).task with sregs := [(8, 0x40000), (9, 1), (10, 0x40020)] }
    Accesses s 0 [.sreg 10, .rim 9] ∧ (9 : BitVec 6).toNat < rimQuota s.task ∧ (getS s (10 : BitVec 6)).toNat % 64 ≠ 0 ∧
    Accesses s 0 [.sreg 10, .sreg 9, .tile 6, .tile 7] ∧ Accesses s 0 [.sreg 8, .sreg 9, .tile 6, .tile 7] ∧
    (∀ q, q < 1 → (getS s (8 : BitVec 6) + word q * getS s (9 : BitVec 6)).toNat % 64 = 0) ∧
    (getS s (8 : BitVec 6) + word 1 * getS s (9 : BitVec 6)).toNat % 64 ≠ 0 ∧ tagOf s 6 = 4 ∧ (6 : BitVec 5).toNat % 2 = 0 ∧
    (∀ m ∈ [6, 7], m < tileQuota s.task) :=
  ⟨accesses_of _ _ _ rfl rfl rfl rfl, by decide, by decide, accesses_of _ _ _ rfl rfl rfl rfl, accesses_of _ _ _ rfl rfl rfl rfl,
    by decide, by decide, by decide, by decide, by decide⟩

theorem witness_InterlockedAccesses :
    let s := regs [(8, 0x40000)]
    Accesses s 0 [.sreg 8, .sreg 10, .sreg 11, .sreg 12, .sreg 13] ∧ phaseOpen s.task = false ∧ s.task.owed = [] ∧ StoresLanded s ∧
    (getS s (8 : BitVec 6)).toNat % 65536 = 0 ∧ Elsewhere s (getS s (8 : BitVec 6)) ∧ (getS s (10 : BitVec 6)).toNat % 128 = 0 :=
  ⟨accesses_of _ _ _ rfl rfl rfl rfl, by decide, rfl, landed_of _ rfl, by decide, by decide, by decide⟩

theorem witness_TileAccesses :
    let s := running { (tiles 4).task with sregs := [(8, 0x40000), (9, 128)] }
    phaseOpen s.task = false ∧ Accesses s 0 (tileUses 4 [6] ++ tileUses 4 [6] ++ [.sreg 8, .sreg 9, .rim 15]) ∧
    (6 : BitVec 5).toNat < tileQuota s.task ∧ (getTile s 6).slots = Slots.identity ∧ tagOf s 6 = 4 ∧
    s.task.stateWord = none ∧ (getRim s 15).state = .ready :=
  ⟨by decide, accesses_of _ _ _ rfl rfl rfl rfl, by decide, by decide, by decide, rfl, by decide⟩

/-- An address of device memory lies in no scratchpad, and in no window of a core without windows. -/
theorem elsewhere_of (s : State) (v : Word) (h : v.toNat < 2 ^ 48) (hw : s.core.smap = []) : Elsewhere s v := by
  have h0 : bits v 62 2 = 0 := by simp only [bits]; omega
  have hv : windowAt s.core v.toNat = none := by rw [windowAt, validWindows, hw]; rfl
  have hs : (∃ d o, spaceOf s (some (clusterOf s.active)) (some s.active) v = .device d o) ∨
      ∃ m d o, spaceOf s (some (clusterOf s.active)) (some s.active) v = .remote m d o := by
    simp only [spaceOf, h0]
    split
    · exact .inl ⟨_, _, rfl⟩
    · exact .inr ⟨_, _, _, rfl⟩
  rcases hs with ⟨d, o, e⟩ | ⟨m, d, o, e⟩ <;> simp [Elsewhere, ownSpot, ownPlace, windowAlias, e, hv]

theorem witness_TileAccesses_rows :
    let s := running { (tiles 4).task with sregs := [(8, 0x40000), (9, 128)] }
    ∀ i, i < 16 → let v := getS s (8 : BitVec 6) + word i * getS s (9 : BitVec 6)
      v.toNat % 64 = 0 ∧ Elsewhere s v ∧ Elsewhere s (v + 64) := by
  intro s i hi v
  have e : v = 0x40000 + word i * 128 := rfl
  have hn : v.toNat = 0x40000 + i * 128 := by
    rw [e]; simp [word, BitVec.toNat_add, BitVec.toNat_mul]; omega
  have hm : (v + 64).toNat = 0x40040 + i * 128 := by
    simp [BitVec.toNat_add, hn]; omega
  exact ⟨by omega, elsewhere_of _ _ (by omega) rfl, elsewhere_of _ _ (by omega) rfl⟩

theorem witness_TileAccesses_raw :
    let u := running { (tiles 1).task with sregs := [(8, 0x40000), (9, 128)], stateWord := some (0x40800, 0xFFFFFFF1) }
    u.task.stateWord = some (0x40800, 0xFFFFFFF1) ∧ stateTag 0xFFFFFFF1 = 1 ∧ stateWordCheck u 6 0xFFFFFFF1 = .ok := by decide +kernel

/-- A copy on channel 2 of core 0. -/
def aCopy : CopyJob := ⟨List.replicate 64 0, some 0, false, none, .fresh, [], [], [], false, none, none, false, 0, 0, 0⟩
def copying : State := { base with core := { base.core with channels := [(2, [aCopy])] } }

theorem witness_DrainsAndFences : Issues base 0 [] ∧ base.task.owed = [] ∧ channelOf base base.active 2 = [] ∧
    (∀ k, k < 4 → channelOf base base.active k = []) ∧ channelOf copying copying.active 2 ≠ [] ∧
    (let s := running { Task.fresh with owed := [⟨1, 0, 6, true, false, .fixed 0, false, .access (.store 0 [1]) 0 0⟩] }
     Issues s 0 [] ∧ ∃ o a k m, o ∈ s.task.owed ∧ o.kind = .access a k m) :=
  ⟨issues_of _ _ _ rfl rfl rfl rfl, rfl, by decide, by decide, by decide,
    ⟨⟨rfl, rfl, by decide, fun d h => nomatch h⟩, rfl⟩, _, _, _, _, List.mem_singleton.mpr rfl, rfl⟩

/-- Die 0 with translation enabled: tables at 0x10000, 0x20000 and 0x30000, a page of HC memory at 0x40000, a page without COMMIT
at 0x50000, one that may only be read at 0x60000, one of core 5 at 0x70000 and one in the pool at 0x80000. -/
def tables : Memory :=
  [(0x10000, 0x20001), (0x20000, 0x30001), (0x30020, 0x4201F), (0x30028, 0x50007), (0x30030, 0x6201B), (0x30038, 0x5000000072057 + 0x8),
    (0x30040, 0x8A01F)].foldl (fun m (e : Nat × Nat) => memPutWord m e.1 (word e.2)) []
def pagedDie : Die := { Die.reset with dtroot := 0x10001, dtrootLive := 0x10001 }
def paged (t : Task) : State := { running t with mem := tables, dies := smSet Die.reset [] 0 pagedDie }
def pagedBase : State := paged Task.fresh

/-- Window 3 of core 0 covers the first 64 KiB of the scratchpad and the addresses from 0x40000 on. -/
def windowed : State := { regs [(8, 0x40000)] with core := { base.core with smap := [(3, 0x40081)] } }

theorem witness_QueuesWindowsCounters :
    let s := regs [(8, 0x10000), (10, 0x20000), (11, 0xF0000)]
    Accesses s 0 [.sreg 8, .sreg 10, .sreg 11, .sreg 12] ∧ phaseOpen s.task = false ∧ s.task.owed = [] ∧
    (getCounter s 0 0).live = false ∧ (getS s (8 : BitVec 6)).toNat % 2 ^ 16 = 0 ∧
    ownSpot s (getS s (8 : BitVec 6)) = none ∧ ((getDie s 0).posted.filter fun e => e.2.used).length < 16384 ∧
    (channelOf s s.active 3).length < 8 ∧ (getS s (8 : BitVec 6)).toNat + (getS s (11 : BitVec 6)).toNat ≤ 2 ^ 20 ∧
    (getS s (10 : BitVec 6)).toNat < 2 ^ 63 ∧ (∀ e ∈ validWindows s.core, e.1 ≠ 3) ∧
    ownSpot windowed (getS windowed (8 : BitVec 6)) = some (.window 0) ∧ smFind windowed.core.lines 0 = none ∧
    lineAsked windowed.core 0 = false ∧ lineAsked { windowed.core with sent := [⟨0, 0x40000, 1, 15, false, none⟩] } 0 = true :=
  ⟨accesses_of _ _ _ rfl rfl rfl rfl, by decide, rfl, by decide, by decide, by decide, by decide, by decide, by decide, by decide, by decide,
    by decide, by decide, by decide, by decide⟩

/-- A `cpq` of a packet of device memory and of one of the own scratchpad, the second to a queue of the scratchpad and of device
memory, an `oload` that reads both, and addresses between their units. -/
theorem witness_QueuesWindowsCounters_accesses :
    let s := regs [(8, 0x10000), (9, 0x20000), (10, 0x40000), (11, own 0x40), (12, own 0), (13, 0x10), (14, 0x40001), (15, 0x40040)]
    let m := { matrixReady with task := { matrixReady.task with sregs := s.task.sregs } }
    (getS s (8 : BitVec 6)).toNat % 128 = 0 ∧ (getS s (10 : BitVec 6)).toNat % 64 = 0 ∧ (∀ off, ownSpot s (getS s (10 : BitVec 6)) ≠ some (.window off)) ∧
    Elsewhere s (getS s (10 : BitVec 6)) ∧ bits (getS s (12 : BitVec 6)) 62 2 ≠ 0 ∧ (∀ off, ownSpot s (getS s (11 : BitVec 6)) ≠ some (.window off)) ∧
    OwnPlain s (getS s (11 : BitVec 6)) 64 0x40 ∧ bits (getS s (8 : BitVec 6)) 62 2 = 0 ∧
    mapped m (getS m (0 : BitVec 6)).toNat = some 0 ∧ bits (getS m (13 : BitVec 6)) 61 1 = 0 ∧ bits (getS m (13 : BitVec 6)) 32 1 = 0 ∧
    bits (getS m (13 : BitVec 6)) 0 32 % 16 = 0 ∧ (∀ q ∈ oloadPieces 1 (getS m (10 : BitVec 6)) (getS m (13 : BitVec 6)), Elsewhere m q.1) ∧
    (∀ q ∈ oloadPieces 1 (getS m (12 : BitVec 6)) (getS m (13 : BitVec 6)), OwnPlain m q.1 q.2 ((q.1).toNat % 2 ^ 20)) ∧
    (getS s (14 : BitVec 6)).toNat % 16 ≠ 0 ∧ (getS s (15 : BitVec 6)).toNat % 128 ≠ 0 ∧ (getS s (15 : BitVec 6)).toNat % 64 = 0 := by
  refine ⟨by decide, by decide, ?_, by decide, by decide, ?_, by decide, by decide, by decide, by decide, by decide, by decide, by decide,
    by decide, by decide, by decide, by decide⟩
  · intro off h; exact absurd h (by rw [show ownSpot _ _ = none from by decide]; simp)
  · intro off h; rw [show ownSpot _ _ = some (.plain 0x40) from by decide] at h; simp at h

theorem witness_QueuesWindowsCounters_full :
    8 ≤ (channelOf { base with core := { base.core with channels := [(2, List.replicate 8 aCopy)] } } base.active 2).length := by decide

theorem witness_AtomicsAndCounters :
    let s := counting [(8, own 8)]
    spaceOf s (some (clusterOf s.active)) (some s.active) (own 8) = .scratch s.active 8 ∧ windowAtOff s.core 8 = none ∧
    sectorBad s.core 8 8 = false ∧ behindOwed s s.task.owed [(own 8, 8)] = false ∧ nameFate s 0x1000000 = .live 0 0 ∧ armedOn s 0 0 = [] ∧ nameFate s 0x2000000 = .stale := by decide

theorem witness_LeafChecks :
    let s := pagedBase
    Agent.io.space s 0x40000 = .device 0 0x40000 ∧ (getDie s 0).online = true ∧ tlbFind (mtlb s 0 6) 0x40000 = none ∧
    tablePaths s 0 6 = [] ∧ s.holders = [] ∧
    walk s 0 0x10000 0x40000 = .leaf 0x40000 (2 ^ 16) 0x4201F 0x30020 ∧
    walk s 0 0x10000 0x50000 = .leaf 0x50000 (2 ^ 16) 0x50007 0x30028 ∧ leafCommit 0x50007 = false ∧
    walk s 0 0x10000 0x60000 = .leaf 0x60000 (2 ^ 16) 0x6201B 0x30030 ∧ leafW 0x6201B = false ∧
    walk s 0 0x10000 0x90000 = .fail 0x13 ∧
    (match walk s 0 0x10000 0x70000 with
      | .leaf page size e _ => page == 0x70000 && !leafMalformed size e && leafCommit e && leafR e && leafW e && leafA e
          && !leafLoc e && pageAttr s 0 e 0 == 2 && Agent.io.core != some (leafOwner e)
      | .fail _ => false) = true := by decide +kernel

/-- A task of its own die's pages loads and stores device memory that nothing else holds. -/
theorem witness_InterlockedAccesses_memory :
    let s := paged { Task.fresh with sregs := [(8, 0x40000)] }
    let v := getS s (8 : BitVec 6)
    Accesses s 0 [.sreg 8, .sreg 10, .sreg 11, .sreg 12, .sreg 13] ∧ s.task.inflight = [] ∧ phaseOpen s.task = false ∧ s.task.owed = [] ∧
    StoresLanded s ∧ bits v 62 2 = 0 ∧ Elsewhere s v ∧ v.toNat % 16 = 0 ∧ (Access.load v 8 false 10).queued s (s.nextOwed + 1) = false ∧
    (Access.store v [1, 2, 3, 4, 5, 6, 7, 8]).queued s (s.nextOwed + 1) = false ∧
    (∃ t u, translate (Agent.ofCore s.active) .read v s = .ok t u ∧
      decide (AtHomeOnly u t.key 8 ∧ rangePoisoned u t.key 8 = false) = true) ∧
    (∃ t u, translate (Agent.ofCore s.active) .write v s = .ok t u ∧ decide (AtHomeOnly u t.key 8) = true) :=
  ⟨accesses_of _ _ _ rfl rfl rfl rfl, rfl, by decide, rfl, landed_of _ rfl, by decide, by decide, by decide, by decide +kernel,
    by decide +kernel, found_of _ _ (by decide +kernel), found_of _ (fun t u => decide (AtHomeOnly u t.key 8)) (by decide +kernel)⟩

/-- Rows that no table maps fault at once, those of a page that may be written do not. -/
theorem witness_TileAccesses_probe :
    let rows := (List.range 16).map fun i => ((0x40000 + word i * 128 : Word), List.replicate 128 (0 : Byte))
    let pieces := rows.flatMap fun p => rowStores p.1 p.2
    (∃ x u, probePieces pieces base = .fault x u) ∧ (∀ x u, probePieces pieces pagedBase ≠ .fault x u) :=
  ⟨faulted_of _ (by decide +kernel), calm_of _ (by decide +kernel)⟩

theorem witness_LeafChecks_root : (Translator.die 0 6).root pagedBase = .ok 0x10000 := by rfl

/-- `pattr` of the page at 0x40000 to SC. -/
theorem witness_Maintenance_pattr :
    let s := paged { Task.fresh with supervisor := true, sregs := [(8, 0x40000), (9, 0x10000), (10, 1)] }
    s.task.supervisor = true ∧ s.task.owed = [] ∧ Issues s 0 [.sreg 8, .sreg 9, .sreg 10] ∧
    (getS s (8 : BitVec 6)).toNat % 2 ^ 16 = 0 ∧ (getS s (9 : BitVec 6)) = 0x10000 ∧ (getS s (10 : BitVec 6)).toNat < 3 ∧
    splitsLeaf (Agent.ofCore s.active) (getS s (8 : BitVec 6)) (getS s (9 : BitVec 6)).toNat s = false ∧
    (match freshLeaf (Agent.ofCore s.active) .probe (getS s (8 : BitVec 6)) s with
      | .ok (t, e) s1 => e.size == 2 ^ 16 && leafAttr e.entry == 0 && quiescent s1 s.active
          ⟨getS s (8 : BitVec 6), if leafCommit e.entry then frameKey t e.entry else 2 ^ 70, e.size⟩
        && (holdersOf s1 (Place.dram t.tableDie e.entryPa).key 8 true).isEmpty
      | _ => false) = true :=
  ⟨rfl, rfl, issues_of _ _ _ rfl rfl rfl rfl, by decide, by decide, by decide, by decide +kernel, by decide +kernel⟩

/-! ## Witnesses: encoding, steps, events of a core -/

theorem witness_DecodeEncode : wellFormed (.li 0 8 0x16789ABCDEF) = true ∧
    (encode (.li 0 8 0x16789ABCDEF)).map (fun e => (e.word, e.ext)) = some (0x240801EF, some 0x59E26AF3) ∧
    decodeSyllable .scalar 0x040824A0 none = .ok (.add 0 8 9 10) := ⟨by decide, by decide, rfl⟩

/-- A block with `add s8, s9, s10` alone: KIND 7, MASK S1. -/
def addBlock : List Byte := leBytes 32 (7 + 2 ^ 5 + 0x040824A0 * 2 ^ 32)
def ready (pc : Word) : State := { paged { Task.fresh with pc := pc } with mem := memStore tables 0x40000 addBlock }

theorem witness_StepRunsDecoded : AtBoundary (ready 0x40000) 0 ∧ (ready 0x40000).task.latch = .empty ∧
    (ready 0x40000).task.pc.toNat % 32 = 0 ∧ fetchable (ready 0x40000) = true ∧
    ∃ s1, agentRead (Agent.ofCore (ready 0x40000).active) (ready 0x40000).task.pc 32 (ready 0x40000) = .ok addBlock s1 :=
  ⟨⟨rfl, rfl, rfl, rfl, rfl, rfl, rfl, rfl, rfl, rfl, rfl, rfl, rfl, rfl, rfl, rfl, rfl, rfl, by decide, rfl, rfl, by decide +kernel, rfl,
    rfl⟩, rfl, by decide, by decide +kernel, ok_of _ _ (by decide +kernel)⟩

theorem witness_StepRunsDecoded_block : leNat addBlock % 8 = 7 ∧
    decodeFull (leNat addBlock) = .ok ⟨0, false, [⟨slotFor (.add 0 8 9 10), .add 0 8 9 10⟩]⟩ ∧
    ∃ x, opOf (.add 0 8 9 10) = some x ∧ decodeTrapOf base x = none := ⟨by decide, rfl, _, rfl, rfl⟩

theorem witness_StepKeepsMemory : MemoryOk State.reset ∧ MemoryOk pagedBase := by decide

/-- An exposed result that is due. -/
def due (l : Landing) : State := running { Task.fresh with inflight := [⟨0, 0, 3, false, false, 0, false, [l]⟩] }

/-- Window 0 maps scratchpad bytes 0 to 0xFFFF to the page at 0x40000. -/
def withWindow (c : Core) : State := { pagedBase with core := { c with run := some 0, smap := [(0, 0x40081)] } }

theorem witness_IssueEvents_issue : 0 < (running { Task.fresh with skip := 1 }).task.skip ∧ mayIssue base.task = true ∧
    base.core.stopped = false ∧ base.breaks = [] ∧ base.task.trapPending = false ∧ base.task.ending = false ∧
    checkpointOwed base.task = false ∧ copyWaits base = false ∧ base.task.parityBad = [] ∧ base.task.replays = [] ∧ overrun base.task = false ∧ (∃ x, opOf (.add 0 8 9 10) = some x ∧ decodeTrapOf base x = none) ∧
    mayIssue (running { Task.fresh with latch := .full ⟨0, false, [⟨slotFor (.add 0 8 9 10), .add 0 8 9 10⟩]⟩ }).task = true ∧
    mayIssue (running { Task.fresh with latch := .full ⟨0, false, []⟩ }).task = true ∧
    mayIssue (running { Task.fresh with latch := .reference 0 128 true ⟨0, false, []⟩, repLeft := 1 }).task = true ∧
    mayIssue (running { Task.fresh with latch := .trap causeTranslation 0 0 0 }).task = true :=
  ⟨by decide, by decide, rfl, rfl, rfl, rfl, rfl, by decide, rfl, rfl, rfl, ⟨_, rfl, rfl⟩, by decide, by decide, by decide, by decide⟩

theorem witness_IssueEvents_landing : (dueResult (due (.scalar 8 5)).task).isSome = true ∧
    (dueResult (due (.tile 7 Tile.initial)).task).isSome = true ∧ (dueResult (due (.rim 15 [])).task).isSome = true := by decide

theorem witness_IssueEvents_owed :
    let o : Owed := ⟨1, 0, 3, false, false, .fixed 0, false, .reduction 15 [] [] 0 false false⟩
    findOwed owing 1 = some (0, 0, owedLoad) ∧ owedLoad.held = false ∧ (1 : Nat) ≠ owing.moduleId.toNat ∧
    findOwed (running { Task.fresh with owed := [o] }) 1 = some (0, 0, o) := by decide

theorem witness_IssueEvents_fill :
    let f : Fill := ⟨0, false, true, none, none⟩
    let s := withWindow { Core.reset with fills := [f] }
    nextFill (getCore s 0) = some f ∧ fillWanted (getCore s 0) f = true ∧
    queuedBehind s (s.nextOwed + 1) false [(lineVa (getCore s 0) f.line, 128)] = false ∧
    fillWanted (getCore (withWindow { Core.reset with fills := [f], lines := [(0, ⟨0, false, 0, 0x40000⟩)] }) 0) f = false ∧
    admittedBy s (fun d => d.filling.contains (0, f.line)) = none ∧
    (match translate (Agent.ofCore 0) .read (lineVa (getCore s 0) 0) s, fillLine s 0 0 with
      | .ok _ _, .ok _ _ => true
      | _, _ => false) = true ∧
    (let f := { f with demand := false }
     let s := { withWindow { Core.reset with fills := [f] } with mem := memPutWord tables 0x30020 0x4281F }
     nextFill (getCore s 0) = some f ∧ pageMoves s 0 (lineVa (getCore s 0) f.line) = true) := by decide +kernel

theorem witness_TaskEvents_trap : (7 : Nat) < 8 ∧
    (let t : Task := { Task.fresh with tvec := 0x1000, detected := [⟨causeFp, 1, 7, 0x20, []⟩] }
     t.owed = [] ∧ t.waits = [] ∧ t.trapping = none ∧ dueResult t = none ∧ t.tvec ≠ 0 ∧ t.supervisor = false) := by decide

theorem witness_TaskEvents_rim :
    let s : State := { running { Task.fresh with rimWait := some 0, latch := .full ⟨0, true, [⟨3, .kwait 0 15⟩]⟩, rims := [(15, ⟨.pending 6 0, []⟩)] }
      with tick := 256 }
    0 + 256 ≤ s.tick ∧ s.task.inflight = [] ∧ snapCount s.task = 0 ∧ (15 : BitVec 6).toNat < rimQuota s.task ∧
    (getRim s 15).state ≠ .ready := by decide

theorem witness_TaskEvents_wait :
    let w : Wait := ⟨.word (own 0) 0 0 5 (.fixed 0), some 5, 0, 2, 0, true⟩
    let s : State := { running { Task.fresh with waits := [w] } with tick := 5 }
    s.task.waits.any (Wait.expired s.tick) = true ∧ OwnPlain s (own 0) 8 0 ∧ word (leNat (ownAt s 0 8)) = 0 := by decide

theorem witness_TaskEvents_schedule : atSafePoint { Task.fresh with quantum := 4096 } = true ∧ Task.fresh.waits = [] ∧
    (let s : State := { base with clusters := [(0, { Cluster.reset with ctxBase := 0x40000, ctxCount := 1 })] }
     getFrame s 0 0 = some s.task ∧ freeRecord (getCluster s (clusterOf 0)) = some 0x40000 ∧ savable s 0 0 s.task = true ∧
     (match saveFrame 0 0 s.task 0x40000 s with
       | .ok _ => true
       | .error _ => false) = true ∧
     savable s 0 0 { s.task with atSafe := false } = false) ∧
    (let x : Saved := ⟨Task.fresh, 1, 0x40000, [], false, []⟩
     let s : State := { base with clusters := [(0, { Cluster.reset with ctxBase := 0x40000, ctxCount := 1, saved := [x] })] }
     (getCluster s 0).saved[0]? = some x ∧ (spotFor s x.core x.task true).isSome = true ∧ loadingFor s 0 x.core x.task = false ∧
     classTurn s 0 x.task = true ∧
     (match readRecord (Agent.ofDie (dieOf x.core)) x.record (recordLayout x (tasksOn s x.core).isEmpty) s with
       | .ok _ => true
       | .error _ => false) = true) := by decide +kernel

theorem witness_TaskEvents_wheel :
    let s : State := { running { Task.fresh with waits := [⟨.slotWheel [⟨6, .fixed 0, 0, .scLoad (own 8) false 9⟩], none, 0, 6, 0, true⟩] } with tick := 1024 }
    s.tick % 1024 = s.active ∧ s.active < 768 ∧ present s s.active = true ∧ (getDie s (dieOf s.active)).online = true ∧
    s.task.owed = [] ∧ s.task.inflight = [] ∧ OwnPlain s (own 8) 8 8 := by decide

theorem witness_TaskEvents_cancel :
    let t : Task := { Task.fresh with phasectl := 0xE000000, cancel := some 0x40, checkpoint := some ⟨[], [], 1, 0, 0⟩ }
    t.cancel = some 0x40 ∧ t.checkpoint = some ⟨[], [], 1, 0, 0⟩ ∧ t.owed = [] ∧ t.waits = [] ∧ Core.reset.eccBad = [] ∧ Core.reset.eccOnce = [] ∧ bits t.phasectl 26 2 = 3 ∧
    bits (0x2000000 : Word) 26 2 < 3 ∧ rerunRoom base = true := by decide

theorem witness_TaskEvents_debug : (getCore { base with core := { base.core with stopped := true } } 0).stopped = true ∧
    onlyParked { base with core := { base.core with stopped := true } } 0 = false ∧
    ({ base with debugMode := true } : State).debugMode = true ∧ present base 767 = true := by decide

/-! ## Witnesses: events of a cluster -/

/-- A queue whose descriptor is at 0x40000 and whose 16 slots begin at 0x41000, with WRITE = `w` and a packet in slot 0. -/
def queueMemory (w : Nat) (packet : List Byte) : Memory :=
  memStore (memStore (memStore (memStore tables 0x40000 (leBytes 8 w)) 0x40088 (leBytes 8 0x41000)) 0x40090 [4]) 0x41000 packet
/-- An empty ring: no slot is published. -/
def emptyRing : List Byte := (List.range 16).flatMap fun _ => leBytes 4 0 ++ leBytes 4 0xFFFFFFFF ++ leBytes 56 0
/-- A launch of one instance: KIND 1, COUNT 1. -/
def launchPacket : List Byte := leBytes 24 1 ++ leBytes 40 1
def queued (packet : List Byte) (launch : Bool) : State := { pagedBase with
  mem := queueMemory 1 packet
  clusters := [(0, { Cluster.reset with launchQueues := if launch then [⟨0x40000⟩] else [], copyQueues := if launch then [] else [(0, ⟨0x40000⟩)] })] }

/-- A published packet of a kind is next, and taking it advances READ. -/
def takes (s : State) (kind : Nat) : Bool :=
  match nextQueue 0 s with
  | some (.ok (q, d, ring, b, s1)) => match advanceRead (Agent.ofCluster 0) 0 d ring s1 with
    | .ok s2 => bits (packetField b 0 8) 0 8 == kind && packetField b 0x20 8 == 0 &&
      (kind == 0 || rejectCode (updCluster s2 0 fun x => { x with rr := q + 1 }) 0 b none == 0)
    | _ => false
  | _ => false

theorem witness_SchedulerEvents_idle : (queued launchPacket true).booted = true ∧ (getCluster (queued launchPacket true) 0).fwHalted = false ∧
    (getCluster (queued launchPacket true) 0).launches.length < 256 ∧ (getCluster (queued launchPacket true) 0).voids = [] ∧
    (getCluster (queued launchPacket true) 0).fwPending.any FirmwareOutput.left = false ∧
    takeLate (queued launchPacket true) 0 = false := by decide +kernel

theorem witness_SchedulerEvents_take : takes (queued launchPacket true) 1 = true ∧ takes (queued [] true) 0 = true := by decide +kernel

theorem witness_SchedulerEvents_create :
    let l : Launch := { launch0 with st := .issuing, toCreate := 1 }
    let s : State := { State.reset with clusters := [(0, { Cluster.reset with launches := [l] })] }
    (getDie s (0 / 4)).online = true ∧ (getCluster s 0).launches[0]? = some l ∧ l.st = .issuing ∧ 0 < l.toCreate ∧
    max 1 (l.share / l.toCreate) ≤ l.share + l.reserve ∧ placements s 0 = [] ∧ fittingCores s 0 (rootTask l l.nextIndex 1 s.tick) ≠ [] ∧
    classTurn s 0 (rootTask l l.nextIndex 1 s.tick) = true ∧
    (∀ x ∈ (getCluster s 0).launches, creatable s 0 x = true → bits l.hdr 22 2 ≤ bits x.hdr 22 2) := by decide +kernel

theorem witness_SchedulerEvents_place :
    let s : State := { base with clusters := [(0, { Cluster.reset with ready := [{ Task.fresh with place := 0, taskId := 1 }] })] }
    let u : State := { s with absent := List.range 768 |>.filter (· ≠ 0) }
    ((placements u 0).map fun x => (x.2.1, classTurn u 0 x.1)) = [(0, true)] ∧ tasksOn u 0 ≠ [] := by decide +kernel

theorem witness_SchedulerEvents_age :
    let t : Task := { Task.fresh with prio := 3, effClass := 3 }
    let s : State := { State.reset with tick := 65536, clusters := [(0, { Cluster.reset with ready := [t] })] }
    (getCluster s 0).ready.any (fun t => t.effClass != t.prio - (s.tick - t.readySince) / 2 ^ 16) = true := by decide +kernel

theorem witness_SchedulerEvents_displace :
    let t : Task := { Task.fresh with btabVa := 32, taskId := 1 }
    let s : State := { running { Task.fresh with effClass := 2 } with
      absent := List.range 768 |>.filter (· ≠ 0)
      clusters := [(0, { Cluster.reset with ready := [t], ctxBase := 0x40000, ctxCount := 1 })] }
    (getCluster s 0).ready = [t] ∧ fittingCores s 0 t = [] ∧
    (victimOf (displaceable s 0 t)).map (fun x => (x.1, x.2.1, savable s x.1 x.2.1 x.2.2)) = some (0, 0, true) ∧
    freeRecord (getCluster s (clusterOf 0)) = some 0x40000 ∧
    (match saveFrame 0 0 s.task 0x40000 s with
      | .ok _ => true
      | .error _ => false) = true := by decide +kernel

theorem witness_SchedulerEvents_complete :
    let l : Launch := { launch0 with st := .running, toCreate := 0, share := 0, reserve := 2 ^ 32, done := 0x40000 }
    let s : State := { pagedBase with clusters := [(0, { Cluster.reset with launches := [l] })] }
    (getCluster s 0).launches[0]? = some l ∧ l.st ≠ .waiting ∧ l.toCreate = 0 ∧ l.reserve + l.share = 2 ^ 32 ∧
    (match finishLaunch 0 l s with
      | .ok s1 => !wordPending s1 0 l.statusVa
      | .error _ => false) = true := by decide +kernel

theorem witness_SchedulerEvents_hoop :
    (smGet Hoop.initial (getCluster (hooped { member with arrived := member.members } []) 0).hoops 0).due = true := by decide

theorem witness_FirmwareEvents :
    let s : State := { pagedBase with
      mem := queueMemory 0 emptyRing
      clusters := [(0, { Cluster.reset with fwHalted := true }), (1, { Cluster.reset with lockstep := false }),
        (2, { Cluster.reset with lockstep := true, fwPending := [.launchQueue 0x40000], fwMismatch := 2 }),
        (3, { Cluster.reset with lockstep := false, launchQueues := [⟨0x40000⟩] })] }
    (getCluster s 0).fwHalted = true ∧ (getCluster s 1).fwHalted = false ∧ (getCluster s 1).lockstep = false ∧
    spaceOf s none none (2 ^ 63) = .nowhere ∧ s.booted = true ∧ ({ s with booted := false } : State).booted = false ∧
    ownMemory s 0x40000 = true ∧ (getCluster s 2).fwHalted = false ∧
    (getCluster s 2).fwSince + 2 ^ 16 ≤ ({ s with tick := 2 ^ 16 } : State).tick ∧ s.tick < (getCluster s 2).fwSince + 2 ^ 16 ∧
    (getCluster s 1).knows 0x40000 = false ∧ (getCluster s 1).fwPending = [] ∧
    (getCluster s 1).launchQueues.length < 64 ∧ smFind (getCluster s 1).copyQueues 0 = none ∧
    (getCluster s 3).knows 0x40000 = true ∧ (0x40000 : Word).toNat % 65536 = 0 ∧ (getCluster s 2).lockstep = true ∧
    (getCluster s 2).fwPending = [.launchQueue 0x40000] ∧ (getCluster s 2).fwPending.any FirmwareOutput.left = false ∧ 2 ≤ (getCluster s 2).fwMismatch ∧ (getCluster s 1).fwMismatch < 2 := by decide +kernel

theorem witness_FirmwareEvents_descriptor :
    let s : State := { pagedBase with mem := queueMemory 0 emptyRing }
    (descriptorOk s 1 0x40000 true).1 = true ∧ (descriptorOk s 1 0x40000 false).1 = true := by decide +kernel

/-! ## Witnesses: copies -/

theorem witness_CopyEvents_channel :
    let x : CopyStream := .channel 0 2
    let s : State := { base with core := { base.core with channels := [(2, [{ aCopy with stage := .words }])] } }
    streamJobs copying x = [aCopy] ∧ (getDie copying (streamDie x)).online = true ∧ aCopy.posted = none ∧ aCopy.stage = .fresh ∧
    aCopy.check ≠ 0 ∧ streamJobs s x = [{ aCopy with stage := .words }] ∧ aCopy.awaiting = none ∧ aCopy.done = 0 ∧
    bits aCopy.hdr 25 1 = 0 ∧ bits aCopy.hdr 0 8 ≠ 2 := by decide +kernel

/-- A copy of 4 bytes of the page at 0x40000 to its byte 0x100, at scope clu. -/
def soundCopy : CopyJob := { aCopy with
  packet := leBytes 8 (2 + 2 ^ 22) ++ leBytes 8 0x40000 ++ leBytes 8 0x40100 ++ leBytes 8 0 ++ leBytes 2 4 ++ leBytes 2 1 ++ leBytes 28 0 }

theorem witness_CopyEvents_payload :
    let s : State := { pagedBase with core := { base.core with channels := [(2, [soundCopy])] } }
    let x : CopyStream := .channel 0 2
    let moving : CopyJob := { soundCopy with stage := .moving, todo := soundCopy.plan }
    streamJobs s x = [soundCopy] ∧ (getDie s (streamDie x)).online = true ∧ soundCopy.posted = none ∧ soundCopy.stage = .fresh ∧
    soundCopy.check = 0 ∧ soundCopy.gather = false ∧ soundCopy.awaiting = none ∧ soundCopy.plan.length = 1 ∧
    (match runSectors (copyAgent s x moving) soundCopy.plan moving s with
      | (_, .finished, _) => true
      | _ => false) = true := by decide +kernel

/-- The next copy packet and its kind. -/
def takesCopy (s : State) (kind : Nat) : Bool :=
  match nextCopyQueue 0 s with
  | some (.ok (_, d, ring, b, s1)) => bits (packetField b 0 8) 0 8 == kind && (match advanceRead (Agent.ofCluster 0) 0 d ring s1 with
    | .ok _ => true
    | _ => false)
  | _ => false

theorem witness_CopyEvents_queue : takesCopy (queued (leBytes 64 2) false) 2 = true ∧ takesCopy (queued [] false) 0 = true := by decide +kernel

/-! ## Witnesses: dies and the pool -/

/-- Die 0 with tables and more. -/
def dieWith (f : Die → Die) : State := { pagedBase with dies := smSet Die.reset [] 0 (f pagedDie) }

theorem witness_DieEvents_frames : (0x90000 : Word).toNat % 65536 = 0 ∧ (0x90000 : Word).toNat + 65536 ≤ dieBytes pagedBase 0 ∧
    ¬ (0x90001 : Word).toNat % 65536 = 0 ∧ (0xFFFFFFFF0000 : Word).toNat < 2 ^ 48 ∧
    (getDie (dieWith fun k => { k with reclaim := [0x90000, 2 ^ 60] }) 0).reclaim = [0x90000, 2 ^ 60] ∧ (0x90000 : Nat) < 2 ^ 60 := by decide +kernel

/-- What every move of a page asks, for the page at an offset with its entry. -/
def movable (s : State) (off : Nat) (e : Word) (pa : Nat) : Bool :=
  (getDie s 0).online && (getDie s 0).moving.isNone && s.holders.isEmpty && spaceOf s none none (dieReg s 0 0x200) == .device 0 off
    && (match (Translator.die 0 7).root s with
      | .ok root => root == 0x10000
      | _ => false)
    && walk s 0 0x10000 off == .leaf off (2 ^ 16) e pa && !leafMalformed (2 ^ 16) e && leafCommit e && leafMig e == 0

theorem witness_DieEvents_move :
    let s := dieWith fun k => { k with regs := [(0x200, 0x40000)], freeFrames := [0x90000] }
    movable s 0x40000 0x4201F 0x30020 = true ∧ leafLoc 0x4201F = false ∧ leafFrame 0x4201F + 65536 ≤ dieBytes s 0 ∧
    (getDie s 0).freeFrames = [0x90000] ∧
    movable (dieWith fun k => { k with regs := [(0x200, 0x40000)] }) 0x40000 0x4201F 0x30020 = true := by decide +kernel

theorem witness_DieEvents_evict :
    let s := { dieWith fun k => { k with regs := [(0x200, 0x40000)], poolPages := [0x10000] } with regions := [(0, 1)] }
    movable s 0x40000 0x4201F 0x30020 = true ∧ (getDie s 0).poolPages = [0x10000] ∧ regionServes s (0x10000 / 2 ^ 30) = true ∧
    (getDie s 0).freeFrames = [] := by decide +kernel

theorem witness_DieEvents_fetch :
    let s := { dieWith fun k => { k with regs := [(0x200, 0x80000)], freeFrames := [0x90000] } with regions := [(0, 1)] }
    movable s 0x80000 0x8A01F 0x30040 = true ∧ leafLoc 0x8A01F = true ∧ regionServes s (leafFrame 0x8A01F / 2 ^ 30) = true := by
  decide +kernel

/-- A move under way of the page at 0x40000, or of the one in the pool at 0x80000, with what the move of each kind asks at its end. -/
def moves (kind off pa target : Nat) : State :=
  { dieWith fun k => { k with moving := some ⟨kind, off, pa, target⟩ } with regions := [(0, 1)] }

theorem witness_DieEvents_ends :
    let s := moves 1 0x40000 0x30020 0x90000
    let e := tableEntry s 0 0x30020
    (getDie s 0).online = true ∧ (getDie s 0).moving = some ⟨1, 0x40000, 0x30020, 0x90000⟩ ∧ s.holders = [] ∧ e = 0x4201F ∧
    leafPin e = 0 ∧ leafLoc e = false ∧ (0x30020 + 8 ≤ 0x90000) ∧ (0x30020 + 8 ≤ leafFrame e) ∧ leafFrame e + 65536 ≤ 0x90000 := by
  decide +kernel

theorem witness_DieEvents_ends_pool :
    let s := moves 2 0x40000 0x30020 0x10000
    let u := moves 3 0x80000 0x30040 0x90000
    (getDie s 0).moving = some ⟨2, 0x40000, 0x30020, 0x10000⟩ ∧ regionServes s (0x10000 / 2 ^ 30) = true ∧
    tableEntry s 0 0x30020 = 0x4201F ∧ (getDie u 0).moving = some ⟨3, 0x80000, 0x30040, 0x90000⟩ ∧
    tableEntry u 0 0x30040 = 0x8A01F ∧ leafPin 0x8A01F = 0 ∧ leafLoc 0x8A01F = true ∧
    regionServes u (leafFrame 0x8A01F / 2 ^ 30) = true := by decide +kernel

theorem witness_DieEvents_pinned :
    let s := { moves 1 0x40000 0x30020 0x90000 with mem := memPutWord tables 0x30020 0x4289F }
    let e := tableEntry s 0 0x30020
    (getDie s 0).moving = some ⟨1, 0x40000, 0x30020, 0x90000⟩ ∧ leafPin e ≠ 0 ∧ leafMig e = 1 := by decide +kernel

theorem witness_DieEvents_lines : ∀ g, (getCore pagedBase g).lines = [] := by
  intro g
  simp only [getCore]
  split <;> rfl

theorem witness_DieEvents_sweep :
    let s := dieWith fun k => { k with regs := [(0xA0, 1), (0xA8, 2), (0x100, 0x40001), (0x108, 0x10000)] }
    (getDie s 0).freeFrames.length < (dieReg s 0 0xA0).toNat ∧ (getDie s 0).freeFrames.length < (dieReg s 0 0xA8).toNat ∧
    (evictable s 0)[(getDie s 0).evSweep % (evictable s 0).length]? = some 0x40000 ∧
    walk s 0 0x10000 0x40000 = .leaf 0x40000 (2 ^ 16) 0x4201F 0x30020 ∧ leafA 0x4201F = true := by decide +kernel

theorem witness_DieEvents_reset : (getDie pagedBase 0).online = true ∧ (getDie pagedBase 0).moving = none ∧ pagedBase.holders = [] ∧
    (getDie pagedBase 0).failed = false ∧
    (let at' := fun n => dieWith fun k => { k with online := false, resetStep := n, clearPending := true }
     [1, 2, 3, 5, 6, 0].map (fun n => ((getDie (at' n) 0).resetStep, (getDie (at' n) 0).online)) =
       [(1, false), (2, false), (3, false), (5, false), (6, false), (0, false)] ∧
     (at' 2).holders = [] ∧ (getDie (at' 3) 0).clearPending = true) ∧
    (let s := dieWith fun k => { k with online := false, failed := true, resetStep := 0 }
     (getDie s 0).failed = true ∧ (getDie s 0).online = false ∧ (getDie s 0).resetStep = 0) ∧
    (let k := getDie (dieWith fun k => { k with resetStep := 6, failed := true, clearPending := true }) 0
     k.resetStep = 6 ∧ k.clearPending = true ∧ (k.rowDown && k.columnDown) = false) ∧
    (getDie (dieWith fun k => { k with columnDown := true, rowDown := true }) 0).columnDown = true := by decide +kernel

theorem witness_DieEvents_resetWork :
    let s := dieWith fun k => { k with online := false, resetStep := 3 }
    workEnded (endCopies 0 (endLaunches 0 (endTasks 0 (returnOwn 0 (openDie 0 s))))) 0 = true ∧
    draining (dieWith fun k => { k with online := false, resetStep := 1 }) 0 = false := by decide +kernel

theorem witness_PoolEvents_quiet : ∀ e ∈ allFrames ({ State.reset with portsUp := 3, regions := [(0, 0x0301)] } : State), e.2.2.owed = [] := by
  decide +kernel

theorem witness_PoolEvents :
    let s : State := { State.reset with portsUp := 3, regions := [(0, 0x0301), (1, 0x0101), (2, 0x0200)] }
    bits (regionWord s 2) 0 2 = 0 ∧ (BitVec.ofNat 8 (bits (0x0301 : Word) 8 8)).getLsbD (bits (0x0301 : Word) 16 3) = true ∧
    (∀ i, i < 8 → (BitVec.ofNat 8 (bits (0x0301 : Word) 8 8)).getLsbD i = true → s.portsUp.getLsbD i = true) ∧
    ¬ (BitVec.ofNat 8 (bits (0x0401 : Word) 8 8)).getLsbD (bits (0x0401 : Word) 16 3) = true ∧
    s.portsUp.getLsbD 7 = false ∧ s.portsUp.getLsbD 0 = true ∧ regionServes s 0 = true ∧ regionServes s 1 = true ∧
    regionPorts (regionWord s 0) &&& 2 ≠ 0 ∧ regionPorts (regionWord s 1) &&& 2 = 0 := by decide +kernel

/-! ## Witnesses: the host and the fabric -/

/-- A translation and a home that answers. -/
def answers (s : State) (u : Use) (va : Word) (n : Nat) : Bool :=
  match translate Agent.io u va s with
  | .ok g s1 => (holdersOf s1 g.key n true).isEmpty && !rangePoisoned s1 g.key n
  | _ => false

theorem witness_HostEvents_access : (0x401000 : Nat) ≤ 0x401000 ∧ ¬ (4 % 8 = 0 ∧ (8 : Nat) = 8) ∧ pagedBase.lmsLeaf < 2 ^ 15 ∧
    (25 : Nat) + 25 ≤ 1050 ∧ 50 ≤ State.reset.clockMHz ∧
    [(0xFFFF : BitVec 16), 0xFFF0 ||| 1, 0x0FFF, 0xFFFF].all channelsOk = true ∧
    inAperture pagedBase (2 ^ 62) 8 = false ∧ inAperture pagedBase (pagedBase.bar2Base + word 0x4FFF8) 8 = true ∧ 0x4FFF8 < pagedBase.bar2Size ∧
    pagedBase.bar2Size ≤ 2 ^ 40 ∧ inAperture pagedBase 0x40000 8 = true ∧ (0x40000 : Word).toNat % 8 = 0 ∧
    spaceOf pagedBase none none (pagedBase.bar2Base + word 0x4FFF8) = .device 0 0x4FFF8 ∧
    (0x4FFF8 : Word).toNat % 2 ^ 16 + 8 ≤ 2 ^ 16 ∧ answers pagedBase .read 0x4FFF8 8 = true ∧ answers pagedBase .atomic 0x40000 8 = true ∧
    (match ioWrite 0x40000 [1, 2] pagedBase with
      | .ok _ _ => true
      | _ => false) = true := by decide +kernel

/-- A held read of the page at 0x40000 by module 1, with token 1. -/
def heldRead : HeldRequest := ⟨1, 0, 0, 3, 0x40000, .read 8, false, 1, true, causeSparse, 0⟩

theorem witness_HostEvents_held :
    let s : State := { dieWith fun k => { k with held := [heldRead] } with tick := 2 ^ 26 }
    heldBy s 0 2 = none ∧ heldBy s 0 1 = some heldRead ∧ heldRead.tick + 2 ^ 26 ≤ s.tick ∧
    (getDie s 0).held.filter (sameStream heldRead) = [heldRead] ∧
    waitsBehind (updDie s 0 fun k => { k with held := k.held.filter fun x => !sameStream heldRead x }) heldRead.va heldRead.kind = false ∧
    (match performRemote 1 0x40000 (.read 8) (dieWith fun k => { k with held := [] }) with
      | .ok _ _ => true
      | _ => false) = true := by decide +kernel

theorem witness_FabricEvents_request :
    let s := counting []
    let h : HeldRequest := ⟨1, 0, 0, 3, 0x1000000, .counterRead, false, 0, false, 0, 0⟩
    ownerDie s 0x1000000 .counterRead = some 0 ∧ holdingDie s h = none ∧ nackedAt s h = none ∧ nameFate s 0x1000000 = .live 0 0 ∧
    ownerDie pagedBase 0x40000 (.read 8) = some 0 ∧
    waitsBehind pagedBase 0x40000 (.read 8) = false ∧ waitsBehind pagedBase 0x40000 (.write [1]) = false ∧ holdingDie (dieWith fun k => { k with held := [heldRead] }) heldRead = some 0 ∧
    (nackedAt (dieWith fun k => { k with nacked := [⟨1, 0, 0, 3, 0x40000, .read 8, causeSparse⟩] }) { heldRead with va := 0x40008 }).map
      (fun x => (x.1, x.2.va, x.2.cause)) = some (0, 0x40000, causeSparse) ∧
    (match ioRead 0x40000 8 pagedBase, ioWrite 0x40000 [1] pagedBase with
      | .ok _ _, .ok _ _ => true
      | _, _ => false) = true := by decide +kernel

theorem witness_FabricEvents_faults :
    let s := dieWith fun k => { k with regs := [(0x20, 0x40000), (0x28, 1)] }
    (match performRemote 1 0x50000 (.read 8) s with
      | .fault f s1 => holdable (.read 8) f && s1.records.isEmpty && decide ((getDie s1 0).fqHead.toNat - (dieReg s1 0 0x38).toNat < (dieReg s1 0 0x28).toNat)
      | _ => false) = true := by decide +kernel

theorem witness_FabricEvents_links :
    let x : Stream := ⟨0, 0, 3, none, true, []⟩
    let o : Owed := ⟨1, 0, 6, false, false, .fixed 3, false, .access (.load 0 8 false 8) 3 1⟩
    getFrame (running { Task.fresh with owed := [o] }) 0 0 = some { Task.fresh with owed := [o] } ∧ o.held = false ∧
    (1 : Nat) ≠ base.moduleId.toNat ∧ linked 0x00 0x0E = true ∧ linkName 0x00 0x0E ∉ base.linksDown ∧
    linkName 0x00 0x0E ∈ ({ base with linksDown := [(0, 14)] } : State).linksDown ∧
    (({ base with streams := [x] } : State).streams = [x] ∧ x.holding = true ∧ x.frozen = none) ∧
    getFrame base x.core x.frame = some Task.fresh ∧ Task.fresh.owed = [] ∧
    ((1 : BitVec 8) ≠ base.moduleId ∧ (1 : BitVec 8).toNat ∈ ({ base with modules := [1] } : State).modules ∧
      (1 : BitVec 8).toNat ∉ base.dead) := by decide +kernel

theorem witness_FabricEvents_lines :
    let ln : Line := ⟨1, true, 0, 2 ^ 60 + (2 ^ 54 + 0x40000)⟩
    let s : State := { base with core := { base.core with lines := [(5, ln)] } }
    spaceOf s none none (word (2 ^ 54 + 0x40000)) = .remote 1 0 0x40000 ∧ remoteLines base (word (2 ^ 54 + 0x40000)) = [] ∧
    remoteLines s (word (2 ^ 54 + 0x40000)) = [(0, 5, ln)] ∧ (getCore s 0).sent = [] ∧ ln.dirty ≠ 0 := by decide +kernel

/-- Group 1 with this module as root and only member, over the page at 0x40000. -/
def grouped : State := { pagedBase with groups := [(8, 1), (9, 0x40000), (10, 0x10000), (12, 1)] }

theorem witness_FabricEvents_multicast : rootBusy grouped = false ∧ grouped.rootWrites = [] ∧ rootBusy base = false ∧ base.rootWrites = [] ∧
    waitsBehind grouped (memberVa grouped 1 grouped.moduleId.toNat 0xFFF8) (.write (leBytes 8 7)) = false ∧ bits (groupWord grouped 1 0) 8 8 = grouped.moduleId.toNat ∧ bits (groupWord grouped 1 0) 0 1 = 1 ∧
    bits (groupWord base 1 0) 0 1 = 0 ∧ (0xFFF8 : Word).toNat + 8 ≤ (groupWord grouped 1 2).toNat ∧
    (List.range 256).all (fun m => isMember grouped 1 m == decide (m = grouped.moduleId.toNat)) = true ∧
    (match agentWrite Agent.io (memberVa grouped 1 grouped.moduleId.toNat 0xFFF8) (leBytes 8 7) grouped with
      | .ok _ _ => true
      | _ => false) = true := by decide +kernel

/-- The same with module 1 as the only member. -/
theorem witness_FabricEvents_multicast_other :
    let s : State := { pagedBase with modules := [0, 1], groups := [(8, 1), (9, 0x40000), (10, 0x10000), (12, 2)] }
    bits (groupWord s 1 0) 8 8 = s.moduleId.toNat ∧ bits (groupWord s 1 0) 0 1 = 1 ∧ (0xFFF8 : Word).toNat + 8 ≤ (groupWord s 1 2).toNat ∧
    rootBusy s = false ∧ s.rootWrites = [] ∧ 1 ≠ s.moduleId.toNat ∧ 1 ∈ s.modules ∧ 1 ∉ s.dead ∧
    (List.range 256).all (fun m => isMember s 1 m == decide (m = 1)) = true := by decide +kernel

/-- Entry 0 of die 0 has fired: TYPE in the header. -/
def fired (p : Posted) : State := setPosted { pagedBase with mem := queueMemory 0 emptyRing } 0 0 { p with used := true, firing := 1 }
def fire (type : Nat) : Posted := { Posted.initial with hdr := word (3 + type * 2 ^ 8) }

theorem witness_FabricEvents_posted :
    let cinc := fire 4
    let amo := { fire 2 with dst := 0x42000 }
    let launch := { fire 6 with src := 0x42000, dst := 0x40000 }
    postType (getPosted (fired cinc) 0 0) = 4 ∧ (getDie (fired cinc) 0).online = true ∧ (getPosted (fired cinc) 0 0).used = true ∧ 0 < (getPosted (fired cinc) 0 0).firing ∧
    nameFate (counting []) 0x1000000 = .live 0 0 ∧ postType (getPosted (fired amo) 0 0) = 2 ∧ amo.log = [] ∧ amo.awaiting = none ∧ (getPosted (fired amo) 0 0).src = 0 ∧
    (match agentRmw (postAgent 0 amo 0x42000) 0x42000 (amoBytes (postNarrow amo)) (fun old => some (amoStore 0 (postNarrow amo) 0 old)) (fired amo) with
      | .ok _ _ => true
      | _ => false) = true ∧
    postType (getPosted (fired launch) 0 0) = 6 ∧ (getPosted (fired launch) 0 0).begun = false ∧
    (match runLaunch 24 (fired launch) 0 0 with
      | .ends ok _ => ok
      | _ => false) = true ∧
    (getPosted (fired cinc) 0 0).arriving = false ∧ (getPosted (fired amo) 0 0).arriving = false ∧
    (getPosted (fired launch) 0 0).arriving = false ∧
    postAv cinc = false ∧ postCv cinc = false ∧ cinc.armed = false ∧ (getPosted (fired cinc) 0 0).firing = 1 := by decide +kernel

/-- A PUT to another module whose arrival counter has answered. -/
theorem witness_FabricEvents_arrival :
    let put : Posted := { fire 0 with arriving := true, answer := some (.data []), awaiting := some 1 }
    let p := getPosted (fired put) 0 0
    (getDie (fired put) 0).online = true ∧ p.used = true ∧ 0 < p.firing ∧ p.arriving = true ∧ p.answer = some (.data []) ∧ postType p ≠ 7 ∧
    postCv p = false ∧ p.armed = false ∧ p.firing = 1 := by decide +kernel

theorem witness_FabricEvents_rim :
    let target : Word := word (15 * 2 ^ 18)
    bits target 0 8 = base.moduleId.toNat ∧ bits target 12 6 < 48 ∧ present base 0 = true ∧ bits target 24 8 = 0 ∧
    ((residents base 0).find? (fun e => e.2.ident == (BitVec.ofNat 32 (bits (0 : Word) 0 32), BitVec.ofNat 32 (bits target 32 32)))).map
      (fun e => e.1) = some 0 ∧ bits target 18 6 < rimQuota base.task ∧ (getRim base 15).state = .ready := by decide +kernel

end Sys2Proof.Tests
end

section
/-! SUPPORT. Floating-point values on a common grid, the fields of a pattern, and what one rounding of a finite value gives
(R15, R19, R21); and O6. -/

namespace Sys2Proof.Machine

/-! ## NaN operands (R19) -/

theorem signalFlag_pair (x y : Fp) : signalFlag [x, y] = if x = .nan true ∨ y = .nan true then flagNV else 0 := by
  rcases x with (_ | _) | _ | _ <;> rcases y with (_ | _) | _ | _ <;> simp [signalFlag]

theorem signalFlag_nan (q : Bool) : signalFlag [.nan q] = if q = true then flagNV else 0 := by
  cases q <;> rfl

theorem roundWith_nan (f : FFmt) (rm : Nat) (q : Bool) (z : Flags) : roundWith f rm (.nan q, z) = ⟨defaultNan f, z⟩ := by
  simp [roundWith, fpRound]

theorem fpSum_nan (rm : Nat) {x y : Fp} (h : x.isNan = true ∨ y.isNan = true) :
    fpSum rm [x, y] = (.nan false, signalFlag [x, y]) := by
  simp [fpSum, h]

theorem fpMul_nan {x y : Fp} (h : x.isNan = true ∨ y.isNan = true) : fpMul x y = (.nan false, signalFlag [x, y]) := by
  cases y with
  | nan q => cases x <;> rfl
  | inf _ | fin _ _ _ => cases x with
    | nan q => rfl
    | inf _ | fin _ _ _ => simp [Fp.isNan] at h

@[simp] theorem negate_isNan (x : Fp) : x.negate.isNan = x.isNan := by
  cases x <;> rfl

@[simp] theorem negate_eq_nan (x : Fp) (q : Bool) : x.negate = .nan q ↔ x = .nan q := by
  cases x <;> simp [Fp.negate]

theorem fpAdd_nan (f : FFmt) (rm : Nat) {x y : Fp} (h : x.isNan = true ∨ y.isNan = true) :
    fpAdd f rm x y = ⟨defaultNan f, signalFlag [x, y]⟩ := by
  rw [fpAdd, fpSum_nan rm h, roundWith_nan]

theorem fpMulR_nan (f : FFmt) (rm : Nat) {x y : Fp} (h : x.isNan = true ∨ y.isNan = true) :
    fpMulR f rm x y = ⟨defaultNan f, signalFlag [x, y]⟩ := by
  rw [fpMulR, fpMul_nan h, roundWith_nan]

theorem fpSub_nan (f : FFmt) (rm : Nat) {x y : Fp} (h : x.isNan = true ∨ y.isNan = true) :
    fpSub f rm x y = ⟨defaultNan f, signalFlag [x, y]⟩ := by
  rw [fpSub, fpAdd_nan f rm (by simpa using h)]
  simp [signalFlag_pair]

theorem fpDiv_nan (f : FFmt) (rm : Nat) {x y : Fp} (h : x.isNan = true ∨ y.isNan = true) :
    fpDiv f rm x y = ⟨defaultNan f, signalFlag [x, y]⟩ := by
  simp [fpDiv, h]

/-! ## Values on a common grid -/

/-- The magnitude `m * 2^e` in units of `2^g`, for `g` at most `e`. -/
def units (g : Int) (m : Nat) (e : Int) : Nat := m * 2 ^ (e - g).toNat

theorem units_finer {g g' e : Int} (hg : g' ≤ g) (he : g ≤ e) (m : Nat) :
    units g' m e = units g m e * 2 ^ (g - g').toNat := by
  have hexp : (e - g').toNat = (e - g).toNat + (g - g').toNat := by omega
  rw [units, units, hexp, Nat.pow_add, Nat.mul_assoc]

theorem units_mono {g e e' : Int} {m m' : Nat} (hm : m ≤ m') (he : e ≤ e') : units g m e ≤ units g m' e' :=
  Nat.mul_le_mul hm (Nat.pow_le_pow_right (by decide) (by omega))

/-- A step of the exponent doubles. -/
theorem units_succ {g e : Int} (h : g ≤ e) (m : Nat) : units g m (e + 1) = units g (2 * m) e := by
  have hexp : (e + 1 - g).toNat = (e - g).toNat + 1 := by omega
  rw [units, units, hexp, Nat.pow_succ, Nat.mul_comm (2 ^ _) 2, ← Nat.mul_assoc, Nat.mul_comm m 2]

theorem onGrid_fin (g : Int) (n : Bool) (m : Nat) (e : Int) :
    onGrid g (.fin n m e) = if n = true then -(units g m e : Int) else units g m e := by
  cases n <;> simp [onGrid, units]

theorem onGrid_finer {g g' e : Int} (hg : g' ≤ g) (he : g ≤ e) (n : Bool) (m : Nat) :
    onGrid g' (.fin n m e) = onGrid g (.fin n m e) * (2 ^ (g - g').toNat : Nat) := by
  rw [onGrid_fin, onGrid_fin, units_finer hg he, Int.natCast_mul]
  cases n with
  | false => rfl
  | true => exact (Int.neg_mul ..).symm

/-- Finite values compare as their significands do on any grid that both lie on. -/
theorem fpLt_fin {g e e' : Int} (he : g ≤ e) (he' : g ≤ e') (n n' : Bool) (m m' : Nat) :
    fpLt (.fin n m e) (.fin n' m' e') = decide (onGrid g (.fin n m e) < onGrid g (.fin n' m' e')) := by
  have hpos : (0 : Int) < (2 ^ (min e e' - g).toNat : Nat) := Int.natCast_pos.mpr (Nat.two_pow_pos _)
  have hg : g ≤ min e e' := by omega
  rw [fpLt, onGrid_finer hg (by omega), onGrid_finer hg (by omega), decide_eq_decide, Int.mul_lt_mul_right hpos]

theorem fpEq_fin {g e e' : Int} (he : g ≤ e) (he' : g ≤ e') (n n' : Bool) (m m' : Nat) :
    fpEq (.fin n m e) (.fin n' m' e') = decide (onGrid g (.fin n m e) = onGrid g (.fin n' m' e')) := by
  have hpos : (0 : Int) < (2 ^ (min e e' - g).toNat : Nat) := Int.natCast_pos.mpr (Nat.two_pow_pos _)
  have hg : g ≤ min e e' := by omega
  rw [fpEq, onGrid_finer hg (by omega), onGrid_finer hg (by omega), decide_eq_decide, Int.mul_eq_mul_right_iff (Int.ne_of_gt hpos)]

/-! ## The fields of a pattern (R15) -/

/-- The format has a fraction field and an exponent field that leaves room for normal numbers. -/
def FFmt.Regular (f : FFmt) : Prop := 2 ≤ f.prec ∧ 2 ≤ f.ebits

theorem regular_of_mem {f : FFmt} (h : f ∈ [f128, f64, f32, f16, bf16]) : f.Regular := by
  simp only [List.mem_cons, List.not_mem_nil, or_false] at h
  unfold FFmt.Regular
  rcases h with rfl | rfl | rfl | rfl | rfl <;> decide

theorem FFmt.Regular.two_pow_prec {f : FFmt} (hf : f.Regular) : 2 ^ f.prec = 2 * 2 ^ (f.prec - 1) := by
  rw [← Nat.two_pow_pred_mul_two (Nat.lt_of_lt_of_le (by decide) hf.1), Nat.mul_comm]

theorem FFmt.Regular.four_le {f : FFmt} (hf : f.Regular) : 4 ≤ 2 ^ f.ebits :=
  Nat.pow_le_pow_right (n := 2) (by decide) hf.2

/-- The pattern with a sign, an exponent field and a fraction. -/
def packFields (f : FFmt) (neg : Bool) (ex frac : Nat) : Nat := signBit f neg + ex * 2 ^ (f.prec - 1) + frac

theorem fpDecode_packFields {f : FFmt} (hf : f.Regular) (neg : Bool) {ex frac : Nat} (hex : ex < 2 ^ f.ebits)
    (hfrac : frac < 2 ^ (f.prec - 1)) :
    fpDecode f (packFields f neg ex frac) =
      if ex = 2 ^ f.ebits - 1 then if frac = 0 then .inf neg else .nan (frac / 2 ^ (f.prec - 2) == 0)
      else if ex = 0 then .fin neg frac f.qmin
      else .fin neg (frac + 2 ^ (f.prec - 1)) (f.qmin + (ex - 1 : Nat)) := by
  obtain ⟨hprec, -⟩ := hf
  have hwidth : 2 ^ (f.width - 1) = 2 ^ f.ebits * 2 ^ (f.prec - 1) := by
    rw [← Nat.pow_add]
    congr 1
    unfold FFmt.width
    omega
  have hsign : packFields f neg ex frac = frac + (ex + neg.toNat * 2 ^ f.ebits) * 2 ^ (f.prec - 1) := by
    rw [packFields, signBit, hwidth, Nat.add_mul]
    cases neg with
    | false => rw [if_neg (by decide), Bool.toNat_false, Nat.zero_mul, Nat.zero_mul]; omega
    | true => rw [if_pos rfl, Bool.toNat_true, Nat.one_mul]; omega
  have hlow : packFields f neg ex frac % 2 ^ (f.prec - 1) = frac := by
    rw [hsign, Nat.add_mul_mod_self_right, Nat.mod_eq_of_lt hfrac]
  have hhigh : packFields f neg ex frac / 2 ^ (f.prec - 1) = ex + neg.toNat * 2 ^ f.ebits := by
    rw [hsign, Nat.add_mul_div_right _ _ (Nat.two_pow_pos _), Nat.div_eq_of_lt hfrac, Nat.zero_add]
  have hexp : packFields f neg ex frac / 2 ^ (f.prec - 1) % 2 ^ f.ebits = ex := by
    rw [hhigh, Nat.add_mul_mod_self_right, Nat.mod_eq_of_lt hex]
  have htop : (packFields f neg ex frac / 2 ^ (f.width - 1) % 2 == 1) = neg := by
    rw [hwidth, Nat.mul_comm, ← Nat.div_div_eq_div_mul, hhigh, Nat.add_mul_div_right _ _ (Nat.two_pow_pos _), Nat.div_eq_of_lt hex]
    cases neg <;> rfl
  simp only [fpDecode, hlow, hexp, htop]

/-- The pattern of a zero. -/
theorem fpDecode_signBit {f : FFmt} (hf : f.Regular) (neg : Bool) : fpDecode f (signBit f neg) = .fin neg 0 f.qmin := by
  have h4 := hf.four_le
  have h := fpDecode_packFields hf neg (ex := 0) (frac := 0) (Nat.two_pow_pos _) (Nat.two_pow_pos _)
  rw [if_neg (by omega), if_pos rfl] at h
  simpa [packFields] using h

theorem fpDecode_infBits {f : FFmt} (hf : f.Regular) (neg : Bool) : fpDecode f (infBits f neg) = .inf neg := by
  have h4 := hf.four_le
  have h := fpDecode_packFields hf neg (ex := 2 ^ f.ebits - 1) (frac := 0) (by omega) (Nat.two_pow_pos _)
  simpa [packFields, infBits] using h

/-- The exponent of the largest finite values' least significant bit. -/
def FFmt.qmax (f : FFmt) : Int := f.qmin + 2 ^ f.ebits - 3

/-- The pattern below an infinity is the largest finite value. -/
theorem fpDecode_infBits_pred {f : FFmt} (hf : f.Regular) (neg : Bool) :
    fpDecode f (infBits f neg - 1) = .fin neg (2 ^ f.prec - 1) f.qmax := by
  have h4 := hf.four_le
  have hone : 1 ≤ 2 ^ (f.prec - 1) := Nat.one_le_two_pow
  have hprec := hf.two_pow_prec
  have hbits : infBits f neg - 1 = packFields f neg (2 ^ f.ebits - 2) (2 ^ (f.prec - 1) - 1) := by
    have : (2 ^ f.ebits - 1) * 2 ^ (f.prec - 1) = (2 ^ f.ebits - 2) * 2 ^ (f.prec - 1) + 2 ^ (f.prec - 1) := by
      rw [← Nat.succ_mul]
      congr 1
      omega
    rw [infBits, packFields, this]
    omega
  rw [hbits, fpDecode_packFields hf neg (by omega) (by omega), if_neg (by omega), if_neg (by omega)]
  have hq : f.qmin + ((2 ^ f.ebits - 2 - 1 : Nat) : Int) = f.qmax := by
    have : ((2 ^ f.ebits - 2 - 1 : Nat) : Int) = 2 ^ f.ebits - 3 := by
      rw [Nat.sub_sub, Int.natCast_sub (by omega), Int.natCast_pow]
      rfl
    rw [this, FFmt.qmax]
    omega
  rw [hq]
  congr 1
  omega

/-! ## One rounding (R21) -/

/-- The exponent of the least significant bit that the result of a rounding keeps. -/
def roundQuantum (f : FFmt) (m : Nat) (e : Int) : Int := max (e + (Nat.log2 m + 1 : Nat) - 1 - (f.prec - 1 : Nat)) f.qmin

/-- The significand shifted so that at least two bits lie below the quantum. -/
def roundScaled (f : FFmt) (m : Nat) (e : Int) : Nat := m * 2 ^ (e - (roundQuantum f m e - 2)).toNat

/-- The number of its bits below the quantum. -/
def roundShift (f : FFmt) (m : Nat) (e : Int) : Nat :=
  (roundQuantum f m e - (e - (e - (roundQuantum f m e - 2)).toNat)).toNat

/-- The exponent of the shifted significand's least significant bit. -/
def roundPoint (f : FFmt) (m : Nat) (e : Int) : Int := roundQuantum f m e - roundShift f m e

/-- The part of it above the quantum, and the part below. -/
def roundHigh (f : FFmt) (m : Nat) (e : Int) : Nat := roundScaled f m e / 2 ^ roundShift f m e
def roundRest (f : FFmt) (m : Nat) (e : Int) : Nat := roundScaled f m e % 2 ^ roundShift f m e

/-- The rounded significand in quanta. -/
def roundSig (f : FFmt) (rm : Nat) (neg : Bool) (m : Nat) (e : Int) : Nat :=
  if roundsUp rm neg (roundHigh f m e) (roundRest f m e) (roundShift f m e) false then roundHigh f m e + 1 else roundHigh f m e

/-- The exponent field and the fraction of a significand of `r` quanta `2^q`; a carry moves it up one exponent. -/
def sigField (f : FFmt) (q : Int) (r : Nat) : Int :=
  if r < 2 ^ (f.prec - 1) then 0 else if r = 2 ^ f.prec then q + 1 - f.qmin + 1 else q - f.qmin + 1
def sigFrac (f : FFmt) (r : Nat) : Nat :=
  if r < 2 ^ (f.prec - 1) then r else if r = 2 ^ f.prec then 0 else r - 2 ^ (f.prec - 1)

/-- A rounding beyond the largest finite value gives an infinity, where another gives the largest finite value. -/
def overflowToInf (rm : Nat) (neg : Bool) : Bool := rm % 4 == 0 || (rm % 4 == 2 && neg) || (rm % 4 == 3 && !neg)

/-- The fields as `roundFinite` computes them, after moving a carried significand back into range. -/
theorem sigField_carry (f : FFmt) (q : Int) (r : Nat) :
    (if (if (r == 2 ^ f.prec) = true then 2 ^ (f.prec - 1) else r) < 2 ^ (f.prec - 1) then (0 : Int)
      else (if (r == 2 ^ f.prec) = true then q + 1 else q) - f.qmin + 1) = sigField f q r := by
  have hle : 2 ^ (f.prec - 1) ≤ 2 ^ f.prec := Nat.pow_le_pow_right (by decide) (Nat.sub_le ..)
  by_cases hr : r = 2 ^ f.prec
  · simp [sigField, hr, Nat.not_lt.mpr hle]
  · simp [sigField, hr]

theorem sigFrac_carry (f : FFmt) (r : Nat) :
    (let h := if (r == 2 ^ f.prec) = true then 2 ^ (f.prec - 1) else r
      if h < 2 ^ (f.prec - 1) then h else h - 2 ^ (f.prec - 1)) = sigFrac f r := by
  have hle : 2 ^ (f.prec - 1) ≤ 2 ^ f.prec := Nat.pow_le_pow_right (by decide) (Nat.sub_le ..)
  by_cases hr : r = 2 ^ f.prec
  · simp [sigFrac, hr, Nat.not_lt.mpr hle]
  · simp [sigFrac, hr]

/-- What `roundFinite` gives of an exact value: beyond the largest exponent field an overflow, else the fields of the rounded
significand, with NX where a part lay below the quantum. -/
theorem roundFinite_eq (f : FFmt) (rm : Nat) (neg : Bool) (m : Nat) (e : Int) : ∃ tiny : Bool,
    roundFinite f rm neg m e false =
      let field := sigField f (roundQuantum f m e) (roundSig f rm neg m e)
      let inexact := roundRest f m e != 0 || false
      if (2 ^ f.ebits - 1 : Int) ≤ field then
        ⟨if overflowToInf rm neg then infBits f neg else infBits f neg - 1, flagOF ||| flagNX⟩
      else
        ⟨packFields f neg field.toNat (sigFrac f (roundSig f rm neg m e)),
          (if inexact then flagNX else 0) ||| (if tiny && inexact then flagUF else 0)⟩ := by
  simp only [← sigField_carry, ← sigFrac_carry]
  exact ⟨_, rfl⟩

/-! ## The value of a rounded significand -/

theorem roundQuantum_ge (f : FFmt) (m : Nat) (e : Int) : f.qmin ≤ roundQuantum f m e := Int.le_max_right ..

theorem roundShift_cast (f : FFmt) (m : Nat) (e : Int) :
    (roundShift f m e : Int) = roundQuantum f m e - e + (e - (roundQuantum f m e - 2)).toNat := by
  unfold roundShift
  omega

theorem roundPoint_le (f : FFmt) (m : Nat) (e : Int) : roundPoint f m e ≤ e := by
  have := roundShift_cast f m e
  unfold roundPoint
  omega

section Split

variable {f : FFmt} {m : Nat} {e g : Int}

/-- Nothing is lost before the split at the quantum. -/
theorem units_roundScaled (hg : g ≤ roundPoint f m e) :
    units g m e = roundScaled f m e * 2 ^ (roundPoint f m e - g).toNat := by
  have hexp : e - roundPoint f m e = ((e - (roundQuantum f m e - 2)).toNat : Int) := by
    have := roundShift_cast f m e
    unfold roundPoint
    omega
  rw [units_finer hg (roundPoint_le f m e), units, hexp, Int.toNat_natCast, roundScaled]

/-- A number of quanta in units of the shifted significand. -/
theorem units_quantum (hg : g ≤ roundPoint f m e) (r : Nat) :
    units g r (roundQuantum f m e) = r * 2 ^ roundShift f m e * 2 ^ (roundPoint f m e - g).toNat := by
  have hexp : (roundQuantum f m e - g).toNat = roundShift f m e + (roundPoint f m e - g).toNat := by
    unfold roundPoint at hg ⊢
    omega
  rw [units, hexp, Nat.pow_add, Nat.mul_assoc]

theorem units_roundHigh_le (hg : g ≤ roundPoint f m e) : units g (roundHigh f m e) (roundQuantum f m e) ≤ units g m e := by
  rw [units_quantum hg, units_roundScaled hg]
  exact Nat.mul_le_mul_right _ (Nat.div_mul_le_self ..)

theorem units_le_roundHigh_succ (hg : g ≤ roundPoint f m e) :
    units g m e ≤ units g (roundHigh f m e + 1) (roundQuantum f m e) := by
  rw [units_quantum hg, units_roundScaled hg, Nat.mul_comm (roundHigh f m e + 1)]
  exact Nat.mul_le_mul_right _ (Nat.le_of_lt (Nat.lt_mul_div_succ _ (Nat.two_pow_pos _)))

theorem units_eq_roundHigh (hg : g ≤ roundPoint f m e) (h : roundRest f m e = 0) :
    units g m e = units g (roundHigh f m e) (roundQuantum f m e) := by
  rw [units_quantum hg, units_roundScaled hg, roundHigh, Nat.div_mul_cancel (Nat.dvd_of_mod_eq_zero h)]

/-- The kept part fits the precision. -/
theorem roundHigh_lt (hf : f.Regular) : roundHigh f m e < 2 ^ f.prec := by
  refine Nat.div_lt_of_lt_mul ?_
  have hshift : Nat.log2 m + 1 + (e - (roundQuantum f m e - 2)).toNat ≤ roundShift f m e + f.prec := by
    have hq : e + (Nat.log2 m + 1 : Nat) - 1 - (f.prec - 1 : Nat) ≤ roundQuantum f m e := Int.le_max_left ..
    have := roundShift_cast f m e
    have := hf.1
    omega
  calc roundScaled f m e < 2 ^ (Nat.log2 m + 1) * 2 ^ (e - (roundQuantum f m e - 2)).toNat :=
        Nat.mul_lt_mul_of_pos_right Nat.lt_log2_self (Nat.two_pow_pos _)
    _ ≤ 2 ^ roundShift f m e * 2 ^ f.prec := by
        rw [← Nat.pow_add, ← Nat.pow_add]
        exact Nat.pow_le_pow_right (by decide) hshift

/-- Above the subnormal quantum the kept part has full precision. -/
theorem le_roundHigh (hm : m ≠ 0) (hq : roundQuantum f m e ≠ f.qmin) : 2 ^ (f.prec - 1) ≤ roundHigh f m e := by
  refine (Nat.le_div_iff_mul_le (Nat.two_pow_pos _)).mpr ?_
  have hshift : f.prec - 1 + roundShift f m e ≤ Nat.log2 m + (e - (roundQuantum f m e - 2)).toNat := by
    have htop : roundQuantum f m e = e + (Nat.log2 m + 1 : Nat) - 1 - (f.prec - 1 : Nat) := by
      unfold roundQuantum at hq ⊢
      omega
    have := roundShift_cast f m e
    omega
  calc 2 ^ (f.prec - 1) * 2 ^ roundShift f m e ≤ 2 ^ Nat.log2 m * 2 ^ (e - (roundQuantum f m e - 2)).toNat := by
        rw [← Nat.pow_add, ← Nat.pow_add]
        exact Nat.pow_le_pow_right (by decide) hshift
    _ ≤ roundScaled f m e := Nat.mul_le_mul_right _ (Nat.log2_self_le hm)

end Split

/-- A significand that stands for a value of the format, or carries to the next exponent. -/
def CanonicalSig (f : FFmt) (q : Int) (r : Nat) : Prop :=
  f.qmin ≤ q ∧ r ≤ 2 ^ f.prec ∧ (r < 2 ^ (f.prec - 1) → q = f.qmin)

theorem roundSig_canonicalSig {f : FFmt} (hf : f.Regular) (rm : Nat) (neg : Bool) {m : Nat} (e : Int) (hm : m ≠ 0) :
    CanonicalSig f (roundQuantum f m e) (roundSig f rm neg m e) := by
  have hlt : roundHigh f m e < 2 ^ f.prec := roundHigh_lt hf
  have hle : roundHigh f m e ≤ roundSig f rm neg m e ∧ roundSig f rm neg m e ≤ roundHigh f m e + 1 := by
    unfold roundSig
    split <;> omega
  refine ⟨roundQuantum_ge f m e, by omega, fun hr => Decidable.byContradiction fun hq => ?_⟩
  have := le_roundHigh hm hq
  omega

/-- The pattern `w` is a finite value of sign `n` whose magnitude is `x` units of `2^g`. -/
def DecodesTo (f : FFmt) (w : Nat) (g : Int) (n : Bool) (x : Nat) : Prop :=
  ∃ m e, g ≤ e ∧ fpDecode f w = .fin n m e ∧ units g m e = x

/-- The pattern of a canonical significand has its value. -/
theorem decodesTo_sig {f : FFmt} (hf : f.Regular) (neg : Bool) {g q : Int} {r : Nat} (hg : g ≤ f.qmin) (hc : CanonicalSig f q r)
    (hfit : sigField f q r < 2 ^ f.ebits - 1) :
    DecodesTo f (packFields f neg (sigField f q r).toNat (sigFrac f r)) g neg (units g r q) := by
  obtain ⟨hq, hr, hsub⟩ := hc
  have h4 := hf.four_le
  have hprec := hf.two_pow_prec
  have hpos : 0 < 2 ^ (f.prec - 1) := Nat.two_pow_pos _
  have hcast : ((2 ^ f.ebits : Nat) : Int) = 2 ^ f.ebits := Int.natCast_pow ..
  have hfrac : sigFrac f r < 2 ^ (f.prec - 1) := by
    unfold sigFrac
    split
    · assumption
    · split <;> omega
  rw [DecodesTo, fpDecode_packFields hf neg (by omega) hfrac, if_neg (by omega)]
  by_cases hs : r < 2 ^ (f.prec - 1)
  · refine ⟨r, f.qmin, hg, ?_, by rw [hsub hs]⟩
    rw [sigField, sigFrac, if_pos hs, if_pos hs, if_pos (by rfl)]
  · by_cases hcarry : r = 2 ^ f.prec
    · have hfield : sigField f q r = q + 1 - f.qmin + 1 := by simp only [sigField, if_neg hs, if_pos hcarry]
      refine ⟨2 ^ (f.prec - 1), q + 1, by omega, ?_, by rw [hcarry, hprec, units_succ (by omega)]⟩
      rw [hfield, if_neg (by omega), sigFrac, if_neg hs, if_pos hcarry, Nat.zero_add]
      congr 1
      omega
    · have hfield : sigField f q r = q - f.qmin + 1 := by simp only [sigField, if_neg hs, if_neg hcarry]
      refine ⟨r, q, by omega, ?_, rfl⟩
      rw [hfield, if_neg (by omega), sigFrac, if_neg hs, if_neg hcarry]
      congr 1 <;> omega

theorem qmin_le_qmax {f : FFmt} (hf : f.Regular) : f.qmin ≤ f.qmax := by
  have h4 := hf.four_le
  have hcast : ((2 ^ f.ebits : Nat) : Int) = 2 ^ f.ebits := Int.natCast_pow ..
  unfold FFmt.qmax
  omega

/-- A significand whose exponent field does not fit stands for more than the largest finite value. -/
theorem qmax_le_of_overflow {f : FFmt} (hf : f.Regular) {g q : Int} {r : Nat} (hg : g ≤ f.qmin)
    (hover : 2 ^ f.ebits - 1 ≤ sigField f q r) : units g (2 ^ f.prec - 1) f.qmax ≤ units g r q := by
  have hmin := qmin_le_qmax hf
  have hmax : f.qmax = f.qmin + 2 ^ f.ebits - 3 := rfl
  by_cases hs : r < 2 ^ (f.prec - 1)
  · rw [sigField, if_pos hs] at hover
    omega
  by_cases hcarry : r = 2 ^ f.prec
  · rw [sigField, if_neg hs, if_pos hcarry] at hover
    exact units_mono (hcarry ▸ Nat.sub_le ..) (by omega)
  · rw [sigField, if_neg hs, if_neg hcarry] at hover
    calc units g (2 ^ f.prec - 1) f.qmax ≤ units g (2 * 2 ^ (f.prec - 1)) f.qmax :=
          units_mono (by rw [hf.two_pow_prec]; exact Nat.sub_le ..) (Int.le_refl _)
      _ = units g (2 ^ (f.prec - 1)) (f.qmax + 1) := (units_succ (by omega) _).symm
      _ ≤ units g r q := units_mono (Nat.not_lt.mp hs) (by omega)

/-! ## The sides of the rounding modes -/

/-- The mode rounds a value of this sign to no larger magnitude: RTZ, and the directed mode on the side of zero. -/
def TowardZero (rm : Nat) (neg : Bool) : Prop := rm % 4 = 1 ∨ (rm % 4 = 2 ∧ neg = false) ∨ (rm % 4 = 3 ∧ neg = true)

/-- The mode rounds a value of this sign to no smaller magnitude. -/
def AwayFromZero (rm : Nat) (neg : Bool) : Prop := (rm % 4 = 2 ∧ neg = true) ∨ (rm % 4 = 3 ∧ neg = false)

theorem roundsUp_towardZero {rm : Nat} {neg : Bool} (h : TowardZero rm neg) (hi rem sh : Nat) (sticky : Bool) :
    roundsUp rm neg hi rem sh sticky = false := by
  rcases h with h | ⟨h, rfl⟩ | ⟨h, rfl⟩ <;> simp [roundsUp, h]

theorem roundsUp_awayFromZero {rm : Nat} {neg : Bool} (h : AwayFromZero rm neg) (hi rem sh : Nat) (sticky : Bool) :
    roundsUp rm neg hi rem sh sticky = (rem != 0 || sticky) := by
  rcases h with ⟨h, rfl⟩ | ⟨h, rfl⟩ <;> simp [roundsUp, h]

/-- A value on the grid is not rounded up in any mode. -/
theorem roundsUp_exact (rm : Nat) (neg : Bool) (hi sh : Nat) : roundsUp rm neg hi 0 sh false = false := by
  have htie : 0 = 2 ^ sh / 2 → hi % 2 = 1 → sh = 0 := by
    intro hhalf _
    refine Decidable.byContradiction fun hsh => ?_
    have : 2 ^ 1 ≤ 2 ^ sh := Nat.pow_le_pow_right (by decide) (Nat.pos_of_ne_zero hsh)
    omega
  unfold roundsUp
  by_cases h0 : rm % 4 = 0
  · simpa [h0] using htie
  · simp [h0]

theorem overflowToInf_towardZero {rm : Nat} {neg : Bool} (h : TowardZero rm neg) : overflowToInf rm neg = false := by
  rcases h with h | ⟨h, rfl⟩ | ⟨h, rfl⟩ <;> simp [overflowToInf, h]

theorem overflowToInf_awayFromZero {rm : Nat} {neg : Bool} (h : AwayFromZero rm neg) : overflowToInf rm neg = true := by
  rcases h with ⟨h, rfl⟩ | ⟨h, rfl⟩ <;> simp [overflowToInf, h]

theorem roundSig_towardZero {rm : Nat} {neg : Bool} (h : TowardZero rm neg) (f : FFmt) (m : Nat) (e : Int) :
    roundSig f rm neg m e = roundHigh f m e := by
  simp [roundSig, roundsUp_towardZero h]

theorem roundSig_exact (f : FFmt) (rm : Nat) (neg : Bool) {m : Nat} {e : Int} (h : roundRest f m e = 0) :
    roundSig f rm neg m e = roundHigh f m e := by
  simp [roundSig, h, roundsUp_exact]

theorem units_le_roundSig {rm : Nat} {neg : Bool} (h : AwayFromZero rm neg) {f : FFmt} {m : Nat} {e g : Int}
    (hg : g ≤ roundPoint f m e) : units g m e ≤ units g (roundSig f rm neg m e) (roundQuantum f m e) := by
  by_cases hrest : roundRest f m e = 0
  · exact Nat.le_of_eq (by rw [roundSig_exact f rm neg hrest, units_eq_roundHigh hg hrest])
  · have hsig : roundSig f rm neg m e = roundHigh f m e + 1 := by simp [roundSig, roundsUp_awayFromZero h, hrest]
    rw [hsig]
    exact units_le_roundHigh_succ hg

/-! ## What a rounding gives -/

/-- A grid that a value and all that it can round to lie on. -/
def roundGrid (f : FFmt) (m : Nat) (e : Int) : Int := min f.qmin (roundPoint f m e)

theorem roundGrid_le_qmin (f : FFmt) (m : Nat) (e : Int) : roundGrid f m e ≤ f.qmin := Int.min_le_left ..

theorem roundGrid_le_roundPoint (f : FFmt) (m : Nat) (e : Int) : roundGrid f m e ≤ roundPoint f m e := Int.min_le_right ..

theorem roundGrid_le (f : FFmt) (m : Nat) (e : Int) : roundGrid f m e ≤ e :=
  Int.le_trans (roundGrid_le_roundPoint f m e) (roundPoint_le f m e)

/-- A zero keeps its sign and is exact. -/
theorem fpRound_zero (f : FFmt) (rm : Nat) (n : Bool) (e : Int) : fpRound f rm (.fin n 0 e) = ⟨signBit f n, 0⟩ := rfl

theorem fpRound_nonzero (f : FFmt) (rm : Nat) (n : Bool) {m : Nat} (e : Int) (hm : m ≠ 0) :
    fpRound f rm (.fin n m e) = roundFinite f rm n m e false := by
  cases m with
  | zero => exact absurd rfl hm
  | succ m => rfl

/-- The sign and magnitude of a rounded zero. -/
theorem decodesTo_fpRound_zero {f : FFmt} (hf : f.Regular) (rm : Nat) (n : Bool) (e : Int) :
    DecodesTo f (fpRound f rm (.fin n 0 e)).bits (roundGrid f 0 e) n (units (roundGrid f 0 e) 0 e) :=
  ⟨0, f.qmin, roundGrid_le_qmin f 0 e, fpDecode_signBit hf n, by rw [units, units, Nat.zero_mul, Nat.zero_mul]⟩

/-- Rounding a nonzero finite value either overflows, and raises NX, or gives the rounded significand's value, and raises
no NX only if nothing lay below the quantum. -/
theorem fpRound_cases {f : FFmt} (hf : f.Regular) (rm : Nat) (n : Bool) {m : Nat} (e : Int) (hm : m ≠ 0) :
    let x := fpRound f rm (.fin n m e)
    let g := roundGrid f m e
    let v := units g (roundSig f rm n m e) (roundQuantum f m e)
    (x.bits = (if overflowToInf rm n then infBits f n else infBits f n - 1) ∧ x.flags &&& flagNX ≠ 0 ∧
      units g (2 ^ f.prec - 1) f.qmax ≤ v) ∨
    (DecodesTo f x.bits g n v ∧ (x.flags &&& flagNX = 0 → roundRest f m e = 0)) := by
  have hg := roundGrid_le_qmin f m e
  obtain ⟨tiny, heq⟩ := roundFinite_eq f rm n m e
  simp only [fpRound_nonzero f rm n e hm, heq]
  by_cases hover : 2 ^ f.ebits - 1 ≤ sigField f (roundQuantum f m e) (roundSig f rm n m e)
  · rw [if_pos hover]
    exact .inl ⟨rfl, (by decide : (flagOF ||| flagNX) &&& flagNX ≠ 0), qmax_le_of_overflow hf hg hover⟩
  · rw [if_neg hover]
    refine .inr ⟨decodesTo_sig hf n hg (roundSig_canonicalSig hf rm n e hm) (Int.not_le.mp hover), fun hflags => ?_⟩
    refine Decidable.byContradiction fun hrest => ?_
    cases tiny <;> simp [hrest, flagNX, flagUF] at hflags

/-- A rounding toward zero gives a finite value of the same sign and no larger magnitude. -/
theorem fpRound_towardZero {f : FFmt} (hf : f.Regular) {rm : Nat} {n : Bool} (h : TowardZero rm n) (m : Nat) (e : Int) :
    ∃ x, DecodesTo f (fpRound f rm (.fin n m e)).bits (roundGrid f m e) n x ∧ x ≤ units (roundGrid f m e) m e := by
  by_cases hm : m = 0
  · subst hm
    exact ⟨_, decodesTo_fpRound_zero hf rm n e, Nat.le_refl _⟩
  · have hle := units_roundHigh_le (roundGrid_le_roundPoint f m e)
    rw [← roundSig_towardZero h] at hle
    rcases fpRound_cases hf rm n e hm with ⟨hbits, -, hmax⟩ | ⟨hdec, -⟩
    · refine ⟨_, ⟨2 ^ f.prec - 1, f.qmax, Int.le_trans (roundGrid_le_qmin f m e) (qmin_le_qmax hf), ?_, rfl⟩,
        Nat.le_trans hmax hle⟩
      rw [hbits, overflowToInf_towardZero h]
      exact fpDecode_infBits_pred hf n
    · exact ⟨_, hdec, hle⟩

/-- A rounding away from zero gives an infinity or a finite value of no smaller magnitude, of the same sign. -/
theorem fpRound_awayFromZero {f : FFmt} (hf : f.Regular) {rm : Nat} {n : Bool} (h : AwayFromZero rm n) (m : Nat) (e : Int) :
    fpDecode f (fpRound f rm (.fin n m e)).bits = .inf n ∨
      ∃ x, DecodesTo f (fpRound f rm (.fin n m e)).bits (roundGrid f m e) n x ∧ units (roundGrid f m e) m e ≤ x := by
  by_cases hm : m = 0
  · subst hm
    exact .inr ⟨_, decodesTo_fpRound_zero hf rm n e, Nat.le_refl _⟩
  · rcases fpRound_cases hf rm n e hm with ⟨hbits, -, -⟩ | ⟨hdec, -⟩
    · rw [hbits, overflowToInf_awayFromZero h]
      exact .inl (fpDecode_infBits hf n)
    · exact .inr ⟨_, hdec, units_le_roundSig h (roundGrid_le_roundPoint f m e)⟩

/-- A rounding that does not raise NX keeps the value. -/
theorem fpRound_exact {f : FFmt} (hf : f.Regular) (rm : Nat) (n : Bool) (m : Nat) (e : Int)
    (h : (fpRound f rm (.fin n m e)).flags &&& flagNX = 0) :
    DecodesTo f (fpRound f rm (.fin n m e)).bits (roundGrid f m e) n (units (roundGrid f m e) m e) := by
  by_cases hm : m = 0
  · subst hm
    exact decodesTo_fpRound_zero hf rm n e
  · rcases fpRound_cases hf rm n e hm with ⟨-, hnx, -⟩ | ⟨hdec, hrest⟩
    · exact absurd h hnx
    · rwa [roundSig_exact f rm n (hrest h), ← units_eq_roundHigh (roundGrid_le_roundPoint f m e) (hrest h)] at hdec

/-! ## Comparing a value with what it rounds to -/

/-- RDN gives nothing above the value. -/
theorem fpLt_roundDown {f : FFmt} (hf : f.Regular) (n : Bool) (m : Nat) (e : Int) :
    fpLt (.fin n m e) (fpDecode f (fpRound f 2 (.fin n m e)).bits) = false := by
  have hg := roundGrid_le f m e
  cases n with
  | false =>
    obtain ⟨x, ⟨m', e', he', hdec, rfl⟩, hle⟩ := fpRound_towardZero hf (.inr (.inl ⟨rfl, rfl⟩) : TowardZero 2 false) m e
    rw [hdec, fpLt_fin hg he', onGrid_fin, onGrid_fin]
    exact decide_eq_false (Int.not_lt.mpr (Int.ofNat_le.mpr hle))
  | true =>
    rcases fpRound_awayFromZero hf (.inl ⟨rfl, rfl⟩ : AwayFromZero 2 true) m e with hinf | ⟨x, ⟨m', e', he', hdec, rfl⟩, hle⟩
    · rw [hinf]
      rfl
    · rw [hdec, fpLt_fin hg he', onGrid_fin, onGrid_fin]
      exact decide_eq_false (Int.not_lt.mpr (Int.neg_le_neg (Int.ofNat_le.mpr hle)))

/-- RUP gives nothing below the value. -/
theorem fpLt_roundUp {f : FFmt} (hf : f.Regular) (n : Bool) (m : Nat) (e : Int) :
    fpLt (fpDecode f (fpRound f 3 (.fin n m e)).bits) (.fin n m e) = false := by
  have hg := roundGrid_le f m e
  cases n with
  | true =>
    obtain ⟨x, ⟨m', e', he', hdec, rfl⟩, hle⟩ := fpRound_towardZero hf (.inr (.inr ⟨rfl, rfl⟩) : TowardZero 3 true) m e
    rw [hdec, fpLt_fin he' hg, onGrid_fin, onGrid_fin]
    exact decide_eq_false (Int.not_lt.mpr (Int.neg_le_neg (Int.ofNat_le.mpr hle)))
  | false =>
    rcases fpRound_awayFromZero hf (.inr ⟨rfl, rfl⟩ : AwayFromZero 3 false) m e with hinf | ⟨x, ⟨m', e', he', hdec, rfl⟩, hle⟩
    · rw [hinf]
      rfl
    · rw [hdec, fpLt_fin he' hg, onGrid_fin, onGrid_fin]
      exact decide_eq_false (Int.not_lt.mpr (Int.ofNat_le.mpr hle))

/-- RTZ gives no larger magnitude. -/
theorem fpLt_abs_roundToZero {f : FFmt} (hf : f.Regular) (n : Bool) (m : Nat) (e : Int) :
    fpLt (Fp.fin n m e).abs (fpDecode f (fpRound f 1 (.fin n m e)).bits).abs = false := by
  obtain ⟨x, ⟨m', e', he', hdec, rfl⟩, hle⟩ := fpRound_towardZero hf (.inl rfl : TowardZero 1 n) m e
  rw [hdec, Fp.abs, Fp.abs, fpLt_fin (roundGrid_le f m e) he', onGrid_fin, onGrid_fin]
  exact decide_eq_false (Int.not_lt.mpr (Int.ofNat_le.mpr hle))

theorem fpEq_of_not_inexact {f : FFmt} (hf : f.Regular) (rm : Nat) (n : Bool) (m : Nat) (e : Int)
    (h : (fpRound f rm (.fin n m e)).flags &&& flagNX = 0) :
    fpEq (fpDecode f (fpRound f rm (.fin n m e)).bits) (.fin n m e) = true := by
  obtain ⟨m', e', he', hdec, heq⟩ := fpRound_exact hf rm n m e h
  rw [hdec, fpEq_fin he' (roundGrid_le f m e), onGrid_fin, onGrid_fin, heq]
  exact decide_eq_true rfl

/-- Settles O6: operations with a NaN operand by the cases of their definitions; the rounding modes through the rounded
significand, which lies on the mode's side of the exact magnitude. -/
theorem nanAndRounding : Obligations.NanAndRounding := by
  refine ⟨fun f rm x y h => ?_, fun f hf n m e => ?_⟩
  · simp only [fpAdd_nan f rm h, fpSub_nan f rm h, fpMulR_nan f rm h, fpDiv_nan f rm h, signalFlag_pair, fpSqrt, fpConvert,
      roundWith_nan, signalFlag_nan, implies_true, true_and]
    decide
  · have hreg := regular_of_mem hf
    exact ⟨fpLt_roundDown hreg n m e, fpLt_roundUp hreg n m e, fpLt_abs_roundToZero hreg n m e,
      fun rm => fpEq_of_not_inexact hreg rm n m e⟩

end Sys2Proof.Machine
end

section
/-! SUPPORT. What a tile operation does on operands without factors: its checks pass, nothing is resolved, and its elements
land. -/

namespace Sys2Proof.Machine

/-! ## Operands without factors (R153, R161) -/

@[simp] theorem readOpnd_slots (s : State) (n : Nat) : (readOpnd s n).slots = (getTile s n).slots := rfl

@[simp] theorem readOpnd_tag (s : State) (n : Nat) : (readOpnd s n).tag = tagOf s n := rfl

/-- The identity slots name no rim at any position. -/
@[simp] theorem factorsUpTo_identity (m : Nat) : factorsUpTo Slots.identity m = [] := by
  simp [factorsUpTo, Slots.pos, Slots.identity, isFactor]

theorem resolve_identity (s : State) {o : Opnd} (m : Nat) (h : o.slots = Slots.identity) : resolve s o m = (o, 0) := by
  simp [resolve, h]

/-- Operands without factors, at whatever positions they are resolved through. -/
def Unfactored (l : List (Opnd × Nat)) : Prop := ∀ x ∈ l, x.1.slots = Slots.identity

theorem unfactored_fullPlan {l : List Opnd} (h : ∀ o ∈ l, o.slots = Slots.identity) : Unfactored (fullPlan l).opnds := by
  simpa [Unfactored, fullPlan] using h

theorem rimsOf_unfactored {l : List (Opnd × Nat)} (h : Unfactored l) : rimsOf l = [] := by
  refine List.flatMap_eq_nil_iff.mpr fun x hx => ?_
  rw [h x hx, factorsUpTo_identity, List.map_nil]

/-- What `resolveAll` makes of the operands so far and one more. -/
def resolveNext (s : State) (a : Resolved) (x : Opnd × Nat) : Resolved :=
  let hit := !(factorsUpTo x.1.slots x.2).isEmpty
  let r := resolve s x.1 x.2
  ⟨a.opnds ++ [r.1], a.forced || hit, a.ovpHit || (hit && x.1.ovp), a.flags ||| r.2⟩

theorem resolveAll_eq_foldl (s : State) (l : List (Opnd × Nat)) : resolveAll s l = l.foldl (resolveNext s) ⟨[], false, false, 0⟩ :=
  rfl

theorem resolveNext_unfactored (s : State) {x : Opnd × Nat} (h : x.1.slots = Slots.identity) (done : List Opnd) :
    resolveNext s ⟨done, false, false, 0⟩ x = ⟨done ++ [x.1], false, false, 0⟩ := by
  simp only [resolveNext, h, factorsUpTo_identity, resolve_identity s x.2 h, List.isEmpty_nil, Bool.not_true, Bool.or_self,
    Bool.false_and]
  rfl

/-- Operands without factors are taken as they are, and no resolve is forced. -/
theorem resolveAll_unfactored (s : State) {l : List (Opnd × Nat)} (h : Unfactored l) :
    resolveAll s l = ⟨l.map Prod.fst, false, false, 0⟩ := by
  have step : ∀ done : List Opnd,
      l.foldl (resolveNext s) ⟨done, false, false, 0⟩ = ⟨done ++ l.map Prod.fst, false, false, 0⟩ := by
    induction l with
    | nil => intro done; rw [List.foldl_nil, List.map_nil, List.append_nil]
    | cons x l ih =>
      intro done
      have hl : Unfactored l := fun y hy => h y (List.mem_cons_of_mem _ hy)
      rw [List.foldl_cons, resolveNext_unfactored s (h x List.mem_cons_self), ih hl, List.append_assoc, List.map_cons,
        List.singleton_append]
  rw [resolveAll_eq_foldl, step, List.nil_append]

@[simp] theorem waitRims_nil (s : State) (park : Bool) : waitRims s park [] = .ok := rfl

@[simp] theorem resultOvp_identity (r : TileResult) (l : List Opnd) : resultOvp Slots.identity r l = false := by
  simp [resultOvp, factored]

/-! ## Elementwise results -/

@[simp] theorem eachElem_tag (tag : Nat) (f : Nat → Nat × Flags) : (eachElem tag f).tag = tag := rfl

theorem eachElem_size (tag : Nat) (f : Nat → Nat × Flags) : (eachElem tag f).elems.size = 256 := by
  simp [eachElem]

theorem eachElem_getD (tag : Nat) (f : Nat → Nat × Flags) {k : Nat} (h : k < 256) :
    (eachElem tag f).elems.getD k 0 = (f k).1 := by
  simp [eachElem, Array.getD, h]

/-- A flag is set in an accumulated list of flags where it is set at the start or in an entry. -/
theorem foldl_or_getLsbD (l : List (Nat × Flags)) (x : Flags) (b : Nat) :
    (l.foldl (fun a y => a ||| y.2) x).getLsbD b = true ↔ x.getLsbD b = true ∨ ∃ y ∈ l, y.2.getLsbD b = true := by
  induction l generalizing x with
  | nil => simp
  | cons y l ih => simp [ih, or_assoc]

/-- The flags of an elementwise result are those of its elements together (R23). -/
theorem eachElem_flags_getLsbD (tag : Nat) (f : Nat → Nat × Flags) (b : Nat) :
    (eachElem tag f).flags.getLsbD b = true ↔ ∃ k, k < 256 ∧ (f k).2.getLsbD b = true := by
  have hmem : ∀ y, y ∈ ((Array.range 256).map f).toList ↔ ∃ k, k < 256 ∧ f k = y := fun y => by
    simp only [Array.mem_toList_iff, Array.mem_map, Array.mem_range]
  rw [eachElem, ← Array.foldl_toList, foldl_or_getLsbD]
  constructor
  · rintro (h0 | ⟨y, hy, hb⟩)
    · exact absurd ((BitVec.getLsbD_zero (w := 5)).symm.trans h0) (by decide)
    · obtain ⟨k, hk, rfl⟩ := (hmem y).mp hy
      exact ⟨k, hk, hb⟩
  · rintro ⟨k, hk, hb⟩
    exact .inr ⟨f k, (hmem _).mpr ⟨k, hk, rfl⟩, hb⟩

/-! ## Tile operations on unfactored operands -/

section TileOp

variable {s : State} {g : BitVec 4} {d : BitVec 5} {srcs : List (BitVec 5)} {allowed : Nat → Bool} {dstTag : State → Nat}
  {plan : State → Plan} {test : State → List Nat} {lat : Nat} {f : State → List Opnd → TileResult}

/-- A tile operation passes its checks on unfactored sources of an allowed tag, if it writes a tile that its result fits. -/
theorem tileOp_check_ok {t : Nat} (c : Ctx) (hs : PlainTiles s t (srcs.map (·.toNat))) (ht : allowed t = true)
    (hd : GoodTile s (dstTag s) d.toNat) (hp : Unfactored (plan s).opnds) (hr : test s = []) :
    (tileOp g d srcs allowed dstTag plan test lat f).check c s = .ok := by
  have hquota : needTiles s (d.toNat :: srcs.map (·.toNat)) = .ok := by
    have : ∀ n ∈ d.toNat :: srcs.map (·.toNat), n < tileQuota s.task :=
      List.forall_mem_cons.mpr ⟨hd.1, fun n hn => (hs n hn).1⟩
    rw [needTiles, List.all_eq_true.mpr fun n hn => decide_eq_true (this n hn)]
    rfl
  have htags : needTags s allowed (srcs.map (·.toNat)) = .ok := by
    have : ∀ n ∈ srcs.map (·.toNat), (allowed (tagOf s n) && tagOf s n == tagOf s ((srcs.map (·.toNat)).headD 0) &&
        (tagOf s n ≠ 4 || n % 2 == 0)) = true := by
      intro n hn
      have hhead : tagOf s ((srcs.map (·.toNat)).headD 0) = t := by
        cases srcs with
        | nil => cases hn
        | cons a l => exact (hs a.toNat (by simp)).2.1
      obtain ⟨-, htag, heven, -⟩ := hs n hn
      rw [htag, hhead, ht]
      simpa [Decidable.or_iff_not_imp_left] using heven
    rw [needTags, List.all_eq_true.mpr this]
    rfl
  have heven : needEvenTile (dstTag s) d.toNat = .ok := by
    have : (dstTag s ≠ 4 || d.toNat % 2 == 0) = true := by
      simpa [Decidable.or_iff_not_imp_left] using hd.2
    rw [needEvenTile, this]
    rfl
  simp [tileOp, hquota, htags, heven, hr, rimsOf_unfactored hp, Pre.and]

/-- The effect of a tile operation on unfactored operands, whose result takes no factors. -/
theorem tileOp_eff_unfactored (c : Ctx) (hp : Unfactored (plan s).opnds) (hi : (plan s).slots = Slots.identity) :
    let res := f s ((plan s).opnds.map Prod.fst)
    (tileOp g d srcs allowed dstTag plan test lat f).eff c s s =
      expose c s lat false false res.flags (landTiles (resultTiles d.toNat res.tag Slots.identity false res.elems)) s := by
  simp [tileOp, resolveAll_unfactored s hp, hi, countForced]

end TileOp

/-- A syllable of the vector slot that passes its checks and exposes an elementwise result makes that result land. -/
theorem tileLands_of_eachElem {i : Instr} {x : SlotOp} {s : State} {uses : List Dest} {d tag lat : Nat} {f : Nat → Nat × Flags}
    (hx : exec i s = issueLone 3 x s) (hi : Issues s x.guard uses) (hu : ∀ y ∈ x.uses s, y ∈ uses)
    (hd : decodeTrapOf s x = none) (hm : x.memory s = false) (hc : x.check (loneCtx 3 s) s = .ok)
    (he : x.eff (loneCtx 3 s) s s = expose (loneCtx 3 s) s lat false false (eachElem tag f).flags
      (landTiles (resultTiles d tag Slots.identity false (eachElem tag f).elems)) s) :
    TileLands i s d tag lat f := by
  have hperf := issueLone_performs (hi.mono hu) hd (fun h => by simp [hm] at h) hc (by decide : (3 : Nat) ≠ 7)
  refine ⟨(eachElem tag f).elems, (eachElem tag f).flags, ?_, eachElem_size tag f, fun k => eachElem_getD tag f,
    eachElem_flags_getLsbD tag f⟩
  rw [hx, hperf, he]

/-- Only the elements' values and flags count. -/
theorem tileLands_congr {i : Instr} {s : State} {d tag lat : Nat} {f f' : Nat → Nat × Flags} (h : TileLands i s d tag lat f)
    (hf : ∀ k, f' k = f k) : TileLands i s d tag lat f' :=
  funext hf ▸ h

/-! ## What a tile operation names -/

theorem tileUses_singleton (t n : Nat) : tileUses t [n] = (tileDests n t).map .tile := by
  rw [tileUses, List.flatMap_cons, List.flatMap_nil, List.append_nil, encodedDests]

/-- An even tile is the first of its pair. -/
theorem tileDests_of_even {t n : Nat} (h : t = 4 → n % 2 = 0) : tileDests n t = if t = 4 then [n, n + 1] else [n] := by
  by_cases h4 : t = 4
  · have hn : n / 2 * 2 = n := by
      have := h h4
      omega
    rw [tileDests, if_pos h4, if_pos h4, hn]
  · rw [tileDests, if_neg h4, if_neg h4]

theorem eq_of_mem_oddTiles_singleton {s : State} {n : Nat} {y : Dest} (h : y ∈ oddTiles s [.tile n]) :
    tagOf s n = 4 ∧ y = .tile (n + 1) := by
  by_cases hpair : (getTile s n).tag = 4 ∧ n % 2 = 0
  · rw [oddTiles, List.filterMap_cons, List.filterMap_nil] at h
    simp only [if_pos hpair, List.mem_singleton] at h
    exact ⟨congrArg BitVec.toNat hpair.1, h⟩
  · rw [oddTiles, List.filterMap_cons, List.filterMap_nil] at h
    simp only [if_neg hpair, List.not_mem_nil] at h

/-- What one source of tag `t` and a list of destinations name lies in the uses of both (R17). -/
theorem tileSource_uses {s : State} {t n : Nat} {dests : List Dest} (h : PlainTiles s t [n]) :
    ∀ y ∈ [Dest.tile n] ++ dests ++ oddTiles s [.tile n], y ∈ tileUses t [n] ++ dests := by
  obtain ⟨-, htag, heven, -⟩ := h n (List.mem_singleton.mpr rfl)
  rw [tileUses_singleton, tileDests_of_even heven]
  intro y hy
  rw [List.mem_append, List.mem_append, List.mem_singleton] at hy
  rw [List.mem_append, List.mem_map]
  rcases hy with (rfl | hy) | hy
  · exact .inl ⟨n, by split <;> exact List.mem_cons_self, rfl⟩
  · exact .inr hy
  · obtain ⟨h4, rfl⟩ := eq_of_mem_oddTiles_singleton hy
    exact .inl ⟨n + 1, by rw [if_pos (htag ▸ h4)]; exact List.mem_cons_of_mem _ List.mem_cons_self, rfl⟩

end Sys2Proof.Machine
end

section
/-! SUPPORT. The conversions of a tile's elements between formats (R24, R175, R178), and O26. -/

namespace Sys2Proof.Machine

theorem intMin_le_intMax (r : Nat) : intMin r ≤ intMax r := by
  have h : (0 : Int) < 2 ^ (tagWidth r - 1) := Int.pow_pos (by decide)
  have h' : (0 : Int) < 2 ^ tagWidth r := Int.pow_pos (by decide)
  unfold intMin intMax
  split <;> omega

/-- Between integer tags an element is clamped to the range of the destination, with NV where that changes it (R24). -/
theorem convElem_int {t r : Nat} (ht : isFloatTag t = false) (hr : isFloatTag r = false) (rm x : Nat) :
    convElem t r rm x = (wrapInt r (max (intMin r) (min (intMax r) (intOf t x))),
      if intOf t x < intMin r ∨ intMax r < intOf t x then flagNV else 0) := by
  have hle := intMin_le_intMax r
  rw [convElem, if_neg (Bool.eq_false_iff.mp ht), if_neg (Bool.eq_false_iff.mp hr)]
  by_cases hhi : intMax r < intOf t x
  · have hclamp : max (intMin r) (min (intMax r) (intOf t x)) = intMax r := by omega
    rw [hclamp, if_pos hhi, if_pos (.inr hhi)]
  · by_cases hlo : intOf t x < intMin r
    · have hclamp : max (intMin r) (min (intMax r) (intOf t x)) = intMin r := by omega
      rw [hclamp, if_neg hhi, if_pos hlo, if_pos (.inl hlo)]
    · have hclamp : max (intMin r) (min (intMax r) (intOf t x)) = intOf t x := by omega
      rw [hclamp, if_neg hhi, if_neg hlo, if_neg (not_or.mpr ⟨hlo, hhi⟩)]

/-- `vcvt` of an unfactored tile converts each element under FPCSR.RM (R175). -/
theorem vcvt_lands {s : State} {g : BitVec 4} {d a : BitVec 5} {f : BitVec 4} {t : Nat} (hp : PlainTiles s t [a.toNat])
    (ht : isNumTag t = true) (hd : GoodTile s f.toNat d.toNat)
    (hi : Issues s g (tileUses t [a.toNat] ++ tileUses f.toNat [d.toNat])) :
    TileLands (.vcvt g d a f) s d.toNat f.toNat 3
      (fun k => convElem t f.toNat (roundMode s.task) ((readOpnd s a.toNat).elems.getD k 0)) := by
  obtain ⟨-, htag, -, hslots⟩ := hp a.toNat (List.mem_singleton.mpr rfl)
  have hun : Unfactored (fullPlan [readOpnd s a.toNat]).opnds := unfactored_fullPlan (by simpa using hslots)
  refine tileLands_of_eachElem (x := opVcvt g d a f) rfl hi ?_ rfl rfl ?_ ?_
  · simpa [SlotOp.uses, opVcvt, tileOp, tileUses] using tileSource_uses (dests := encodedDests d.toNat f.toNat) hp
  · simp only [opVcvt]
    exact tileOp_check_ok (loneCtx 3 s) hp ht hd hun rfl
  · simp only [opVcvt]
    rw [tileOp_eff_unfactored (loneCtx 3 s) hun rfl]
    simp [fullPlan, opnd, htag]

/-- `vdq` of an unfactored QB tile gives binary32 values (R178). -/
theorem vdq_lands {s : State} {g : BitVec 4} {d a : BitVec 5} {t : Nat} (hp : PlainTiles s t [a.toNat])
    (ht : isQbTag t = true) (hd : d.toNat < tileQuota s.task) (hi : Issues s g [.tile a.toNat, .tile d.toNat]) :
    TileLands (.vdq g d a) s d.toNat 1 3
      (fun k => ((fpRound f32 0 (qbElem (readOpnd s a.toNat) (k / 16) (k % 16))).bits, 0)) := by
  obtain ⟨-, -, -, hslots⟩ := hp a.toNat (List.mem_singleton.mpr rfl)
  have hun : Unfactored (fullPlan [readOpnd s a.toNat]).opnds := unfactored_fullPlan (by simpa using hslots)
  have h4 : t ≠ 4 := by rintro rfl; exact absurd ht (by decide)
  refine tileLands_of_eachElem (x := opVdq g d a) rfl hi ?_ rfl rfl ?_ ?_
  · simpa [SlotOp.uses, opVdq, tileOp, tileUses, encodedDests, tileDests, h4] using tileSource_uses (dests := [.tile d.toNat]) hp
  · exact tileOp_check_ok (loneCtx 3 s) hp ht ⟨hd, fun h => nomatch h⟩ hun rfl
  · exact tileOp_eff_unfactored (loneCtx 3 s) hun rfl

/-- Settles O26: the elements of `vcvt` are `convElem`, whose four cases are the statement's, and those of `vdq` are the values
of the QB blocks. -/
theorem tileConversions : Obligations.TileConversions := by
  intro s g d a f t hp
  refine ⟨fun ht _ hd hi => ?_, fun h8 hA hd hi => vdq_lands hp (by simp [isQbTag, h8, hA]) hd hi⟩
  refine tileLands_congr (vcvt_lands hp ht hd hi) fun k => ?_
  cases hft : isFloatTag t with
  | true =>
    cases hfr : isFloatTag f.toNat with
    | true => simp only [convElem, hft, hfr, if_true]; rfl
    | false => simp only [convElem, hft, hfr, if_true, Bool.false_eq_true, if_false]; rfl
  | false =>
    cases hfr : isFloatTag f.toNat with
    | true => simp only [convElem, hft, hfr, if_true, Bool.false_eq_true, if_false]; rfl
    | false =>
      simp only [Bool.false_eq_true, if_false]
      exact (convElem_int hft hfr _ _).symm

end Sys2Proof.Machine
end

section
/-! SUPPORT. The refutation of O53: a window whose address range runs past the top of the pool space. `smap` looks at the window's
first address alone (R227), so that the last addresses of such a window are those of the local aperture; an own-scratchpad address in
it stands for another own-scratchpad address (R229), which a second window may cover in its turn. -/

namespace Sys2Proof.Machine

/-- Byte 0x30000 of the own scratchpad, the address that `ld.sc` is given. -/
def wrapVa : Word := 0x80000000FC030000

/-- A task on core 0 that has in its registers `wrapVa` (s8) and two windows: bytes 0 to 0xFFFF of the scratchpad for the addresses from
0x40000 on (s10, s11), and bytes 0x20000 to 0x3FFFF for the addresses from 0x7FFFFFFFFFFF0000 on (s12, s14, s15). -/
def wrapStart : State := { State.reset with
  core := { Core.reset with run := some 0 }
  task := { Task.fresh with
    launchId := 1
    sregs := [(8, wrapVa), (10, 0x40000), (11, 0x10000), (12, 0x20000), (14, 0x7FFFFFFFFFFF0000), (15, 0x20000)] } }

/-- The two windows as SMAP0 and SMAP1 hold them (R226). -/
def wrapWindows : SMap Word := [(0, 0x40081), (1, 0x7FFFFFFFFFFF2101)]

/-- The wait of the `ld.sc` at the slot wheel (R336). -/
def wrapWait : Wait := ⟨.slotWheel [⟨6, .fixed 0, 0, .scLoad wrapVa false 9⟩], none, 2, 6, 64, false⟩

/-- The wheel stands at core 0, whose frame waits with that `ld.sc`. Line 0 of the first window is dirty: its sector 0 begins with 5, which
its home at 0x40000 does not have yet. -/
def wrapState : State := { wrapStart with
  tick := 1024
  core := { wrapStart.core with
    smap := wrapWindows, winLaunch := [(0, 1), (1, 1)], lines := [(0, ⟨1, true, 0, 0x40000⟩)] }
  mem := [((Place.scratch 0 0).key, 5)]
  task := { wrapStart.task with waits := [wrapWait] } }

/-- The state after some syllables, each issued alone, where all of them issue. -/
def afterAll : List Instr → State → Option State
  | [], s => some s
  | i :: l, s => match exec i s with
    | .next t => afterAll l t
    | _ => none

/-- The windows and the wait of `wrapState` are what two `smap` and an `ld.sc` leave: no check of R227 refuses the second window. -/
theorem afterAll_wrapStart :
    (afterAll [.smap 0 0 0 10, .smap 0 1 12 14, .ldSc 0 9 8 0] wrapStart).map
      (fun t => (t.core.smap, t.core.winLaunch, t.task.waits)) =
    some (wrapState.core.smap, wrapState.core.winLaunch, wrapState.task.waits) := by
  decide +kernel

/-- By the second window `wrapVa` stands for address 0x8000000000000000, which is byte 0 of the own scratchpad. -/
theorem wrapVa_ownPlain : OwnPlain wrapState wrapVa 8 0 := by decide

/-- That byte in its turn lies in the first window, whose line an SC operation writes back before it performs (R229). -/
theorem ownSpot_windowAlias_wrapVa : ownSpot wrapState (windowAlias wrapState wrapVa) = some (.window 0) := by decide

/-- A byte of memory after a result, where that is a next state. -/
def byteAfter (r : Result) (key : Nat) : Option Byte :=
  match r with
  | .next t => some (memByte t.mem key)
  | _ => none

theorem byteAfter_next (t : State) (key : Nat) : byteAfter (.next t) key = some (memByte t.mem key) := rfl

/-- The `ld.sc` performs, and the home of the line has its bytes. -/
theorem scPerform_wrapState : byteAfter (exec .scPerform wrapState) (Place.dram 0 0x40000).key = some 5 := by decide +kernel

/-- Refutes O53, in its clause on an SC load at its core's position of the wheel: `OwnPlain` says where an access of the task to the
address lands, but an SC operation looks for its line at the address that this one stands for (`ownSpot_windowAlias_wrapVa`). In
`wrapState` that line is dirty and goes home, and memory does not stay as it was. -/
theorem not_taskEvents : ¬ Obligations.TaskEvents := by
  unfold Obligations.TaskEvents
  intro h
  obtain ⟨-, -, -, -, -, -, -, wheel, -⟩ := h wrapState 0 rfl
  obtain ⟨t, performs, -, keeps, -⟩ := wheel 6 (.fixed 0) 0 wrapVa 9 none 2 6 64 false 0 rfl (by decide) (by decide) rfl rfl rfl rfl
    wrapVa_ownPlain
  have written : memByte t.mem (Place.dram 0 0x40000).key = 5 := by
    simpa [performs, byteAfter_next] using scPerform_wrapState
  have unwritten : memByte wrapState.mem (Place.dram 0 0x40000).key = 0 := by decide
  rw [keeps, unwritten] at written
  exact absurd written (by decide)

end Sys2Proof.Machine
end

section
/-! SUPPORT. What the matrix slot's instructions share: the keys of a map made of a function, a field of a word, the checks of
quotas, rims and operand slots when they pass, and the issue of a syllable that has no other checks. -/

namespace Sys2Proof.Machine

/-! ## Maps and words -/

/-- The map of a function on listed keys has its values there. -/
theorem smGet_filterMap {α : Type} [DecidableEq α] (d : α) (f : Nat → α) (l : List Nat) (k : Nat) :
    smGet d (l.filterMap fun k => if f k = d then none else some (k, f k)) k = if k ∈ l then f k else d := by
  induction l with
  | nil => rfl
  | cons j l ih =>
    by_cases hj : f j = d
    · rw [List.filterMap_cons_none (by simp [hj]), ih]
      by_cases hk : k = j
      · simp [hk, hj]
      · simp [hk]
    · rw [List.filterMap_cons_some (b := (j, f j)) (by simp [hj]), smGet, ih]
      by_cases hk : j = k
      · simp [hk]
      · simp [hk, Ne.symm hk]

theorem smGet_smOfFn {α : Type} [DecidableEq α] {d : α} {n k : Nat} (f : Nat → α) (h : k < n) :
    smGet d (smOfFn d n f) k = f k := by
  rw [smOfFn, smGet_filterMap, if_pos (List.mem_range.mpr h)]

/-- A number with `n` bits from `lo` on replaced by those of `v`, in its three parts. -/
theorem replaceBits_eq (x lo n v : Nat) :
    x - x / 2 ^ lo % 2 ^ n * 2 ^ lo + v % 2 ^ n * 2 ^ lo =
      2 ^ lo * (2 ^ n * (x / 2 ^ lo / 2 ^ n) + v % 2 ^ n) + x % 2 ^ lo := by
  have hx : 2 ^ lo * (2 ^ n * (x / 2 ^ lo / 2 ^ n) + x / 2 ^ lo % 2 ^ n) + x % 2 ^ lo = x := by
    rw [Nat.div_add_mod, Nat.div_add_mod]
  have hsub : x - x / 2 ^ lo % 2 ^ n * 2 ^ lo = 2 ^ lo * (2 ^ n * (x / 2 ^ lo / 2 ^ n)) + x % 2 ^ lo := by
    rw [Nat.mul_add, Nat.mul_comm (2 ^ lo) (x / 2 ^ lo % 2 ^ n)] at hx
    omega
  rw [hsub, Nat.mul_add, Nat.mul_comm (2 ^ lo) (v % 2 ^ n)]
  omega

/-- A bit of a word in which a field was written. -/
theorem getLsbD_setBits (w : Word) {lo n : Nat} (v q : Nat) (h : lo + n ≤ 64) :
    (setBits w lo n v).getLsbD q = if lo ≤ q ∧ q < lo + n then v.testBit (q - lo) else w.getLsbD q := by
  rw [setBits, bits, replaceBits_eq, BitVec.getLsbD_ofNat, Nat.testBit_two_pow_mul_add _ (Nat.mod_lt _ (Nat.two_pow_pos lo)),
    Nat.testBit_two_pow_mul_add _ (Nat.mod_lt _ (Nat.two_pow_pos n)), Nat.testBit_mod_two_pow, Nat.testBit_mod_two_pow,
    Nat.testBit_div_two_pow, Nat.testBit_div_two_pow, BitVec.testBit_toNat, BitVec.testBit_toNat]
  by_cases hlow : q < lo
  · simp [hlow, Nat.not_le.mpr hlow]
    omega
  · by_cases hfield : q - lo < n
    · have hq : lo ≤ q ∧ q < lo + n := by omega
      have h64 : q < 64 := by omega
      simp [hlow, hfield, hq, h64]
    · have hq : ¬ (lo ≤ q ∧ q < lo + n) := by omega
      have hback : q - lo - n + n + lo = q := by omega
      rw [if_neg hlow, if_neg hfield, if_neg hq, hback, Bool.and_eq_right_iff_imp]
      intro hw
      exact decide_eq_true (BitVec.lt_of_getLsbD hw)

/-! ## Checks that pass -/

@[simp] theorem Pre.ok_and (p : Unit → Pre) : Pre.ok.and p = p () := rfl

theorem need_ok {b : Bool} (h : b = true) (c : BitVec 8) (d : BitVec 16) : Pre.need b c d = .ok := if_pos h

theorem needAccs_ok {s : State} {l : List Nat} (h : ∀ a ∈ l, a < accQuota s.task) : needAccs s l = .ok :=
  need_ok (List.all_eq_true.mpr fun a ha => decide_eq_true (h a ha)) _ _

theorem needTiles_ok {s : State} {l : List Nat} (h : ∀ n ∈ l, n < tileQuota s.task) : needTiles s l = .ok :=
  need_ok (List.all_eq_true.mpr fun n hn => decide_eq_true (h n hn)) _ _

theorem needEvenTile_ok {tag n : Nat} (h : tag = 4 → n % 2 = 0) : needEvenTile tag n = .ok :=
  need_ok (by simpa [Decidable.or_iff_not_imp_left] using h) _ _

theorem needRims_ok {s : State} {l : List Nat} (h : ReadyRims s l) : needRims s l = .ok :=
  need_ok (List.all_eq_true.mpr fun k hk => decide_eq_true (h k hk).1) _ _

theorem waitRims_ok {s : State} {l : List Nat} (h : ReadyRims s l) (park : Bool) : waitRims s park l = .ok := by
  have : l.find? (rimPending s) = none := List.find?_eq_none.mpr fun k hk => by simp [rimPending, (h k hk).2]
  simp [waitRims, this]

/-- Nothing is owed, so no operand slot is (R96). -/
theorem waitSlots_ok {s : State} (h : s.task.owed = []) (l : List Nat) : waitSlots s l = .ok := by
  simp [waitSlots, slotOwed, h]

/-! ## Issue in the matrix slot -/

/-- A syllable of the matrix slot whose checks pass issues, and its effect is what it leaves. -/
theorem matrix_performs {i : Instr} {s t : State} {g : BitVec 4} {reads dests uses : List Dest} {check : Ctx → State → Pre}
    {eff : Ctx → State → State → State} (hx : exec i s = issueLone 5 (.simple g reads dests check eff) s) (hi : Issues s g uses)
    (hu : ∀ y ∈ reads ++ dests ++ oddTiles s reads, y ∈ uses) (hc : check (loneCtx 5 s) s = .ok)
    (he : eff (loneCtx 5 s) s s = t) : exec i s = .next (after s t) := by
  rw [hx, simple_performs hi hu hc (by decide), he]

/-- An operation that reads no uncorrectable error has its effect. -/
theorem unlessBad_of_good {bad : State → Bool} {r : State} (h : bad r = false) (eff : Ctx → State → State → State) (c : Ctx) (s : State) :
    unlessBad bad eff c r s = eff c r s := by
  simp [unlessBad, h]

theorem accBad_eq_false {s : State} {a : Nat} (h : (getAcc s a).bad = []) : accBad s a = false := by
  simp [accBad, h]

/-- Identity codes name no rim. -/
theorem accRims_identity {a : Acc} (hr : a.rsc = 0x7F) (hc : a.csc = 0x7F) (row col : Bool) : accRims a row col = [] := by
  simp [accRims, isFactor, hr, hc]

/-- An accumulator of which no code is applied resolves to itself (R202). -/
theorem resolveAcc_of_accRims_nil (s : State) {a : Acc} {row col : Bool} (h : accRims a row col = []) :
    resolveAcc s a row col = a := by
  simp [resolveAcc, h]

end Sys2Proof.Machine
end

section
/-! SUPPORT. Control of the matrix engine (R195, R199, R200, R214), and O36. -/

namespace Sys2Proof.Machine

/-- The lowest number below `n` with a property is found. -/
theorem find?_range_lowest {n k : Nat} {p : Nat → Bool} (hk : k < n) (hp : p k = true) (hlow : ∀ m, m < k → p m = false) :
    (List.range n).find? p = some k := by
  rw [List.find?_range_eq_some]
  exact ⟨hp, List.mem_range.mpr hk, fun m hm => by simp [hlow m hm]⟩

/-- `mdrain` sets MFMT.DR (R200). -/
theorem mdrain_performs {s : State} {g : BitVec 4} {uses : List Dest} (hi : Issues s g uses) :
    exec (.mdrain g) s = .next (after s { s with task := { s.task with mfmt := setBits s.task.mfmt 8 1 1 } }) :=
  matrix_performs rfl hi (fun _ h => nomatch h) rfl rfl

/-- MFMT.DR says whether the engine is drained. -/
theorem drained_eq_getLsbD (t : Task) : drained t = t.mfmt.getLsbD 8 := by
  rw [drained, bits, Nat.pow_one, ← BitVec.testBit_toNat, Nat.testBit_eq_decide_div_mod_eq]

/-- `mfmt` of a drained engine writes the formats and leaves DR set (R199). -/
theorem mfmt_performs {s : State} {g a b : BitVec 4} {uses : List Dest} (hi : Issues s g uses) (hd : drained s.task = true) :
    exec (.mfmt g a b) s = .next (after s { s with task := { s.task with
      mfmt := word (0x100 + a.toNat * 16 + b.toNat) } }) :=
  matrix_performs rfl hi (fun _ h => nomatch h) (need_ok hd _ _) rfl

/-- `mfmt` of an engine that is not drained traps (R199). -/
theorem mfmt_traps {s : State} {g a b : BitVec 4} {uses : List Dest} (hi : Issues s g uses) (hd : drained s.task = false) :
    exec (.mfmt g a b) s = .next (issueTrap causeMatrixBusy 0 5 0 s) := by
  have hc : (opMfmt g a b).check (loneCtx 5 s) s = .trap causeMatrixBusy 0 0 false := by
    simp [opMfmt, SlotOp.simple, hd, Pre.need, Pre.fail]
  exact issueLone_traps (x := opMfmt g a b) (hi.mono fun _ h => nomatch h) rfl (fun hm => nomatch hm) hc

/-- `oclaim` maps the lowest free number to a free slot, zeroed, and returns the number (R195); that this is the lowest free slot is log 74. -/
theorem oclaim_claims {s : State} {g : BitVec 4} {r : BitVec 6} {uses : List Dest} {n p : Nat} (hi : Issues s g uses)
    (hu : .sreg r.toNat ∈ uses) (hn : (List.range 64).find? (fun n => (mapped s n).isNone) = some n)
    (hp : (List.range 64).find? (fun p => !(getOSlot s p).claimed) = some p) :
    exec (.oclaim g r) s = .next (after s (setS { setOSlot s p ⟨true, 0, Slots.identity, [], []⟩ with
      task := { s.task with omap := smPut s.task.omap n p } } r (word n))) :=
  matrix_performs rfl hi (by simpa [oddTiles] using hu) rfl (by rw [hn, hp]; rfl)

/-- `oclaim` without a free number or a free slot returns -1 (R195). -/
theorem oclaim_fails {s : State} {g : BitVec 4} {r : BitVec 6} {uses : List Dest} (hi : Issues s g uses) (hu : .sreg r.toNat ∈ uses)
    (hn : (List.range 64).find? (fun n => (mapped s n).isNone) = none ∨
      (List.range 64).find? (fun p => !(getOSlot s p).claimed) = none) :
    exec (.oclaim g r) s = .next (after s (setS s r (-1))) := by
  refine matrix_performs rfl hi (by simpa [oddTiles] using hu) rfl ?_
  rcases hn with hn | hp
  · rw [hn]
  · rw [hp]
    cases (List.range 64).find? fun n => (mapped s n).isNone <;> rfl

/-- `orel` frees the slot of a mapped number and unmaps the number (R195). -/
theorem orel_performs {s : State} {g : BitVec 4} {o : BitVec 6} {uses : List Dest} {p : Nat} (hi : Issues s g uses)
    (howed : s.task.owed = []) (hp : mapped s o.toNat = some p) :
    exec (.orel g o) s = .next (after s { setOSlot s p { getOSlot s p with claimed := false } with
      task := { s.task with omap := smErase s.task.omap o.toNat } }) :=
  matrix_performs rfl hi (fun _ h => nomatch h) (waitSlots_ok howed _) (by rw [hp]; rfl)

/-- `mofs` is a write of a system register (R214). -/
theorem mofs_performs {s : State} {g : BitVec 4} {r o : BitVec 6} {uses : List Dest} (hi : Issues s g uses)
    (hu : ∀ y ∈ [Dest.sreg r.toNat, .ofs o.toNat], y ∈ uses) :
    exec (.mofs g r o) s = .next (after s
      (sysWrite s (if o.toNat < 4 then 0x040 + o.toNat else 0x048 + (o.toNat - 4)) (getS s r))) :=
  matrix_performs rfl hi (by simpa [oddTiles] using hu) rfl rfl

/-- The system registers of the tap offsets keep the fields of OFS (R211). -/
theorem sysWrite_ofs (s : State) {n : Nat} (h : n < 4) (v : Word) :
    sysWrite s (0x040 + n) v = { s with task := { s.task with ofs := smSet 0 s.task.ofs n (v &&& ofsMask n) } } := by
  obtain rfl | rfl | rfl | rfl : n = 0 ∨ n = 1 ∨ n = 2 ∨ n = 3 := by omega
  all_goals rfl

/-- Those of the tap steps keep the fields of OFSTEP (R211). -/
theorem sysWrite_ofstep (s : State) {n : Nat} (h : n < 4) (v : Word) :
    sysWrite s (0x048 + n) v = { s with task := { s.task with ofstep := smSet 0 s.task.ofstep n (v &&& 0xFFFFFF) } } := by
  obtain rfl | rfl | rfl | rfl : n = 0 ∨ n = 1 ∨ n = 2 ∨ n = 3 := by omega
  all_goals rfl

theorem ofsMask_toNat (o : BitVec 6) : ofsMask o.toNat = if o = 0 then 0x033F07FF else 0xFF := by
  have h : o.toNat = 0 ↔ o = 0 := by simp [BitVec.toNat_eq]
  simp only [ofsMask, h]

/-- Settles O36: each syllable by its own lemma above; the numbers and slots of `oclaim` are those that its searches find. -/
theorem matrixControl : Obligations.MatrixControl := by
  intro s g a b r o howed hi
  have hr : Dest.sreg r.toNat ∈ [Dest.sreg r.toNat, .ofs o.toNat] := List.mem_cons_self
  refine ⟨⟨_, mdrain_performs hi, ?_, fun q hq => ?_⟩, fun hd => mfmt_performs hi ((drained_eq_getLsbD _).trans hd),
    fun hd => mfmt_traps hi ((drained_eq_getLsbD _).trans hd), fun n p hn hp hfree hlow hclaim hused => ?_, fun hfull => ?_,
    fun p hp => orel_performs hi howed hp, fun ho => ?_, fun h4 h8 => ?_⟩
  · rw [getLsbD_setBits _ _ _ (by decide)]
    rfl
  · rw [getLsbD_setBits _ _ _ (by decide), if_neg (by omega)]
  · refine oclaim_claims hi hr (find?_range_lowest hn (by simp [hfree]) fun m hm => ?_)
      (find?_range_lowest hp (by simp [hclaim]) fun q hq => by simp [hused q hq])
    simpa [← Option.not_isSome] using hlow m hm
  · refine oclaim_fails hi hr (hfull.imp (fun h => ?_) fun h => ?_)
    · exact List.find?_range_eq_none.mpr fun n hn => by simpa [← Option.not_isSome] using h n hn
    · exact List.find?_range_eq_none.mpr fun p hp => by simp [h p hp]
  · rw [mofs_performs hi fun _ h => h, if_pos ho, sysWrite_ofs s ho, ofsMask_toNat]
  · rw [mofs_performs hi fun _ h => h, if_neg (by omega), sysWrite_ofstep s (by omega)]

end Sys2Proof.Machine
end

section
/-! SUPPORT. Accumulators zeroed, resolved, scaled, read and written (R207 to R210), and O35. -/

namespace Sys2Proof.Machine

theorem mzero_performs {s : State} {g : BitVec 4} {d : BitVec 3} (hd : d.toNat < accQuota s.task) (hi : Issues s g [.acc d.toNat]) :
    exec (.mzero g d) s = .next (after s (clearDr (setAcc s d.toNat Acc.initial))) :=
  matrix_performs rfl hi (fun _ h => h) (needAccs_ok (by simpa using hd)) rfl

/-- `mres` of an accumulator with identity codes writes it back as it is (R208). -/
theorem mres_performs {s : State} {g : BitVec 4} {d : BitVec 3} (hd : d.toNat < accQuota s.task) (hi : Issues s g [.acc d.toNat])
    (hr : (getAcc s d.toNat).rsc = 0x7F) (hc : (getAcc s d.toNat).csc = 0x7F) (hbad : (getAcc s d.toNat).bad = []) :
    exec (.mres g d) s = .next (after s (clearDr (setAcc s d.toNat (getAcc s d.toNat)))) := by
  have hrims : accRims (getAcc s d.toNat) true true = [] := accRims_identity hr hc true true
  refine matrix_performs rfl hi (fun _ h => h) ?_ ?_
  · rw [needAccs_ok (by simpa using hd), Pre.ok_and, hrims, waitRims_nil]
  · rw [unlessBad_of_good (accBad_eq_false hbad), resolveAcc_of_accRims_nil s hrims]

/-- `msacc` of accumulators with the same codes resolves neither, and adds to each element that of the other times its row's rim value
(R208). -/
theorem msacc_performs {s : State} {g : BitVec 4} {d e : BitVec 3} {k : BitVec 6} (hd : d.toNat < accQuota s.task)
    (he : e.toNat < accQuota s.task) (hi : Issues s g [.acc d.toNat, .rim k.toNat]) (hk : ReadyRims s [k.toNat])
    (hpass : msaccPasses (getAcc s d.toNat) (getAcc s e.toNat) = true) (hx : (getAcc s d.toNat).bad = [])
    (hy : (getAcc s e.toNat).bad = []) :
    exec (.msacc g d e k) s = .next (after s (clearDr (setAcc s d.toNat
      ⟨(getAcc s e.toNat).rsc, (getAcc s e.toNat).csc, false, smOfFn 0 256 fun n => accBits (fpFma f128 0
        ((rimValues s k.toNat).getD (n / 16) .zero) (accElem (getAcc s e.toNat) n) (accElem (getAcc s d.toNat) n)).bits, []⟩))) := by
  refine matrix_performs rfl hi (by simp [oddTiles]) ?_ ?_
  · simp only [hpass, if_true]
    rw [needAccs_ok (by simpa using ⟨hd, he⟩), Pre.ok_and, needRims_ok hk, Pre.ok_and, waitRims_ok hk]
  · rw [unlessBad_of_good (by rw [accBad_eq_false hx, accBad_eq_false hy]; rfl)]
    simp only [hpass, if_true]

theorem rimValues_getD (s : State) (k : Nat) {n : Nat} (h : n < 256) :
    (rimValues s k).getD (n / 16) .zero = fpDecode f32 (smGet 0 (getRim s k).vals (n / 16)).toNat := by
  have : n / 16 < 16 := by omega
  simp [rimValues, Array.getD, this, rimVal]

/-- Element k of `mrd` of an accumulator with identity codes, and its flags (R209). -/
def mrdElem (s : State) (a : Acc) (f k : Nat) : Nat × Flags :=
  if isFloatTag f = true then (fpRound (tagFmt f) (roundMode s.task) (accElem a k)).pair
  else
    let x := fpToInt (roundMode s.task) (intMin f) (intMax f) (accElem a k)
    (wrapInt f x.1, x.2)

theorem mrdResult_identity (s : State) {a : Acc} (hr : a.rsc = 0x7F) (hc : a.csc = 0x7F) (f : Nat) :
    mrdResult s a f = eachElem f (mrdElem s a f) := by
  unfold mrdResult mrdElem
  cases isFloatTag f with
  | true => rfl
  | false => simp [resolveAcc_of_accRims_nil s (accRims_identity hr hc true true)]

/-- `mrd` of an accumulator with identity codes writes a tile without factors (R209). -/
theorem mrd_performs {s : State} {g f : BitVec 4} {d : BitVec 3} {t : BitVec 5} (hd : d.toNat < accQuota s.task)
    (hr : (getAcc s d.toNat).rsc = 0x7F) (hc : (getAcc s d.toNat).csc = 0x7F) (hbad : (getAcc s d.toNat).bad = [])
    (ht : GoodTile s f.toNat t.toNat) (hi : Issues s g (tileUses f.toNat [t.toNat])) :
    let res := eachElem f.toNat (mrdElem s (getAcc s d.toNat) f.toNat)
    exec (.mrd g d t f) s = .next (after s (fpOutcome s 5 res.flags (fun u =>
      (resultTiles t.toNat f.toNat Slots.identity false res.elems).foldl (fun u w => setTile u w.1 w.2) u) (clearDr s))) := by
  have hslots : (if isFloatTag f.toNat = true then (⟨0x7F, (getAcc s d.toNat).rsc, 0x7F, (getAcc s d.toNat).csc⟩ : Slots)
      else Slots.identity) = Slots.identity := by
    rw [hr, hc]
    exact ite_self _
  refine matrix_performs rfl hi ?_ ?_ ?_
  · simp [tileUses, oddTiles]
  · simp only [needAccs_ok (by simpa using hd : ∀ a ∈ [d.toNat], a < accQuota s.task),
      needTiles_ok (by simpa using ht.1 : ∀ n ∈ [t.toNat], n < tileQuota s.task), needEvenTile_ok ht.2, Pre.ok_and,
      accRims_identity hr hc, waitRims_nil, ite_self]
  · rw [unlessBad_of_good (accBad_eq_false hbad)]
    simp only [hslots, mrdResult_identity s hr hc, factored, bne_self_eq_false, Bool.false_and]
    exact complete_outcome 5 _ _ s (clearDr s) rfl

/-- Element k of the tile that `mwr` widens, and its flags (R24, R210). -/
def mwrElem (s : State) (t k : Nat) : Rounded := fpConvert f128 0 (tileValue (readOpnd s t) k)

/-- The flags of all 256 conversions of `mwr`. -/
def mwrFlags (s : State) (t : Nat) : Flags := (List.range 256).foldl (fun x k => x ||| (mwrElem s t k).flags) 0

/-- A flag is set in the union of a function's flags over a list where it is set at the start or at a member. -/
theorem foldl_or_apply_getLsbD (f : Nat → Flags) (l : List Nat) (x : Flags) (b : Nat) :
    (l.foldl (fun a k => a ||| f k) x).getLsbD b = true ↔ x.getLsbD b = true ∨ ∃ k, k ∈ l ∧ (f k).getLsbD b = true := by
  have h := foldl_or_getLsbD (l.map fun k => (0, f k)) x b
  rw [List.foldl_map] at h
  refine h.trans (or_congr_right ⟨?_, ?_⟩)
  · rintro ⟨y, hy, hb⟩
    obtain ⟨k, hk, rfl⟩ := List.mem_map.mp hy
    exact ⟨k, hk, hb⟩
  · rintro ⟨k, hk, hb⟩
    exact ⟨(0, f k), List.mem_map.mpr ⟨k, hk, rfl⟩, hb⟩

theorem mwrFlags_getLsbD (s : State) (t b : Nat) :
    (mwrFlags s t).getLsbD b = true ↔ ∃ k, k < 256 ∧ (mwrElem s t k).flags.getLsbD b = true := by
  have hstart : (0 : Flags).getLsbD b = false := BitVec.getLsbD_zero
  rw [mwrFlags, foldl_or_apply_getLsbD]
  simp only [hstart, Bool.false_eq_true, false_or, List.mem_range]

/-- `mwr` of a tile without factors writes its widened elements with identity codes (R210). -/
theorem mwr_performs {s : State} {g f : BitVec 4} {d : BitVec 3} {t : BitVec 5} (hd : d.toNat < accQuota s.task)
    (ht : PlainTiles s f.toNat [t.toNat]) (hi : Issues s g (tileUses f.toNat [t.toNat] ++ [.acc d.toNat])) :
    exec (.mwr g d t f) s = .next (after s (fpOutcome s 5 (mwrFlags s t.toNat) (fun u => setAcc u d.toNat
      ⟨0x7F, 0x7F, false, smOfFn 0 256 fun k => accBits (mwrElem s t.toNat k).bits, []⟩) (clearDr s))) := by
  obtain ⟨hquota, htag, heven, hslots⟩ := ht t.toNat (List.mem_singleton.mpr rfl)
  have hun : Unfactored [(readOpnd s t.toNat, mwrPos (getTile s t.toNat).slots)] := by simpa [Unfactored] using hslots
  refine matrix_performs rfl hi (tileSource_uses ht) ?_ ?_
  · rw [needAccs_ok (by simpa using hd), Pre.ok_and, needTiles_ok (by simpa using hquota), Pre.ok_and, htag,
      need_ok (beq_self_eq_true _), Pre.ok_and, needEvenTile_ok heven, Pre.ok_and, rimsOf_unfactored hun, waitRims_nil]
  · simp only [resolve_identity s (o := readOpnd s t.toNat) _ hslots, readOpnd_slots, hslots]
    exact complete_outcome 5 _ _ s (clearDr s) rfl

/-- Settles O35: each syllable by its own lemma above. Elements are read off the map that the instruction builds, and the flags of 256
conversions are the union of their flags. -/
theorem accumulators : Obligations.Accumulators := by
  intro s g d e k t f hd he
  refine ⟨mzero_performs hd, mres_performs hd, fun hi hk _ hr hc hx hy => ?_, fun _ hr hc hbad ht hi => ?_, fun _ ht hi => ?_⟩
  · refine ⟨_, msacc_performs hd he hi hk (by simp [msaccPasses, hr, hc]) hx hy, rfl, rfl, rfl, fun n hn => ?_⟩
    rw [smGet_smOfFn _ hn, rimValues_getD s _ hn]
    rfl
  · refine ⟨_, _, eachElem_size _ _, fun n hn => ?_, fun b => ?_, mrd_performs hd hr hc hbad ht hi⟩
    · rw [eachElem_getD _ _ hn]
      exact apply_ite Prod.fst _ _ _
    · rw [eachElem_flags_getLsbD]
      refine exists_congr fun n => and_congr_right fun _ => ?_
      rw [mrdElem, apply_ite Prod.snd]
      rfl
  · refine ⟨_, _, mwr_performs hd ht hi, rfl, rfl, rfl, rfl, fun n hn => ?_, fun b => ?_⟩
    · rw [smGet_smOfFn _ hn]
      obtain ⟨-, htag, -⟩ := ht t.toNat (List.mem_singleton.mpr rfl)
      simp only [mwrElem, tileValue, readOpnd_tag, htag, accBits]
    · obtain ⟨-, htag, -⟩ := ht t.toNat (List.mem_singleton.mpr rfl)
      simp only [mwrFlags_getLsbD, mwrElem, tileValue, readOpnd_tag, htag]

end Sys2Proof.Machine
end

section
/-! SUPPORT. Matrix products without factor codes (R198, R205, R212, R213, R216), and O34. -/

namespace Sys2Proof.Machine

@[simp] theorem aOpnd_codes (s : State) (tap : Bool) (o : Nat) : (aOpnd s tap o).codes = (operand s o).codes := by
  unfold aOpnd
  split <;> rfl

@[simp] theorem bOpnd_codes (s : State) (bt : Bool) (o : Nat) : (bOpnd s bt o).codes = (operand s o).codes := rfl

/-- An operand that is resolved through no position is read as it is. -/
theorem resolveOpnd_identity (s : State) (f m row col : Nat) (x : Fp) : resolveOpnd s f Slots.identity m row col x = x := by
  simp [resolveOpnd]

/-- Only the first `kx` elements of the A row and the B column count (R198). -/
theorem mmaElem_congr {kx g : Nat} {zero : Bool} {a a' b b' : Nat → Fp} (ha : ∀ k, k < kx → a k = a' k)
    (hb : ∀ k, k < kx → b k = b' k) (c : Fp) : mmaElem kx g zero a b c = mmaElem kx g zero a' b' c := by
  refine List.foldl_rel (r := Eq) rfl fun n hn acc _ hacc => ?_
  subst hacc
  have hterms : (List.range g).map (fun t => (fpMul (a (n * g + t)) (b (n * g + t))).1) =
      (List.range g).map fun t => (fpMul (a' (n * g + t)) (b' (n * g + t))).1 := by
    refine List.map_congr_left fun t ht => ?_
    have hk : n * g + t < kx := calc
      n * g + t < (n + 1) * g := by rw [Nat.succ_mul]; exact Nat.add_lt_add_left (List.mem_range.mp ht) _
      _ ≤ kx / g * g := Nat.mul_le_mul_right g (List.mem_range.mp hn)
      _ ≤ kx := Nat.div_mul_le_self kx g
    rw [ha _ hk, hb _ hk]
  simp only [hterms]

/-- An element of a table of 16 lines of `n` elements. -/
theorem lines_getD {n i k : Nat} (f : Nat → Nat → Fp) (hi : i < 16) (hk : k < n) :
    (((Array.range 16).map fun i => (Array.range n).map fun k => f i k).getD i #[]).getD k .zero = f i k := by
  simp [Array.getD, hi, hk]

section Product

variable {s : State} {zero tap bt : Bool} {d a b : Nat}

/-- Without factor codes a product resolves nothing, and its result has identity codes (R206). -/
theorem mmaPlanOf_identity (ha : (operand s a).codes = Slots.identity) (hb : (operand s b).codes = Slots.identity)
    (hr : (getAcc s d).rsc = 0x7F) (hc : (getAcc s d).csc = 0x7F) :
    mmaPlanOf s zero tap bt d a b = ⟨0, 0, 0x7F, 0x7F, false, false⟩ := by
  simp [mmaPlanOf, mmaPlan, ha, hb, hr, hc, Slots.identity, isFactor]

/-- Nor does it read a rim. -/
theorem mmaRims_identity (ha : (operand s a).codes = Slots.identity) (hb : (operand s b).codes = Slots.identity)
    (hr : (getAcc s d).rsc = 0x7F) (hc : (getAcc s d).csc = 0x7F) : mmaRims s zero tap bt d a b = [] := by
  simp [mmaRims, ha, hb, accRims_identity hr hc]

/-- The result of a product without factor codes has none. -/
theorem mmaResult_codes (ha : (operand s a).codes = Slots.identity) (hb : (operand s b).codes = Slots.identity)
    (hr : (getAcc s d).rsc = 0x7F) (hc : (getAcc s d).csc = 0x7F) :
    (mmaResult s zero tap bt d a b).rsc = 0x7F ∧ (mmaResult s zero tap bt d a b).csc = 0x7F := by
  rw [mmaResult, mmaPlanOf_identity ha hb hr hc]
  exact ⟨rfl, rfl⟩

/-- An element of the product is R205's of the raw operands on the raw accumulator. -/
theorem mmaResult_elem (ha : (operand s a).codes = Slots.identity) (hb : (operand s b).codes = Slots.identity)
    (hr : (getAcc s d).rsc = 0x7F) (hc : (getAcc s d).csc = 0x7F) {e : Nat} (he : e < 256) :
    let x := aOpnd s tap a
    let y := bOpnd s bt b
    smGet 0 (mmaResult s zero tap bt d a b).vals e = BitVec.ofNat 128 (mmaElem (extentOf x.fmt y.fmt) (groupOf x.fmt y.fmt) zero
      (fun k => if x.inside (e / 16) = true then x.elem (e / 16) k else .zero) (fun k => y.elem k (e % 16))
      (accElem (getAcc s d) e)) := by
  have hrow : e / 16 < 16 := by omega
  have hcol : e % 16 < 16 := by omega
  simp only [mmaResult, mmaPlanOf_identity ha hb hr hc, aOpnd_codes, bOpnd_codes, ha, hb, resolveOpnd_identity]
  rw [smGet_smOfFn _ he, resolveAcc_of_accRims_nil s (accRims_identity hr hc false false)]
  exact congrArg _ (mmaElem_congr (fun k hk => lines_getD _ hrow hk)
    (fun k hk => lines_getD (fun j k => (bOpnd s bt b).elem k j) hcol hk) _)

end Product

/-- What a product reads holds an uncorrectable error (R216). -/
def mmaBad (s : State) (zero tap bt : Bool) (d a b : Nat) : Bool :=
  aBad s tap a || bBad s bt b || (!zero && accBad s d)

/-- What a product that reads no error leaves: the result, MFMT.DR at 0, and in tap mode stepped offsets (R199, R213). -/
def mmaDone (s : State) (zero tap bt : Bool) (d a b : Nat) : State :=
  let u := clearDr (setAcc s d (mmaResult s zero tap bt d a b))
  if tap = true then { u with task := stepTap u.task 4 0 } else u

/-- The two outcomes of a product that issues; that one which reads an error steps no offset is log 74's reading of R213 and R216. -/
theorem mmaOp_eff (s : State) (g : BitVec 4) (d : BitVec 3) (a b : BitVec 6) (zero tap bt : Bool) (c : Ctx) :
    (mmaOp zero tap bt g d a b).eff c s s =
      if mmaBad s zero tap bt d.toNat a.toNat b.toNat = true then consumeError (clearDr s) c.slot s.task.pc s.task.pc []
      else mmaDone s zero tap bt d.toNat a.toNat b.toNat := rfl

/-- A product whose operands and formats are as R198 and R199 ask, and which reads no rim, issues. -/
theorem mmaOp_performs {i : Instr} {s : State} {g : BitVec 4} {d : BitVec 3} {a b : BitVec 6} {zero tap bt : Bool}
    (hx : exec i s = issueLone 5 (mmaOp zero tap bt g d a b) s)
    (hi : Issues s g (.acc d.toNat :: if tap = true then (List.range 8).map .ofs else [])) (howed : s.task.owed = [])
    (hd : d.toNat < accQuota s.task) (hmapB : slotMapped s b.toNat = true)
    (hA : ∀ o ∈ aSlots s.task tap a.toNat, slotMapped s o = true ∧ (operand s o).fmt.toNat = fmtA s.task)
    (hfmtB : (operand s b.toNat).fmt.toNat = fmtB s.task) (hlay : bt = false → isQbTag (fmtB s.task) = false)
    (hrims : mmaRims s zero tap bt d.toNat a.toNat b.toNat = []) :
    exec i s = .next (after s ((mmaOp zero tap bt g d a b).eff (loneCtx 5 s) s s)) := by
  have hmap : ((aSlots s.task tap a.toNat).all (slotMapped s) && slotMapped s b.toNat) = true := by
    rw [hmapB, Bool.and_true]
    exact List.all_eq_true.mpr fun o ho => (hA o ho).1
  have hfmtA : (aSlots s.task tap a.toNat).all (fun o => (operand s o).fmt.toNat == fmtA s.task) = true :=
    List.all_eq_true.mpr fun o ho => beq_iff_eq.mpr (hA o ho).2
  have hlayout : (bt || !isQbTag (fmtB s.task)) = true := by
    cases bt with
    | true => rfl
    | false => rw [hlay rfl]; rfl
  refine matrix_performs hx hi (by simp [oddTiles]) ?_ rfl
  rw [needAccs_ok (by simpa using hd), Pre.ok_and, need_ok hmap, Pre.ok_and, waitSlots_ok howed, Pre.ok_and, need_ok hfmtA,
    Pre.ok_and, need_ok (beq_iff_eq.mpr hfmtB), Pre.ok_and, need_ok hlayout, Pre.ok_and, hrims, waitRims_nil]

/-- Each of the eight products is `mmaOp` of its three choices. -/
theorem exec_product {i : Instr} {s : State} {g : BitVec 4} {d : BitVec 3} {a b : BitVec 6} {zero tap bt : Bool}
    (h : (i, zero, tap, bt) ∈ ([(.mma g d a b, false, false, false), (.mmz g d a b, true, false, false),
      (.mmaTap g d a b, false, true, false), (.mmzTap g d a b, true, true, false), (.mmaBt g d a b, false, false, true),
      (.mmzBt g d a b, true, false, true), (.mmaTapBt g d a b, false, true, true), (.mmzTapBt g d a b, true, true, true)]
      : List (Instr × Bool × Bool × Bool))) :
    exec i s = issueLone 5 (mmaOp zero tap bt g d a b) s := by
  simp only [List.mem_cons, List.not_mem_nil, or_false, Prod.mk.injEq] at h
  rcases h with ⟨rfl, rfl, rfl, rfl⟩ | ⟨rfl, rfl, rfl, rfl⟩ | ⟨rfl, rfl, rfl, rfl⟩ | ⟨rfl, rfl, rfl, rfl⟩ | ⟨rfl, rfl, rfl, rfl⟩ |
    ⟨rfl, rfl, rfl, rfl⟩ | ⟨rfl, rfl, rfl, rfl⟩ | ⟨rfl, rfl, rfl, rfl⟩
  all_goals rfl

/-- Settles O34: every form passes its checks, since without codes it waits for no rim, and its result is `mmaResult`, of which
`mmaResult_elem` gives the elements. -/
theorem matrixProducts : Obligations.MatrixProducts := by
  intro s g d a b zero tap bt i hform hi howed hd hmapB hA hfmtB hlay hca hcb hr hc bad
  have hperf := mmaOp_performs (exec_product hform) hi howed hd hmapB hA hfmtB hlay (mmaRims_identity hca hcb hr hc)
  obtain ⟨hrow, hcol⟩ := mmaResult_codes hca hcb hr hc
  have hbad : bad = mmaBad s zero tap bt d.toNat a.toNat b.toNat := rfl
  refine ⟨fun herror => ?_, fun hgood => ⟨mmaResult s zero tap bt d.toNat a.toNat b.toNat, hrow, hcol, rfl,
    fun e he => mmaResult_elem hca hcb hr hc he, ?_⟩⟩
  · rw [hperf, mmaOp_eff, if_pos (hbad.symm.trans herror)]
    rfl
  · rw [hperf, mmaOp_eff, if_neg (Bool.eq_false_iff.mp (hbad.symm.trans hgood))]
    rfl

end Sys2Proof.Machine
end
